-- ==== Sys2Proof/Word.lean ====
section
/-! DEFINITION. The word types of the FL9640 terminal and the two names of its lines. -/

namespace Sys2Proof

/-- A register word (Scope: registers are 32 bits wide). -/
abbrev Word := BitVec 32

/-- One byte of a frame, a message or the flash. -/
abbrev Byte := BitVec 8

/-- A 64-bit counter or register pair. -/
abbrev DWord := BitVec 64

/-- The two line attachments of Table 0.3. -/
inductive Line where
  | a
  | b
  deriving DecidableEq, Repr

/-- Line A is instance 0 and line B instance 1 of every per-line block. -/
def Line.idx : Line → Nat
  | .a => 0
  | .b => 1

/-- The other line. -/
def Line.other : Line → Line
  | .a => .b
  | .b => .a

/-- The line with the given number; every number but 0 names line B. -/
def lineOf (n : Nat) : Line := if n = 0 then .a else .b

end Sys2Proof
end

