-- ==== Sys2Proof/Machine/CommandTypes.lean ====
section
/-! DEFINITION. What the commands carry beside plain numbers: the masters, the parts of messages, frames as the
receivers see them, and fault reports. -/

namespace Sys2Proof.Machine
open Sys2Proof

/-- The masters of Table 14.1, in the order of their codes. -/
inductive Master where
  | config | pair0 | pair1 | headA | headB | bar0 | bar1 | mgt
  deriving DecidableEq, Repr

/-- A master's code in Table 14.1. -/
def Master.code : Master → Nat
  | .config => 0 | .pair0 => 1 | .pair1 => 2 | .headA => 3 | .headB => 4 | .bar0 => 5 | .bar1 => 6 | .mgt => 7

/-- What every downstream message has (Tables 3.4 and 3.5): the FN of the frame that carries it, its TID, ACKREQ and
SEQ, whether a byte of it is errored, and its MIC. -/
structure Msg where
  fn : Nat
  tid : Nat
  ackreq : Bool := false
  seq : Nat := 0
  errored : Bool := false
  mic : List Byte := []
  deriving DecidableEq, Repr

/-- One profile of a PROFILE message: LEN and PAT (Table 3.5). -/
structure Profile where
  len : Nat
  pat : Word
  deriving DecidableEq, Repr

/-- One entry of an ALLOC_ASSIGN message: alloc ID, allocation port and flags (Table 3.5). -/
structure AllocEntry where
  alloc : Nat := 0
  port : Nat := 0
  flags : Nat := 0
  deriving DecidableEq, Repr

/-- One entry of a REG_ACCESS message: op, address and data (Table 3.5). -/
structure RegEntry where
  op : Nat := 0
  addr : Nat := 0
  data : Word := 0
  deriving DecidableEq, Repr

/-- A frame as decoded: the payload bytes, the codewords that could not be corrected, the symbols and bits
corrected and the codewords with corrections, the stuff symbols deleted and those of the wrong value, and how many
codewords completed (R40, R47). -/
structure FrameBody where
  payload : List Byte
  bad : List Nat := []
  corrSymbols : Nat := 0
  corrWords : Nat := 0
  corrBits : Nat := 0
  stuffed : Nat := 0
  stuffBad : Nat := 0
  complete : Nat := 2204
  deriving DecidableEq, Repr

/-- A frame as the receiver takes it: decoded, or as the PAM4 levels that follow its sync field. -/
inductive FrameRx where
  | decoded (f : FrameBody)
  | symbols (levels : List Nat)
  deriving DecidableEq, Repr

/-- One fault as a mechanism reports it: its class, the fields of its log entry, and whether its cause stays (R388). -/
structure FaultReport where
  cls : Nat
  dom : Nat := 63
  loc : Nat := 0
  detail : Nat := 0
  active : Bool := false
  deriving DecidableEq, Repr

/-- The JTAG instructions that the spec tells apart (R398, R430). -/
inductive JtagInstr where
  | bypass | idcode | sample | test (code : Nat)
  deriving DecidableEq, Repr

/-- The slow windows of R352. -/
inductive PostedWindow where
  | power | wake | line (x : Line) | lane (n : Nat) | trib (m : Nat) | nvm
  deriving DecidableEq, Repr

/-- What the check of the cells read for egress finds (R184): single-bit errors corrected, an ECC error that cannot be
corrected, a wrong CRC, and whether sending had begun when it was found. -/
structure CellCheck where
  corrected : Nat := 0
  uncorrectable : Bool := false
  crc : Bool := false
  begun : Bool := false
  deriving DecidableEq, Repr

/-- What start-up finds that is not state of the terminal (R321, R399): whether the OTP read failed, the tests of step 4 that
failed (LBIST, memory BIST, injection, Porter), with what their log entries name, the flash mode and sizes SFDP declares, the
domains whose wake fails in step 7, each with the step that fails and whether its memory BIST failed, and whether an OTP
program for a floor fails. -/
structure BootReport where
  otpError : Bool := false
  lbist : Bool := false
  mbist : Bool := false
  inject : Bool := false
  porter : Bool := false
  faults : List FaultReport := []
  flashMode : Nat := 2
  cs0 : Nat := 64
  cs1 : Nat := 0
  noWake : List (Nat × Nat × Bool) := []
  otpFails : Bool := false
  deriving DecidableEq, Repr

/-- How an I2C transaction ends: complete, or after a NACK on the address, or on REG or a data byte. -/
inductive I2cEnd where
  | complete | addressNack | dataNack
  deriving DecidableEq, Repr

/-- The clock inputs of R419. -/
inductive ClockInput where
  | refclk | holdOsc | pcie
  deriving DecidableEq, Repr

/-- The attributes of a packet event (R364): frame bytes, flow, queue, port, and whether the port is a
scheduler port. Absent attributes hold all ones. -/
structure PacketAttr where
  len : Nat := 0x3FFF
  flow : Nat := 0xFFF
  queue : Nat := 0x1FFF
  port : Nat := 0xFF
  egress : Bool := false
  deriving DecidableEq, Repr

end Sys2Proof.Machine
end

