-- ==== Sys2Proof/Machine/Bits.lean ====
section
/-! DEFINITION. Bit-field, byte-order and checksum helpers used by every block. -/

namespace Sys2Proof.Machine
open Sys2Proof

/-- Bits `lo + n - 1` down to `lo` of a number. -/
def natBits (v lo n : Nat) : Nat := (v >>> lo) % 2 ^ n

/-- The number `v` with its `n` bits from `lo` up replaced by `x`. -/
def natPut (v lo n x : Nat) : Nat := v - (natBits v lo n) <<< lo + (x % 2 ^ n) <<< lo

/-- One field of a register word. -/
def wordBits (w : Word) (lo n : Nat) : Nat := natBits w.toNat lo n

/-- A register word with one field replaced. -/
def wordPut (w : Word) (lo n x : Nat) : Word := BitVec.ofNat 32 (natPut w.toNat lo n x)

/-- Bit `k` of a number. -/
def bitOf (v k : Nat) : Bool := v.testBit k

/-- A condition as 0 or 1. -/
def b2n (b : Bool) : Nat := if b then 1 else 0

/-- The low `k` bytes of a number, most significant first (Scope: line order). -/
def beBytes : Nat → Nat → List Byte
  | 0, _ => []
  | k + 1, v => BitVec.ofNat 8 (v >>> (8 * k)) :: beBytes k v

/-- The number that bytes spell, most significant first. -/
def beNat (bs : List Byte) : Nat := bs.foldl (fun a b => a * 256 + b.toNat) 0

/-- The low `k` bytes of a number, least significant first. -/
def leBytes : Nat → Nat → List Byte
  | 0, _ => []
  | k + 1, v => BitVec.ofNat 8 v :: leBytes k (v / 256)

/-- The number that bytes spell, least significant first. -/
def leNat : List Byte → Nat
  | [] => 0
  | b :: bs => b.toNat + 256 * leNat bs

/-- Byte `i` of a string; bytes past its end read 0. -/
def byteAt (bs : List Byte) (i : Nat) : Nat := (bs.getD i 0).toNat

/-- The big-endian number in bytes `i` to `i + k - 1`. -/
def beAt (bs : List Byte) (i k : Nat) : Nat := beNat ((List.range k).map fun j => bs.getD (i + j) 0)

/-- The little-endian number in bytes `i` to `i + k - 1`. -/
def leAt (bs : List Byte) (i k : Nat) : Nat := leNat ((List.range k).map fun j => bs.getD (i + j) 0)

/-- Bytes `i` to `i + k - 1`, with 0 past the end. -/
def slice (bs : List Byte) (i k : Nat) : List Byte := (List.range k).map fun j => bs.getD (i + j) 0

/-- A string with the bytes from `i` on replaced by `new`. -/
def splice (bs : List Byte) (i : Nat) (new : List Byte) : List Byte :=
  bs.take i ++ new ++ bs.drop (i + new.length)

/-- `n` bytes of value `v`. -/
def fill (n : Nat) (v : Nat) : List Byte := List.replicate n (BitVec.ofNat 8 v)

/-- The number of bits set among the low `n` bits. -/
def popcount : Nat → Nat → Nat
  | 0, _ => 0
  | n + 1, v => b2n (v.testBit n) + popcount n v

/-- The lowest set bit among the low `n` bits. -/
def lowestBit (n v : Nat) : Option Nat := (List.range n).find? fun k => v.testBit k

/-- The number a two's-complement field of `n` bits stands for. -/
def signed (n v : Nat) : Int := if v % 2 ^ n < 2 ^ (n - 1) then (v % 2 ^ n : Nat) else (v % 2 ^ n : Nat) - (2 ^ n : Nat)

/-- The two's-complement field of `n` bits that stands for a number. -/
def toField (n : Nat) (v : Int) : Nat := (v % (2 ^ n : Nat)).toNat

/-- A number held between two bounds. -/
def clampInt (lo hi v : Int) : Int := if v < lo then lo else if hi < v then hi else v

/-- Division rounded up. -/
def ceilDiv (a b : Nat) : Nat := if b = 0 then 0 else (a + b - 1) / b

/-- One bit step of a CRC shift register of `w` bits, most significant bit first. -/
def crcBit (w poly crc : Nat) (b : Bool) : Nat :=
  let top := crc.testBit (w - 1) ^^ b
  let sh := (crc <<< 1) % 2 ^ w
  if top then sh ^^^ poly else sh

/-- One byte through a CRC register, its most significant bit first. -/
def crcByte (w poly crc : Nat) (b : Byte) : Nat :=
  (List.range 8).foldl (fun c k => crcBit w poly c (b.toNat.testBit (7 - k))) crc

/-- A CRC over bytes, most significant bit of each first. -/
def crcMsb (w poly init : Nat) (bs : List Byte) : Nat := bs.foldl (crcByte w poly) init

/-- One bit step of a reflected CRC register, least significant bit first. -/
def crcBitR (poly crc : Nat) (b : Bool) : Nat :=
  let low := crc.testBit 0 ^^ b
  if low then (crc >>> 1) ^^^ poly else crc >>> 1

/-- A reflected CRC over bytes, least significant bit of each first. -/
def crcLsb (poly init : Nat) (bs : List Byte) : Nat :=
  bs.foldl (fun c b => (List.range 8).foldl (fun c k => crcBitR poly c (b.toNat.testBit k)) c) init

/-- The CRC-32 of an Ethernet frame check sequence. PRESUMED: the standard IEEE 802.3 CRC, which the
source names only as FCS (assumption 20). -/
def fcs32 (bs : List Byte) : Nat := crcLsb 0xEDB88320 0xFFFFFFFF bs ^^^ 0xFFFFFFFF

/-- The one's-complement sum of 16-bit words. -/
def onesSum : List Byte → Nat
  | [] => 0
  | [a] => a.toNat * 256
  | a :: b :: r => let s := a.toNat * 256 + b.toNat + onesSum r; if s ≥ 65536 then s - 65535 else s

/-- The Internet checksum of a byte string. -/
def inetSum (bs : List Byte) : Nat := 65535 - onesSum bs % 65536

end Sys2Proof.Machine
end

