-- ==== Sys2Proof/Machine/Maps.lean ====
section
/-! DEFINITION. Sparse tables in one canonical form: keys strictly rising, and no entry that equals
what an unlisted key reads as. Registers, counters, tables and the flash are held in this form. -/

namespace Sys2Proof.Machine

/-- A sparse table keyed by number. -/
abbrev Map (α : Type) := List (Nat × α)

/-- The value at a key; an unlisted key reads as `d`. -/
def Map.get {α : Type} (d : α) (m : Map α) (k : Nat) : α :=
  match m with
  | [] => d
  | (j, v) :: r => if j = k then v else Map.get d r k

/-- The table with an entry listed at a key, whatever its value. -/
def Map.insert {α : Type} (m : Map α) (k : Nat) (v : α) : Map α :=
  match m with
  | [] => [(k, v)]
  | (j, u) :: r => if j = k then (k, v) :: r else if k < j then (k, v) :: (j, u) :: r else (j, u) :: Map.insert r k v

/-- The table without the entry at a key. -/
def Map.erase {α : Type} (m : Map α) (k : Nat) : Map α :=
  match m with
  | [] => []
  | (j, u) :: r => if j = k then Map.erase r k else (j, u) :: Map.erase r k

/-- The table with the value at a key replaced; writing the unlisted value removes the entry. -/
def Map.set {α : Type} [DecidableEq α] (d : α) (m : Map α) (k : Nat) (v : α) : Map α :=
  if v = d then Map.erase m k else Map.insert m k v

/-- Every key of the table is above `b`, and they rise strictly. -/
def Map.rising {α : Type} (b : Nat) : Map α → Bool
  | [] => true
  | (j, _) :: r => decide (b ≤ j) && Map.rising (j + 1) r

/-- The canonical form: keys strictly rising, no entry equal to its default. -/
def Map.wf {α : Type} [DecidableEq α] (d : Nat → α) (m : Map α) : Bool :=
  Map.rising 0 m && m.all fun e => decide (e.2 ≠ d e.1)

/-- The keys that are listed. -/
def Map.keys {α : Type} (m : Map α) : List Nat := m.map (·.1)

end Sys2Proof.Machine
end

