-- ==== Sys2Proof/Machine/RegMap.lean ====
section
/-! DEFINITION. The register map: one address and one field definition per register the spec's
headers give, and the table of every register's privilege mark, class, domain, reset value and
access codes (R7 to R11, R25 and the register sections of every chapter). -/

namespace Sys2Proof.Machine
open Sys2Proof

/-- The access codes of Table 0.4; a 64-bit pair is given by its row, not by its fields. -/
inductive Acc where
  | ro | rw | w1c | sc | mw | pw | wo
  deriving DecidableEq, Repr

/-- The privilege marks of R8: every master, privileged and secure, secure only. -/
inductive Mark where
  | u | p | s
  deriving DecidableEq, Repr

/-- The register classes of R9. -/
inductive RegClass where
  | c | d
  deriving DecidableEq, Repr

/-- Whether a register is one word of a 64-bit pair (R351). -/
inductive PairKind where
  | none | lo | hi
  deriving DecidableEq, Repr

/-- The power domain of a register row: one domain, one that is 3 higher for line B, the domain of a
port, a lane or a tributary (R238, R263), or one that counts up with the row's last index. -/
inductive DomSpec where
  | fixed (pd : Nat)
  | perLine (pd : Nat)
  | mac | quad | trib
  | plus (pd : Nat)
  deriving DecidableEq, Repr

/-- The clock domain of a register row. -/
inductive ClkSpec where
  | fixed (ck : Nat)
  | perLine (ck : Nat)
  deriving DecidableEq, Repr

/-- One field of a register: its access code and its bits. -/
structure FieldRow where
  acc : Acc
  hi : Nat
  lo : Nat
  deriving DecidableEq, Repr

/-- One register of the map, with every instance of it: `dims` gives the count and the address stride
of each index, outermost first; `resets` overrides the reset value for the first values of the last index. -/
structure RegRow where
  name : String
  addr : Nat
  dims : List (Nat × Nat) := []
  dom : DomSpec
  clk : ClkSpec := .fixed 1
  mark : Mark
  cls : RegClass
  pair : PairKind := .none
  reset : Word := 0
  resets : List Word := []
  fields : List FieldRow
  deriving DecidableEq, Repr

/-- A field of one register: its address, its lowest bit and its width. -/
structure Fld where
  addr : Nat
  lo : Nat
  width : Nat
  deriving DecidableEq, Repr

/-! Registers of spec/00_scope.md. -/

/-- TOP_CHIP_ID (R3). -/
def TOP_CHIP_ID : Nat := 0x000000
def TOP_CHIP_ID_PART : Fld := ⟨TOP_CHIP_ID, 16, 16⟩
def TOP_CHIP_ID_STEP_LETTER : Fld := ⟨TOP_CHIP_ID, 8, 8⟩
def TOP_CHIP_ID_STEP_NUM : Fld := ⟨TOP_CHIP_ID, 0, 8⟩

/-- TOP_PART_OPT (R3). -/
def TOP_PART_OPT : Nat := 0x000004
def TOP_PART_OPT_HCS_FUSED : Fld := ⟨TOP_PART_OPT, 2, 1⟩
def TOP_PART_OPT_GRADE : Fld := ⟨TOP_PART_OPT, 0, 2⟩

/-! Registers of spec/01_architecture.md. -/

/-- TOP_INT_SUM (R24). -/
def TOP_INT_SUM : Nat := 0x000100
def TOP_INT_SUM_MGT : Fld := ⟨TOP_INT_SUM, 27, 1⟩
def TOP_INT_SUM_NVM : Fld := ⟨TOP_INT_SUM, 26, 1⟩
def TOP_INT_SUM_MBX : Fld := ⟨TOP_INT_SUM, 25, 1⟩
def TOP_INT_SUM_HST : Fld := ⟨TOP_INT_SUM, 24, 1⟩
def TOP_INT_SUM_KEY : Fld := ⟨TOP_INT_SUM, 23, 1⟩
def TOP_INT_SUM_CPH : Fld := ⟨TOP_INT_SUM, 22, 1⟩
def TOP_INT_SUM_TCM : Fld := ⟨TOP_INT_SUM, 21, 1⟩
def TOP_INT_SUM_TSI : Fld := ⟨TOP_INT_SUM, 20, 1⟩
def TOP_INT_SUM_TDM : Fld := ⟨TOP_INT_SUM, 19, 1⟩
def TOP_INT_SUM_SDS : Fld := ⟨TOP_INT_SUM, 18, 1⟩
def TOP_INT_SUM_ETH : Fld := ⟨TOP_INT_SUM, 17, 1⟩
def TOP_INT_SUM_TOL : Fld := ⟨TOP_INT_SUM, 16, 1⟩
def TOP_INT_SUM_DRV : Fld := ⟨TOP_INT_SUM, 15, 1⟩
def TOP_INT_SUM_COP : Fld := ⟨TOP_INT_SUM, 14, 1⟩
def TOP_INT_SUM_SRT : Fld := ⟨TOP_INT_SUM, 13, 1⟩
def TOP_INT_SUM_CAR : Fld := ⟨TOP_INT_SUM, 12, 1⟩
def TOP_INT_SUM_TWE : Fld := ⟨TOP_INT_SUM, 11, 1⟩
def TOP_INT_SUM_LPB : Fld := ⟨TOP_INT_SUM, 10, 1⟩
def TOP_INT_SUM_LNB : Fld := ⟨TOP_INT_SUM, 9, 1⟩
def TOP_INT_SUM_LPA : Fld := ⟨TOP_INT_SUM, 8, 1⟩
def TOP_INT_SUM_LNA : Fld := ⟨TOP_INT_SUM, 7, 1⟩
def TOP_INT_SUM_TAL : Fld := ⟨TOP_INT_SUM, 6, 1⟩
def TOP_INT_SUM_NTU : Fld := ⟨TOP_INT_SUM, 5, 1⟩
def TOP_INT_SUM_ITM : Fld := ⟨TOP_INT_SUM, 4, 1⟩
def TOP_INT_SUM_CLK : Fld := ⟨TOP_INT_SUM, 3, 1⟩
def TOP_INT_SUM_PWR : Fld := ⟨TOP_INT_SUM, 2, 1⟩
def TOP_INT_SUM_CFG : Fld := ⟨TOP_INT_SUM, 1, 1⟩
def TOP_INT_SUM_TOP : Fld := ⟨TOP_INT_SUM, 0, 1⟩

/-- TOP_INT_PIN_EN (R24). -/
def TOP_INT_PIN_EN : Nat := 0x000104
def TOP_INT_PIN_EN_EN : Fld := ⟨TOP_INT_PIN_EN, 0, 28⟩

/-- TOP_INT_STATUS (R24). -/
def TOP_INT_STATUS : Nat := 0x000108
def TOP_INT_STATUS_PINMUX_ERR : Fld := ⟨TOP_INT_STATUS, 2, 1⟩
def TOP_INT_STATUS_WDOG_RST : Fld := ⟨TOP_INT_STATUS, 1, 1⟩
def TOP_INT_STATUS_PORST : Fld := ⟨TOP_INT_STATUS, 0, 1⟩

/-- TOP_INT_EN (R24). -/
def TOP_INT_EN : Nat := 0x00010c
def TOP_INT_EN_EN : Fld := ⟨TOP_INT_EN, 0, 3⟩

/-- TOP_INT_VECn (R24). -/
def TOP_INT_VEC (n : Nat) : Nat := 0x000110 + 4 * n
def TOP_INT_VEC_VEN0 (n : Nat) : Fld := ⟨TOP_INT_VEC n, 7, 1⟩
def TOP_INT_VEC_VEN1 (n : Nat) : Fld := ⟨TOP_INT_VEC n, 15, 1⟩
def TOP_INT_VEC_VEN2 (n : Nat) : Fld := ⟨TOP_INT_VEC n, 23, 1⟩
def TOP_INT_VEC_VEN3 (n : Nat) : Fld := ⟨TOP_INT_VEC n, 31, 1⟩
def TOP_INT_VEC_VEC0 (n : Nat) : Fld := ⟨TOP_INT_VEC n, 0, 6⟩
def TOP_INT_VEC_VEC1 (n : Nat) : Fld := ⟨TOP_INT_VEC n, 8, 6⟩
def TOP_INT_VEC_VEC2 (n : Nat) : Fld := ⟨TOP_INT_VEC n, 16, 6⟩
def TOP_INT_VEC_VEC3 (n : Nat) : Fld := ⟨TOP_INT_VEC n, 24, 6⟩

/-! Registers of spec/02_access_line_physical.md. -/

/-- LNx_RX_CTRL (R54). -/
def LNx_RX_CTRL (x : Line) : Nat := 0x080000 + 0x20000 * x.idx
def LNx_RX_CTRL_LMS_GAIN (x : Line) : Fld := ⟨LNx_RX_CTRL x, 4, 4⟩
def LNx_RX_CTRL_ADAPT_FREEZE (x : Line) : Fld := ⟨LNx_RX_CTRL x, 3, 1⟩
def LNx_RX_CTRL_SD_POL (x : Line) : Fld := ⟨LNx_RX_CTRL x, 2, 1⟩
def LNx_RX_CTRL_SD_USE (x : Line) : Fld := ⟨LNx_RX_CTRL x, 1, 1⟩
def LNx_RX_CTRL_RX_EN (x : Line) : Fld := ⟨LNx_RX_CTRL x, 0, 1⟩

/-- LNx_RX_STATUS (R54). -/
def LNx_RX_STATUS (x : Line) : Nat := 0x080004 + 0x20000 * x.idx
def LNx_RX_STATUS_FN_VALID (x : Line) : Fld := ⟨LNx_RX_STATUS x, 7, 1⟩
def LNx_RX_STATUS_PINV (x : Line) : Fld := ⟨LNx_RX_STATUS x, 6, 1⟩
def LNx_RX_STATUS_FRAME_STATE (x : Line) : Fld := ⟨LNx_RX_STATUS x, 4, 2⟩
def LNx_RX_STATUS_SD_PIN (x : Line) : Fld := ⟨LNx_RX_STATUS x, 3, 1⟩
def LNx_RX_STATUS_LOS (x : Line) : Fld := ⟨LNx_RX_STATUS x, 2, 1⟩
def LNx_RX_STATUS_CDR_LOCK (x : Line) : Fld := ⟨LNx_RX_STATUS x, 1, 1⟩
def LNx_RX_STATUS_RX_READY (x : Line) : Fld := ⟨LNx_RX_STATUS x, 0, 1⟩

/-- LNx_FOM (R54). -/
def LNx_FOM (x : Line) : Nat := 0x080008 + 0x20000 * x.idx
def LNx_FOM_FOM_Q (x : Line) : Fld := ⟨LNx_FOM x, 16, 4⟩
def LNx_FOM_FOM_MIN (x : Line) : Fld := ⟨LNx_FOM x, 8, 8⟩
def LNx_FOM_FOM (x : Line) : Fld := ⟨LNx_FOM x, 0, 8⟩

/-- LNx_FOM_THR (R54). -/
def LNx_FOM_THR (x : Line) : Nat := 0x08000c + 0x20000 * x.idx
def LNx_FOM_THR_PERSIST (x : Line) : Fld := ⟨LNx_FOM_THR x, 20, 4⟩
def LNx_FOM_THR_HYST (x : Line) : Fld := ⟨LNx_FOM_THR x, 16, 4⟩
def LNx_FOM_THR_FAIL (x : Line) : Fld := ⟨LNx_FOM_THR x, 8, 8⟩
def LNx_FOM_THR_WARN (x : Line) : Fld := ⟨LNx_FOM_THR x, 0, 8⟩

/-- LNx_BER_CFG (R54). -/
def LNx_BER_CFG (x : Line) : Nat := 0x080010 + 0x20000 * x.idx
def LNx_BER_CFG_SF_EXP (x : Line) : Fld := ⟨LNx_BER_CFG x, 4, 4⟩
def LNx_BER_CFG_SD_EXP (x : Line) : Fld := ⟨LNx_BER_CFG x, 0, 4⟩

/-- LNx_BER_WIN (R54). -/
def LNx_BER_WIN (x : Line) : Nat := 0x080014 + 0x20000 * x.idx
def LNx_BER_WIN_SF_WIN (x : Line) : Fld := ⟨LNx_BER_WIN x, 16, 16⟩
def LNx_BER_WIN_SD_WIN (x : Line) : Fld := ⟨LNx_BER_WIN x, 0, 16⟩

/-- LNx_ALARM (R54). -/
def LNx_ALARM (x : Line) : Nat := 0x080020 + 0x20000 * x.idx
def LNx_ALARM_REACQ_FAIL (x : Line) : Fld := ⟨LNx_ALARM x, 12, 1⟩
def LNx_ALARM_STUFF_VIOL (x : Line) : Fld := ⟨LNx_ALARM x, 11, 1⟩
def LNx_ALARM_PINV_CHG (x : Line) : Fld := ⟨LNx_ALARM x, 10, 1⟩
def LNx_ALARM_FN_JUMP (x : Line) : Fld := ⟨LNx_ALARM x, 9, 1⟩
def LNx_ALARM_HDR_ERR (x : Line) : Fld := ⟨LNx_ALARM x, 8, 1⟩
def LNx_ALARM_SLACK_OVR (x : Line) : Fld := ⟨LNx_ALARM x, 7, 1⟩
def LNx_ALARM_SYNC_ACQ (x : Line) : Fld := ⟨LNx_ALARM x, 6, 1⟩
def LNx_ALARM_FOM_FAIL (x : Line) : Fld := ⟨LNx_ALARM x, 5, 1⟩
def LNx_ALARM_FOM_WARN (x : Line) : Fld := ⟨LNx_ALARM x, 4, 1⟩
def LNx_ALARM_SF (x : Line) : Fld := ⟨LNx_ALARM x, 3, 1⟩
def LNx_ALARM_SD (x : Line) : Fld := ⟨LNx_ALARM x, 2, 1⟩
def LNx_ALARM_LOF (x : Line) : Fld := ⟨LNx_ALARM x, 1, 1⟩
def LNx_ALARM_LOS (x : Line) : Fld := ⟨LNx_ALARM x, 0, 1⟩

/-- LNx_ALARM_EN (R54). -/
def LNx_ALARM_EN (x : Line) : Nat := 0x080024 + 0x20000 * x.idx
def LNx_ALARM_EN_EN (x : Line) : Fld := ⟨LNx_ALARM_EN x, 0, 13⟩

/-- LNx_ALARM_STATE (R54). -/
def LNx_ALARM_STATE (x : Line) : Nat := 0x080028 + 0x20000 * x.idx
def LNx_ALARM_STATE_LEVEL (x : Line) : Fld := ⟨LNx_ALARM_STATE x, 0, 6⟩

/-- LNx_HUNT_STATUS (R54). -/
def LNx_HUNT_STATUS (x : Line) : Nat := 0x080030 + 0x20000 * x.idx
def LNx_HUNT_STATUS_TRK_FULL (x : Line) : Fld := ⟨LNx_HUNT_STATUS x, 3, 1⟩
def LNx_HUNT_STATUS_CAND_CNT (x : Line) : Fld := ⟨LNx_HUNT_STATUS x, 0, 3⟩

/-- LNx_SYNC_CIF (R54). -/
def LNx_SYNC_CIF (x : Line) : Nat := 0x080034 + 0x20000 * x.idx
def LNx_SYNC_CIF_CIF (x : Line) : Fld := ⟨LNx_SYNC_CIF x, 0, 18⟩

/-- LNx_STUFF_MAX (R54). -/
def LNx_STUFF_MAX (x : Line) : Nat := 0x080038 + 0x20000 * x.idx
def LNx_STUFF_MAX_MAX (x : Line) : Fld := ⟨LNx_STUFF_MAX x, 0, 13⟩

/-- LNx_TX_CTRL (R54). -/
def LNx_TX_CTRL (x : Line) : Nat := 0x080040 + 0x20000 * x.idx
def LNx_TX_CTRL_BEN_LAG (x : Line) : Fld := ⟨LNx_TX_CTRL x, 16, 6⟩
def LNx_TX_CTRL_BEN_LEAD (x : Line) : Fld := ⟨LNx_TX_CTRL x, 8, 6⟩
def LNx_TX_CTRL_TX_POL_INV (x : Line) : Fld := ⟨LNx_TX_CTRL x, 1, 1⟩
def LNx_TX_CTRL_TX_EN (x : Line) : Fld := ⟨LNx_TX_CTRL x, 0, 1⟩

/-- LNx_TX_STATUS (R54). -/
def LNx_TX_STATUS (x : Line) : Nat := 0x080044 + 0x20000 * x.idx
def LNx_TX_STATUS_IN_BURST (x : Line) : Fld := ⟨LNx_TX_STATUS x, 2, 1⟩
def LNx_TX_STATUS_LDOFF (x : Line) : Fld := ⟨LNx_TX_STATUS x, 1, 1⟩
def LNx_TX_STATUS_BEN (x : Line) : Fld := ⟨LNx_TX_STATUS x, 0, 1⟩

/-- LNx_PW_STATUS (R54). -/
def LNx_PW_STATUS (x : Line) : Nat := 0x080050 + 0x20000 * x.idx
def LNx_PW_STATUS_WR_DROP (x : Line) : Fld := ⟨LNx_PW_STATUS x, 1, 1⟩
def LNx_PW_STATUS_BUSY (x : Line) : Fld := ⟨LNx_PW_STATUS x, 0, 1⟩

/-- LNx_EQ_CTRL (R54). -/
def LNx_EQ_CTRL (x : Line) : Nat := 0x080060 + 0x20000 * x.idx
def LNx_EQ_CTRL_DFE_OVR (x : Line) : Fld := ⟨LNx_EQ_CTRL x, 10, 1⟩
def LNx_EQ_CTRL_FFE_OVR (x : Line) : Fld := ⟨LNx_EQ_CTRL x, 9, 1⟩
def LNx_EQ_CTRL_CTLE_OVR (x : Line) : Fld := ⟨LNx_EQ_CTRL x, 8, 1⟩
def LNx_EQ_CTRL_CTLE (x : Line) : Fld := ⟨LNx_EQ_CTRL x, 0, 4⟩

/-- LNx_EQ_DFEn (R54). -/
def LNx_EQ_DFE (x : Line) (n : Nat) : Nat := 0x080064 + 0x20000 * x.idx + 4 * n
def LNx_EQ_DFE_TAP (x : Line) (n : Nat) : Fld := ⟨LNx_EQ_DFE x n, 0, 8⟩

/-- LNx_EQ_FFEn (R54). -/
def LNx_EQ_FFE (x : Line) (n : Nat) : Nat := 0x080070 + 0x20000 * x.idx + 4 * n
def LNx_EQ_FFE_TAP (x : Line) (n : Nat) : Fld := ⟨LNx_EQ_FFE x n, 0, 8⟩

/-! Registers of spec/03_access_line_frames.md. -/

/-- LPx_FRAME_CFG (R88). -/
def LPx_FRAME_CFG (x : Line) : Nat := 0x090400 + 0x20000 * x.idx
def LPx_FRAME_CFG_HE_ID_EXP (x : Line) : Fld := ⟨LPx_FRAME_CFG x, 16, 16⟩
def LPx_FRAME_CFG_RDI_HOLD (x : Line) : Fld := ⟨LPx_FRAME_CFG x, 8, 8⟩
def LPx_FRAME_CFG_HE_ID_CHK (x : Line) : Fld := ⟨LPx_FRAME_CFG x, 1, 1⟩
def LPx_FRAME_CFG_LINE_ID_CHK (x : Line) : Fld := ⟨LPx_FRAME_CFG x, 0, 1⟩

/-- LPx_HDR_STATUS (R88). -/
def LPx_HDR_STATUS (x : Line) : Nat := 0x090404 + 0x20000 * x.idx
def LPx_HDR_STATUS_HE_ID (x : Line) : Fld := ⟨LPx_HDR_STATUS x, 16, 16⟩
def LPx_HDR_STATUS_LINE_ID (x : Line) : Fld := ⟨LPx_HDR_STATUS x, 7, 1⟩
def LPx_HDR_STATUS_TM (x : Line) : Fld := ⟨LPx_HDR_STATUS x, 6, 1⟩
def LPx_HDR_STATUS_TODV (x : Line) : Fld := ⟨LPx_HDR_STATUS x, 5, 1⟩
def LPx_HDR_STATUS_ESA (x : Line) : Fld := ⟨LPx_HDR_STATUS x, 4, 1⟩
def LPx_HDR_STATUS_VER (x : Line) : Fld := ⟨LPx_HDR_STATUS x, 0, 4⟩

/-- LPx_AREA_STATUS (R88). -/
def LPx_AREA_STATUS (x : Line) : Nat := 0x090408 + 0x20000 * x.idx
def LPx_AREA_STATUS_BWMAP_CNT (x : Line) : Fld := ⟨LPx_AREA_STATUS x, 20, 10⟩
def LPx_AREA_STATUS_MSG_CNT (x : Line) : Fld := ⟨LPx_AREA_STATUS x, 13, 7⟩
def LPx_AREA_STATUS_CONT_CNT (x : Line) : Fld := ⟨LPx_AREA_STATUS x, 0, 13⟩

/-- LPx_FRM_ALARM (R88). -/
def LPx_FRM_ALARM (x : Line) : Nat := 0x090410 + 0x20000 * x.idx
def LPx_FRM_ALARM_ESA_SEEN (x : Line) : Fld := ⟨LPx_FRM_ALARM x, 11, 1⟩
def LPx_FRM_ALARM_QR_TRUNC (x : Line) : Fld := ⟨LPx_FRM_ALARM x, 10, 1⟩
def LPx_FRM_ALARM_STUFF_OVR (x : Line) : Fld := ⟨LPx_FRM_ALARM x, 9, 1⟩
def LPx_FRM_ALARM_CONT_SHORT (x : Line) : Fld := ⟨LPx_FRM_ALARM x, 8, 1⟩
def LPx_FRM_ALARM_MSG_MIC (x : Line) : Fld := ⟨LPx_FRM_ALARM x, 7, 1⟩
def LPx_FRM_ALARM_GRANT_OVLP (x : Line) : Fld := ⟨LPx_FRM_ALARM x, 6, 1⟩
def LPx_FRM_ALARM_GRANT_BAD (x : Line) : Fld := ⟨LPx_FRM_ALARM x, 5, 1⟩
def LPx_FRM_ALARM_BWMAP_CRC (x : Line) : Fld := ⟨LPx_FRM_ALARM x, 4, 1⟩
def LPx_FRM_ALARM_AREA_BAD (x : Line) : Fld := ⟨LPx_FRM_ALARM x, 3, 1⟩
def LPx_FRM_ALARM_HE_ID_CHG (x : Line) : Fld := ⟨LPx_FRM_ALARM x, 2, 1⟩
def LPx_FRM_ALARM_HE_ID_MISMATCH (x : Line) : Fld := ⟨LPx_FRM_ALARM x, 1, 1⟩
def LPx_FRM_ALARM_LINE_MISMATCH (x : Line) : Fld := ⟨LPx_FRM_ALARM x, 0, 1⟩

/-- LPx_FRM_ALARM_EN (R88). -/
def LPx_FRM_ALARM_EN (x : Line) : Nat := 0x090414 + 0x20000 * x.idx
def LPx_FRM_ALARM_EN_EN (x : Line) : Fld := ⟨LPx_FRM_ALARM_EN x, 0, 12⟩

/-- LPx_BURST_STATUS (R88). -/
def LPx_BURST_STATUS (x : Line) : Nat := 0x090418 + 0x20000 * x.idx
def LPx_BURST_STATUS_CDS (x : Line) : Fld := ⟨LPx_BURST_STATUS x, 18, 4⟩
def LPx_BURST_STATUS_XRDI (x : Line) : Fld := ⟨LPx_BURST_STATUS x, 17, 1⟩
def LPx_BURST_STATUS_RDI (x : Line) : Fld := ⟨LPx_BURST_STATUS x, 16, 1⟩
def LPx_BURST_STATUS_SEQ (x : Line) : Fld := ⟨LPx_BURST_STATUS x, 0, 16⟩

/-- LPx_GRANT_STATUS (R88). -/
def LPx_GRANT_STATUS (x : Line) : Nat := 0x09041c + 0x20000 * x.idx
def LPx_GRANT_STATUS_ACCEPTED (x : Line) : Fld := ⟨LPx_GRANT_STATUS x, 16, 8⟩
def LPx_GRANT_STATUS_PENDING (x : Line) : Fld := ⟨LPx_GRANT_STATUS x, 0, 12⟩

/-- LPx_PROF_LENn (R88). -/
def LPx_PROF_LEN (x : Line) (n : Nat) : Nat := 0x090420 + 0x20000 * x.idx + 8 * n
def LPx_PROF_LEN_LEN (x : Line) (n : Nat) : Fld := ⟨LPx_PROF_LEN x n, 0, 11⟩

/-- LPx_PROF_PATn (R88). -/
def LPx_PROF_PAT (x : Line) (n : Nat) : Nat := 0x090424 + 0x20000 * x.idx + 8 * n
def LPx_PROF_PAT_PAT (x : Line) (n : Nat) : Fld := ⟨LPx_PROF_PAT x n, 0, 32⟩

/-- LPx_ALLOCn (R88). -/
def LPx_ALLOC (x : Line) (n : Nat) : Nat := 0x090480 + 0x20000 * x.idx + 4 * n
def LPx_ALLOC_VALID (x : Line) (n : Nat) : Fld := ⟨LPx_ALLOC x n, 31, 1⟩
def LPx_ALLOC_REPORT (x : Line) (n : Nat) : Fld := ⟨LPx_ALLOC x n, 30, 1⟩
def LPx_ALLOC_CONT (x : Line) (n : Nat) : Fld := ⟨LPx_ALLOC x n, 29, 1⟩
def LPx_ALLOC_ALLOC (x : Line) (n : Nat) : Fld := ⟨LPx_ALLOC x n, 0, 14⟩

/-! Registers of spec/04_activation_and_trust.md. -/

/-- LPx_ACT_CFG (R114). -/
def LPx_ACT_CFG (x : Line) : Nat := 0x090000 + 0x20000 * x.idx
def LPx_ACT_CFG_LOM_TO (x : Line) : Fld := ⟨LPx_ACT_CFG x, 16, 16⟩
def LPx_ACT_CFG_LOM_MIC_LIM (x : Line) : Fld := ⟨LPx_ACT_CFG x, 8, 8⟩
def LPx_ACT_CFG_ANN_EN (x : Line) : Fld := ⟨LPx_ACT_CFG x, 1, 1⟩
def LPx_ACT_CFG_LOM_DEACT (x : Line) : Fld := ⟨LPx_ACT_CFG x, 0, 1⟩

/-- LPx_ACT_TMR0 (R114). -/
def LPx_ACT_TMR0 (x : Line) : Nat := 0x090004 + 0x20000 * x.idx
def LPx_ACT_TMR0_BACKOFF_MAX (x : Line) : Fld := ⟨LPx_ACT_TMR0 x, 24, 4⟩
def LPx_ACT_TMR0_ESA_SIL (x : Line) : Fld := ⟨LPx_ACT_TMR0 x, 16, 8⟩
def LPx_ACT_TMR0_ANN_WAIT (x : Line) : Fld := ⟨LPx_ACT_TMR0 x, 4, 12⟩
def LPx_ACT_TMR0_LISTEN_MIN (x : Line) : Fld := ⟨LPx_ACT_TMR0 x, 0, 4⟩

/-- LPx_ACT_TMR1 (R114). -/
def LPx_ACT_TMR1 (x : Line) : Nat := 0x090008 + 0x20000 * x.idx
def LPx_ACT_TMR1_PROVE_TO (x : Line) : Fld := ⟨LPx_ACT_TMR1 x, 16, 16⟩
def LPx_ACT_TMR1_RANGE_TO (x : Line) : Fld := ⟨LPx_ACT_TMR1 x, 0, 16⟩

/-- LPx_ACT_TMR2 (R114). -/
def LPx_ACT_TMR2 (x : Line) : Nat := 0x09000c + 0x20000 * x.idx
def LPx_ACT_TMR2_ANN_HOLDOFF (x : Line) : Fld := ⟨LPx_ACT_TMR2 x, 12, 16⟩
def LPx_ACT_TMR2_HOLD (x : Line) : Fld := ⟨LPx_ACT_TMR2 x, 0, 12⟩

/-- LPx_DRIFT_CFG (R114). -/
def LPx_DRIFT_CFG (x : Line) : Nat := 0x090010 + 0x20000 * x.idx
def LPx_DRIFT_CFG_THR (x : Line) : Fld := ⟨LPx_DRIFT_CFG x, 0, 22⟩

/-- LPx_SLEEP_CFG (R114). -/
def LPx_SLEEP_CFG (x : Line) : Nat := 0x090014 + 0x20000 * x.idx
def LPx_SLEEP_CFG_DOZE_EN (x : Line) : Fld := ⟨LPx_SLEEP_CFG x, 5, 1⟩
def LPx_SLEEP_CFG_DEEP_EN (x : Line) : Fld := ⟨LPx_SLEEP_CFG x, 4, 1⟩
def LPx_SLEEP_CFG_WAKE_LEAD (x : Line) : Fld := ⟨LPx_SLEEP_CFG x, 0, 4⟩

/-- LPx_ACT_STATUS (R114). -/
def LPx_ACT_STATUS (x : Line) : Nat := 0x090100 + 0x20000 * x.idx
def LPx_ACT_STATUS_BACKOFF (x : Line) : Fld := ⟨LPx_ACT_STATUS x, 8, 3⟩
def LPx_ACT_STATUS_DISABLED (x : Line) : Fld := ⟨LPx_ACT_STATUS x, 7, 1⟩
def LPx_ACT_STATUS_KEYED (x : Line) : Fld := ⟨LPx_ACT_STATUS x, 6, 1⟩
def LPx_ACT_STATUS_SLEEP (x : Line) : Fld := ⟨LPx_ACT_STATUS x, 4, 2⟩
def LPx_ACT_STATUS_STATE (x : Line) : Fld := ⟨LPx_ACT_STATUS x, 0, 4⟩

/-- LPx_IDENT (R114). -/
def LPx_IDENT (x : Line) : Nat := 0x090104 + 0x20000 * x.idx
def LPx_IDENT_TID (x : Line) : Fld := ⟨LPx_IDENT x, 22, 10⟩
def LPx_IDENT_EQD (x : Line) : Fld := ⟨LPx_IDENT x, 0, 22⟩

/-- LPx_EQD_ACC (R114). -/
def LPx_EQD_ACC (x : Line) : Nat := 0x090108 + 0x20000 * x.idx
def LPx_EQD_ACC_ACC (x : Line) : Fld := ⟨LPx_EQD_ACC x, 0, 24⟩

/-- LPx_SLEEP_WAKE (R114). -/
def LPx_SLEEP_WAKE_LO (x : Line) : Nat := 0x090110 + 0x20000 * x.idx
def LPx_SLEEP_WAKE_LO_FN (x : Line) : Fld := ⟨LPx_SLEEP_WAKE_LO x, 0, 32⟩

/-- LPx_SLEEP_WAKE (R114). -/
def LPx_SLEEP_WAKE_HI (x : Line) : Nat := 0x090114 + 0x20000 * x.idx
def LPx_SLEEP_WAKE_HI_FN (x : Line) : Fld := ⟨LPx_SLEEP_WAKE_HI x, 0, 16⟩

/-- LPx_SERIAL (R114). -/
def LPx_SERIAL_LO (x : Line) : Nat := 0x090118 + 0x20000 * x.idx
def LPx_SERIAL_LO_SERIAL (x : Line) : Fld := ⟨LPx_SERIAL_LO x, 0, 32⟩

/-- LPx_SERIAL (R114). -/
def LPx_SERIAL_HI (x : Line) : Nat := 0x09011c + 0x20000 * x.idx
def LPx_SERIAL_HI_SERIAL (x : Line) : Fld := ⟨LPx_SERIAL_HI x, 0, 32⟩

/-- LPx_PROVE_STATUS (R114). -/
def LPx_PROVE_STATUS (x : Line) : Nat := 0x090120 + 0x20000 * x.idx
def LPx_PROVE_STATUS_HE_ID (x : Line) : Fld := ⟨LPx_PROVE_STATUS x, 16, 16⟩
def LPx_PROVE_STATUS_STEP (x : Line) : Fld := ⟨LPx_PROVE_STATUS x, 4, 3⟩
def LPx_PROVE_STATUS_RESULT (x : Line) : Fld := ⟨LPx_PROVE_STATUS x, 0, 4⟩

/-- LPx_SILENCE (R114). -/
def LPx_SILENCE (x : Line) : Nat := 0x090124 + 0x20000 * x.idx
def LPx_SILENCE_SRC (x : Line) : Fld := ⟨LPx_SILENCE x, 1, 1⟩
def LPx_SILENCE_SIL_NVM (x : Line) : Fld := ⟨LPx_SILENCE x, 0, 1⟩

/-- LPx_SIL_COUNT (R114). -/
def LPx_SIL_COUNT (x : Line) : Nat := 0x090128 + 0x20000 * x.idx
def LPx_SIL_COUNT_COUNT (x : Line) : Fld := ⟨LPx_SIL_COUNT x, 0, 32⟩

/-- LPx_LMS_STATUS (R114). -/
def LPx_LMS_STATUS (x : Line) : Nat := 0x090130 + 0x20000 * x.idx
def LPx_LMS_STATUS_NEXT_LEAF (x : Line) : Fld := ⟨LPx_LMS_STATUS x, 0, 21⟩

/-- LPx_ACT_ALARM (R114). -/
def LPx_ACT_ALARM (x : Line) : Nat := 0x090140 + 0x20000 * x.idx
def LPx_ACT_ALARM_SIL_REL (x : Line) : Fld := ⟨LPx_ACT_ALARM x, 13, 1⟩
def LPx_ACT_ALARM_SIL_NVM_ERR (x : Line) : Fld := ⟨LPx_ACT_ALARM x, 12, 1⟩
def LPx_ACT_ALARM_LMS_EXH (x : Line) : Fld := ⟨LPx_ACT_ALARM x, 11, 1⟩
def LPx_ACT_ALARM_LMS_LOW (x : Line) : Fld := ⟨LPx_ACT_ALARM x, 10, 1⟩
def LPx_ACT_ALARM_SLEEP_REF (x : Line) : Fld := ⟨LPx_ACT_ALARM x, 9, 1⟩
def LPx_ACT_ALARM_KEY_ROLL_REF (x : Line) : Fld := ⟨LPx_ACT_ALARM x, 8, 1⟩
def LPx_ACT_ALARM_ESA_STOP (x : Line) : Fld := ⟨LPx_ACT_ALARM x, 7, 1⟩
def LPx_ACT_ALARM_SILENCED (x : Line) : Fld := ⟨LPx_ACT_ALARM x, 6, 1⟩
def LPx_ACT_ALARM_PROVE_FAIL (x : Line) : Fld := ⟨LPx_ACT_ALARM x, 5, 1⟩
def LPx_ACT_ALARM_ROGUE (x : Line) : Fld := ⟨LPx_ACT_ALARM x, 4, 1⟩
def LPx_ACT_ALARM_DRIFT (x : Line) : Fld := ⟨LPx_ACT_ALARM x, 3, 1⟩
def LPx_ACT_ALARM_LOM (x : Line) : Fld := ⟨LPx_ACT_ALARM x, 2, 1⟩
def LPx_ACT_ALARM_HOLD_EXP (x : Line) : Fld := ⟨LPx_ACT_ALARM x, 1, 1⟩
def LPx_ACT_ALARM_STATE_CHG (x : Line) : Fld := ⟨LPx_ACT_ALARM x, 0, 1⟩

/-- LPx_ACT_ALARM_EN (R114). -/
def LPx_ACT_ALARM_EN (x : Line) : Nat := 0x090144 + 0x20000 * x.idx
def LPx_ACT_ALARM_EN_EN (x : Line) : Fld := ⟨LPx_ACT_ALARM_EN x, 0, 14⟩

/-- LPx_ACT_ALARM_STATE (R114). -/
def LPx_ACT_ALARM_STATE (x : Line) : Nat := 0x090148 + 0x20000 * x.idx
def LPx_ACT_ALARM_STATE_ROGUE (x : Line) : Fld := ⟨LPx_ACT_ALARM_STATE x, 4, 1⟩
def LPx_ACT_ALARM_STATE_DRIFT (x : Line) : Fld := ⟨LPx_ACT_ALARM_STATE x, 3, 1⟩
def LPx_ACT_ALARM_STATE_LOM (x : Line) : Fld := ⟨LPx_ACT_ALARM_STATE x, 2, 1⟩

/-- LPx_KEY_ROLL_STATUS (R114). -/
def LPx_KEY_ROLL_STATUS (x : Line) : Nat := 0x090150 + 0x20000 * x.idx
def LPx_KEY_ROLL_STATUS_OVERLAP (x : Line) : Fld := ⟨LPx_KEY_ROLL_STATUS x, 25, 1⟩
def LPx_KEY_ROLL_STATUS_GEN (x : Line) : Fld := ⟨LPx_KEY_ROLL_STATUS x, 24, 1⟩
def LPx_KEY_ROLL_STATUS_LAST (x : Line) : Fld := ⟨LPx_KEY_ROLL_STATUS x, 12, 12⟩
def LPx_KEY_ROLL_STATUS_FIRST (x : Line) : Fld := ⟨LPx_KEY_ROLL_STATUS x, 0, 12⟩

/-- LPx_KEY_ROLL_FN (R114). -/
def LPx_KEY_ROLL_FN (x : Line) : Nat := 0x090154 + 0x20000 * x.idx
def LPx_KEY_ROLL_FN_FN (x : Line) : Fld := ⟨LPx_KEY_ROLL_FN x, 0, 32⟩

/-! Registers of spec/05_two_ended_attachment.md. -/

/-- TWE_CFG (R135). -/
def TWE_CFG : Nat := 0x0c0000
def TWE_CFG_SEL_DLY : Fld := ⟨TWE_CFG, 24, 5⟩
def TWE_CFG_AGE_LIMIT : Fld := ⟨TWE_CFG, 16, 6⟩
def TWE_CFG_WTR : Fld := ⟨TWE_CFG, 8, 6⟩
def TWE_CFG_ACT_REVERT : Fld := ⟨TWE_CFG, 5, 1⟩
def TWE_CFG_ACT_PREF : Fld := ⟨TWE_CFG, 4, 1⟩
def TWE_CFG_TM_REVERT : Fld := ⟨TWE_CFG, 3, 1⟩
def TWE_CFG_TM_LINE : Fld := ⟨TWE_CFG, 2, 1⟩
def TWE_CFG_MODE : Fld := ⟨TWE_CFG, 0, 2⟩

/-- TWE_FLOW_IDLE (R135). -/
def TWE_FLOW_IDLE : Nat := 0x0c0004
def TWE_FLOW_IDLE_MS : Fld := ⟨TWE_FLOW_IDLE, 0, 10⟩

/-- TWE_STATUS (R135). -/
def TWE_STATUS : Nat := 0x0c0010
def TWE_STATUS_FIT_B : Fld := ⟨TWE_STATUS, 6, 1⟩
def TWE_STATUS_FIT_A : Fld := ⟨TWE_STATUS, 5, 1⟩
def TWE_STATUS_ACT_WTR : Fld := ⟨TWE_STATUS, 4, 1⟩
def TWE_STATUS_TM_WTR : Fld := ⟨TWE_STATUS, 3, 1⟩
def TWE_STATUS_ACT_LINE : Fld := ⟨TWE_STATUS, 2, 1⟩
def TWE_STATUS_NO_MASTER : Fld := ⟨TWE_STATUS, 1, 1⟩
def TWE_STATUS_TM_ACT : Fld := ⟨TWE_STATUS, 0, 1⟩

/-- TWE_TRACK_OFS (R135). -/
def TWE_TRACK_OFS : Nat := 0x0c0014
def TWE_TRACK_OFS_D : Fld := ⟨TWE_TRACK_OFS, 0, 32⟩

/-- TWE_TRACK_FREQ (R135). -/
def TWE_TRACK_FREQ : Nat := 0x0c0018
def TWE_TRACK_FREQ_PPB : Fld := ⟨TWE_TRACK_FREQ, 0, 16⟩

/-- TWE_TM_OFS (R135). -/
def TWE_TM_OFS : Nat := 0x0c001c
def TWE_TM_OFS_O : Fld := ⟨TWE_TM_OFS, 0, 32⟩

/-- TWE_ALARM (R135). -/
def TWE_ALARM : Nat := 0x0c0020
def TWE_ALARM_UP_AGED : Fld := ⟨TWE_ALARM, 9, 1⟩
def TWE_ALARM_SEL_LATE : Fld := ⟨TWE_ALARM, 8, 1⟩
def TWE_ALARM_SEL_SWITCH : Fld := ⟨TWE_ALARM, 7, 1⟩
def TWE_ALARM_GAP_EXP : Fld := ⟨TWE_ALARM, 6, 1⟩
def TWE_ALARM_GAP_OVF : Fld := ⟨TWE_ALARM, 5, 1⟩
def TWE_ALARM_ACT_SWITCH : Fld := ⟨TWE_ALARM, 4, 1⟩
def TWE_ALARM_NO_MASTER : Fld := ⟨TWE_ALARM, 3, 1⟩
def TWE_ALARM_FREQ : Fld := ⟨TWE_ALARM, 2, 1⟩
def TWE_ALARM_SKEW : Fld := ⟨TWE_ALARM, 1, 1⟩
def TWE_ALARM_TM_SWITCH : Fld := ⟨TWE_ALARM, 0, 1⟩

/-- TWE_ALARM_EN (R135). -/
def TWE_ALARM_EN : Nat := 0x0c0024
def TWE_ALARM_EN_EN : Fld := ⟨TWE_ALARM_EN, 0, 10⟩

/-- TWE_ALARM_STATE (R135). -/
def TWE_ALARM_STATE : Nat := 0x0c0028
def TWE_ALARM_STATE_NO_MASTER : Fld := ⟨TWE_ALARM_STATE, 3, 1⟩
def TWE_ALARM_STATE_FREQ : Fld := ⟨TWE_ALARM_STATE, 2, 1⟩
def TWE_ALARM_STATE_SKEW : Fld := ⟨TWE_ALARM_STATE, 1, 1⟩

/-- TWE_FLOW_ADDR (R135). -/
def TWE_FLOW_ADDR : Nat := 0x0c0040
def TWE_FLOW_ADDR_GO : Fld := ⟨TWE_FLOW_ADDR, 31, 1⟩
def TWE_FLOW_ADDR_DONE : Fld := ⟨TWE_FLOW_ADDR, 30, 1⟩
def TWE_FLOW_ADDR_FLOW : Fld := ⟨TWE_FLOW_ADDR, 0, 12⟩

/-- TWE_FLOW_STATE (R135). -/
def TWE_FLOW_STATE : Nat := 0x0c0044
def TWE_FLOW_STATE_SEEN : Fld := ⟨TWE_FLOW_STATE, 31, 1⟩
def TWE_FLOW_STATE_GAPS : Fld := ⟨TWE_FLOW_STATE, 24, 3⟩
def TWE_FLOW_STATE_H : Fld := ⟨TWE_FLOW_STATE, 0, 24⟩

/-- TWE_SELn (R135). -/
def TWE_SEL (n : Nat) : Nat := 0x0c0100 + 4 * n
def TWE_SEL_VALID (n : Nat) : Fld := ⟨TWE_SEL n, 31, 1⟩
def TWE_SEL_PREF (n : Nat) : Fld := ⟨TWE_SEL n, 30, 1⟩
def TWE_SEL_REVERT (n : Nat) : Fld := ⟨TWE_SEL n, 29, 1⟩
def TWE_SEL_SD_DEF (n : Nat) : Fld := ⟨TWE_SEL n, 28, 1⟩
def TWE_SEL_HOLDOFF (n : Nat) : Fld := ⟨TWE_SEL n, 24, 4⟩
def TWE_SEL_SLOT_B (n : Nat) : Fld := ⟨TWE_SEL n, 5, 5⟩
def TWE_SEL_SLOT_A (n : Nat) : Fld := ⟨TWE_SEL n, 0, 5⟩

/-- TWE_SEL_STATUSn (R135). -/
def TWE_SEL_STATUS (n : Nat) : Nat := 0x0c0180 + 4 * n
def TWE_SEL_STATUS_WTR_RUN (n : Nat) : Fld := ⟨TWE_SEL_STATUS n, 3, 1⟩
def TWE_SEL_STATUS_DEF_B (n : Nat) : Fld := ⟨TWE_SEL_STATUS n, 2, 1⟩
def TWE_SEL_STATUS_DEF_A (n : Nat) : Fld := ⟨TWE_SEL_STATUS n, 1, 1⟩
def TWE_SEL_STATUS_SEL (n : Nat) : Fld := ⟨TWE_SEL_STATUS n, 0, 1⟩

/-! Registers of spec/06_carriage_and_bursts.md. -/

/-- CAR_CFG (R159). -/
def CAR_CFG : Nat := 0x0d0000
def CAR_CFG_UP_FRAG_EN : Fld := ⟨CAR_CFG, 1, 1⟩
def CAR_CFG_HEC_CORR : Fld := ⟨CAR_CFG, 0, 1⟩

/-- CAR_STATUS (R159). -/
def CAR_STATUS : Nat := 0x0d0010
def CAR_STATUS_REASM_OPEN_B : Fld := ⟨CAR_STATUS, 16, 10⟩
def CAR_STATUS_REASM_OPEN_A : Fld := ⟨CAR_STATUS, 0, 10⟩

/-- CAR_ALARM (R159). -/
def CAR_ALARM : Nat := 0x0d0020
def CAR_ALARM_US_FLOW_OFF_B : Fld := ⟨CAR_ALARM, 16, 1⟩
def CAR_ALARM_EXP_TOOBIG_B : Fld := ⟨CAR_ALARM, 15, 1⟩
def CAR_ALARM_REASM_TO_B : Fld := ⟨CAR_ALARM, 14, 1⟩
def CAR_ALARM_REASM_FULL_B : Fld := ⟨CAR_ALARM, 13, 1⟩
def CAR_ALARM_KEY_MISS_B : Fld := ⟨CAR_ALARM, 12, 1⟩
def CAR_ALARM_TAG_FAIL_B : Fld := ⟨CAR_ALARM, 11, 1⟩
def CAR_ALARM_HDR_BAD_B : Fld := ⟨CAR_ALARM, 10, 1⟩
def CAR_ALARM_AREA_ABANDON_B : Fld := ⟨CAR_ALARM, 9, 1⟩
def CAR_ALARM_US_FLOW_OFF_A : Fld := ⟨CAR_ALARM, 7, 1⟩
def CAR_ALARM_EXP_TOOBIG_A : Fld := ⟨CAR_ALARM, 6, 1⟩
def CAR_ALARM_REASM_TO_A : Fld := ⟨CAR_ALARM, 5, 1⟩
def CAR_ALARM_REASM_FULL_A : Fld := ⟨CAR_ALARM, 4, 1⟩
def CAR_ALARM_KEY_MISS_A : Fld := ⟨CAR_ALARM, 3, 1⟩
def CAR_ALARM_TAG_FAIL_A : Fld := ⟨CAR_ALARM, 2, 1⟩
def CAR_ALARM_HDR_BAD_A : Fld := ⟨CAR_ALARM, 1, 1⟩
def CAR_ALARM_AREA_ABANDON_A : Fld := ⟨CAR_ALARM, 0, 1⟩

/-- CAR_ALARM_EN (R159). -/
def CAR_ALARM_EN : Nat := 0x0d0024
def CAR_ALARM_EN_EN : Fld := ⟨CAR_ALARM_EN, 0, 17⟩

/-- CAR_FT_ADDR (R159). -/
def CAR_FT_ADDR : Nat := 0x0d0040
def CAR_FT_ADDR_GO : Fld := ⟨CAR_FT_ADDR, 31, 1⟩
def CAR_FT_ADDR_DONE : Fld := ⟨CAR_FT_ADDR, 30, 1⟩
def CAR_FT_ADDR_WRITE : Fld := ⟨CAR_FT_ADDR, 29, 1⟩
def CAR_FT_ADDR_FLOW : Fld := ⟨CAR_FT_ADDR, 0, 12⟩

/-- CAR_FT_DATA (R159). -/
def CAR_FT_DATA : Nat := 0x0d0044
def CAR_FT_DATA_ENTRY : Fld := ⟨CAR_FT_DATA, 0, 32⟩

/-- CAR_FT_KEYS (R159). -/
def CAR_FT_KEYS : Nat := 0x0d0048
def CAR_FT_KEYS_B1 : Fld := ⟨CAR_FT_KEYS, 3, 1⟩
def CAR_FT_KEYS_B0 : Fld := ⟨CAR_FT_KEYS, 2, 1⟩
def CAR_FT_KEYS_A1 : Fld := ⟨CAR_FT_KEYS, 1, 1⟩
def CAR_FT_KEYS_A0 : Fld := ⟨CAR_FT_KEYS, 0, 1⟩

/-! Registers of spec/07_classifier.md. -/

/-- SRT_CFG (R181). -/
def SRT_CFG : Nat := 0x100000
def SRT_CFG_VXLAN_PORT : Fld := ⟨SRT_CFG, 16, 16⟩
def SRT_CFG_FRAG_LIFE : Fld := ⟨SRT_CFG, 8, 6⟩
def SRT_CFG_FRAG_EN : Fld := ⟨SRT_CFG, 0, 1⟩

/-- SRT_QCFG0 (R181). -/
def SRT_QCFG0 : Nat := 0x100004
def SRT_QCFG0_RECIRC_QID : Fld := ⟨SRT_QCFG0, 16, 13⟩
def SRT_QCFG0_TRAP_QID : Fld := ⟨SRT_QCFG0, 0, 13⟩

/-- SRT_QCFG1 (R181). -/
def SRT_QCFG1 : Nat := 0x100008
def SRT_QCFG1_MIRROR_QID : Fld := ⟨SRT_QCFG1, 0, 13⟩

/-- SRT_EPOCH_STATUS (R181). -/
def SRT_EPOCH_STATUS : Nat := 0x100010
def SRT_EPOCH_STATUS_IN_FLIGHT : Fld := ⟨SRT_EPOCH_STATUS, 16, 10⟩
def SRT_EPOCH_STATUS_DRAINED : Fld := ⟨SRT_EPOCH_STATUS, 1, 1⟩
def SRT_EPOCH_STATUS_ACTIVE : Fld := ⟨SRT_EPOCH_STATUS, 0, 1⟩

/-- SRT_FRAG_STATUS (R181). -/
def SRT_FRAG_STATUS : Nat := 0x100014
def SRT_FRAG_STATUS_USED : Fld := ⟨SRT_FRAG_STATUS, 0, 9⟩

/-- SRT_ALARM (R181). -/
def SRT_ALARM : Nat := 0x100020
def SRT_ALARM_BAD_ACTION : Fld := ⟨SRT_ALARM, 9, 1⟩
def SRT_ALARM_EPOCH_STALE : Fld := ⟨SRT_ALARM, 8, 1⟩
def SRT_ALARM_RECIRC_DROP : Fld := ⟨SRT_ALARM, 7, 1⟩
def SRT_ALARM_FRAG_ORPHAN : Fld := ⟨SRT_ALARM, 6, 1⟩
def SRT_ALARM_FRAG_FULL : Fld := ⟨SRT_ALARM, 5, 1⟩
def SRT_ALARM_PARSE_ERR : Fld := ⟨SRT_ALARM, 4, 1⟩
def SRT_ALARM_EPOCH_NOP : Fld := ⟨SRT_ALARM, 3, 1⟩
def SRT_ALARM_EPOCH_DRAINED : Fld := ⟨SRT_ALARM, 2, 1⟩
def SRT_ALARM_EPOCH_WR_REFUSED : Fld := ⟨SRT_ALARM, 1, 1⟩
def SRT_ALARM_ECC_DROP : Fld := ⟨SRT_ALARM, 0, 1⟩

/-- SRT_ALARM_EN (R181). -/
def SRT_ALARM_EN : Nat := 0x100024
def SRT_ALARM_EN_EN : Fld := ⟨SRT_ALARM_EN, 0, 10⟩

/-- SRT_PARSE_LAST (R181). -/
def SRT_PARSE_LAST : Nat := 0x100028
def SRT_PARSE_LAST_INGRESS : Fld := ⟨SRT_PARSE_LAST, 8, 5⟩
def SRT_PARSE_LAST_REASON : Fld := ⟨SRT_PARSE_LAST, 0, 3⟩

/-- SRT_PSELn (R181). -/
def SRT_PSEL (n : Nat) : Nat := 0x100100 + 4 * n
def SRT_PSEL_PROF0 (n : Nat) : Fld := ⟨SRT_PSEL n, 0, 4⟩
def SRT_PSEL_PROF1 (n : Nat) : Fld := ⟨SRT_PSEL n, 4, 4⟩
def SRT_PSEL_PROF2 (n : Nat) : Fld := ⟨SRT_PSEL n, 8, 4⟩
def SRT_PSEL_PROF3 (n : Nat) : Fld := ⟨SRT_PSEL n, 12, 4⟩
def SRT_PSEL_PROF4 (n : Nat) : Fld := ⟨SRT_PSEL n, 16, 4⟩
def SRT_PSEL_PROF5 (n : Nat) : Fld := ⟨SRT_PSEL n, 20, 4⟩
def SRT_PSEL_PROF6 (n : Nat) : Fld := ⟨SRT_PSEL n, 24, 4⟩
def SRT_PSEL_PROF7 (n : Nat) : Fld := ⟨SRT_PSEL n, 28, 4⟩

/-- SRT_PORT_CFGn (R181). -/
def SRT_PORT_CFG (n : Nat) : Nat := 0x100200 + 4 * n
def SRT_PORT_CFG_DEF_DISP (n : Nat) : Fld := ⟨SRT_PORT_CFG n, 30, 2⟩
def SRT_PORT_CFG_MALF_ACT (n : Nat) : Fld := ⟨SRT_PORT_CFG n, 28, 2⟩
def SRT_PORT_CFG_ORPH_ACT (n : Nat) : Fld := ⟨SRT_PORT_CFG n, 26, 2⟩
def SRT_PORT_CFG_DEF_QID (n : Nat) : Fld := ⟨SRT_PORT_CFG n, 0, 13⟩

/-- SRT_PORT_CFGn, n = 24, 25 (R181). -/
def SRT_PORT_CFG_CPU (n : Nat) : Nat := 0x100260 + 4 * n
def SRT_PORT_CFG_CPU_DEF_DISP (n : Nat) : Fld := ⟨SRT_PORT_CFG_CPU n, 30, 2⟩
def SRT_PORT_CFG_CPU_MALF_ACT (n : Nat) : Fld := ⟨SRT_PORT_CFG_CPU n, 28, 2⟩
def SRT_PORT_CFG_CPU_ORPH_ACT (n : Nat) : Fld := ⟨SRT_PORT_CFG_CPU n, 26, 2⟩
def SRT_PORT_CFG_CPU_DEF_QID (n : Nat) : Fld := ⟨SRT_PORT_CFG_CPU n, 0, 13⟩

/-- SRT_PORT_TAGn (R181). -/
def SRT_PORT_TAG (n : Nat) : Nat := 0x100280 + 4 * n
def SRT_PORT_TAG_TAG (n : Nat) : Fld := ⟨SRT_PORT_TAG n, 0, 16⟩

/-- SRT_UDHu_MATCH (R181). -/
def SRT_UDH_MATCH (u : Nat) : Nat := 0x100400 + 0x20 * u
def SRT_UDH_MATCH_EN (u : Nat) : Fld := ⟨SRT_UDH_MATCH u, 31, 1⟩
def SRT_UDH_MATCH_KIND (u : Nat) : Fld := ⟨SRT_UDH_MATCH u, 16, 2⟩
def SRT_UDH_MATCH_VALUE (u : Nat) : Fld := ⟨SRT_UDH_MATCH u, 0, 16⟩

/-- SRT_UDHu_LEN (R181). -/
def SRT_UDH_LEN (u : Nat) : Nat := 0x100404 + 0x20 * u
def SRT_UDH_LEN_MODE (u : Nat) : Fld := ⟨SRT_UDH_LEN u, 31, 1⟩
def SRT_UDH_LEN_WIDTH (u : Nat) : Fld := ⟨SRT_UDH_LEN u, 30, 1⟩
def SRT_UDH_LEN_SCALE (u : Nat) : Fld := ⟨SRT_UDH_LEN u, 28, 2⟩
def SRT_UDH_LEN_OFS (u : Nat) : Fld := ⟨SRT_UDH_LEN u, 22, 6⟩
def SRT_UDH_LEN_BASE (u : Nat) : Fld := ⟨SRT_UDH_LEN u, 0, 8⟩

/-- SRT_UDHu_EXTe (R181). -/
def SRT_UDH_EXT (u : Nat) (e : Nat) : Nat := 0x100408 + 0x20 * u + 4 * e
def SRT_UDH_EXT_MASK (u : Nat) (e : Nat) : Fld := ⟨SRT_UDH_EXT u e, 16, 16⟩
def SRT_UDH_EXT_OFS (u : Nat) (e : Nat) : Fld := ⟨SRT_UDH_EXT u e, 0, 6⟩

/-- SRT_KPROFp_w (R181). -/
def SRT_KPROF0 (p : Nat) : Nat := 0x101000 + 0x40 * p
def SRT_KPROF0_DW (p : Nat) : Fld := ⟨SRT_KPROF0 p, 0, 1⟩

/-- SRT_KPROFp_w (R181). -/
def SRT_KPROF (p : Nat) (w : Nat) : Nat := 0x101004 + 0x40 * p + 4 * w
def SRT_KPROF_SEL0 (p : Nat) (w : Nat) : Fld := ⟨SRT_KPROF p w, 0, 8⟩
def SRT_KPROF_SEL1 (p : Nat) (w : Nat) : Fld := ⟨SRT_KPROF p w, 8, 8⟩
def SRT_KPROF_SEL2 (p : Nat) (w : Nat) : Fld := ⟨SRT_KPROF p w, 16, 8⟩
def SRT_KPROF_SEL3 (p : Nat) (w : Nat) : Fld := ⟨SRT_KPROF p w, 24, 8⟩

/-- SRT_KPROFp_w (R181). -/
def SRT_KPROF10 (p : Nat) : Nat := 0x101028 + 0x40 * p
def SRT_KPROF10_SEL0 (p : Nat) : Fld := ⟨SRT_KPROF10 p, 0, 8⟩
def SRT_KPROF10_SEL1 (p : Nat) : Fld := ⟨SRT_KPROF10 p, 8, 8⟩

/-- SRT_TBL_ADDR (R181). -/
def SRT_TBL_ADDR : Nat := 0x102000
def SRT_TBL_ADDR_GO : Fld := ⟨SRT_TBL_ADDR, 31, 1⟩
def SRT_TBL_ADDR_DONE : Fld := ⟨SRT_TBL_ADDR, 30, 1⟩
def SRT_TBL_ADDR_WRITE : Fld := ⟨SRT_TBL_ADDR, 29, 1⟩
def SRT_TBL_ADDR_TABLE : Fld := ⟨SRT_TBL_ADDR, 27, 2⟩
def SRT_TBL_ADDR_ERR : Fld := ⟨SRT_TBL_ADDR, 24, 3⟩
def SRT_TBL_ADDR_INDEX : Fld := ⟨SRT_TBL_ADDR, 0, 14⟩

/-- SRT_TBL_DATAn (R181). -/
def SRT_TBL_DATA (n : Nat) : Nat := 0x102004 + 4 * n
def SRT_TBL_DATA_DATA (n : Nat) : Fld := ⟨SRT_TBL_DATA n, 0, 32⟩

/-! Registers of spec/08_queues_meters_scheduler.md. -/

/-- COP_CFG (R207). -/
def COP_CFG : Nat := 0x140000
def COP_CFG_BANK_EN : Fld := ⟨COP_CFG, 0, 8⟩

/-- COP_RM_CFG (R207). -/
def COP_RM_CFG : Nat := 0x140004
def COP_RM_CFG_MIRROR_CELLS : Fld := ⟨COP_RM_CFG, 16, 11⟩
def COP_RM_CFG_RECIRC_CELLS : Fld := ⟨COP_RM_CFG, 0, 11⟩

/-- COP_STATUS (R207). -/
def COP_STATUS : Nat := 0x140010
def COP_STATUS_BANK_CELLS : Fld := ⟨COP_STATUS, 18, 8⟩
def COP_STATUS_FREE : Fld := ⟨COP_STATUS, 0, 18⟩

/-- COP_SHARED (R207). -/
def COP_SHARED : Nat := 0x140014
def COP_SHARED_F : Fld := ⟨COP_SHARED, 0, 18⟩

/-- COP_ALARM (R207). -/
def COP_ALARM : Nat := 0x140020
def COP_ALARM_BANK_LOSS : Fld := ⟨COP_ALARM, 5, 1⟩
def COP_ALARM_EXP_UNMETERED : Fld := ⟨COP_ALARM, 4, 1⟩
def COP_ALARM_RM_FULL : Fld := ⟨COP_ALARM, 3, 1⟩
def COP_ALARM_NOCELL : Fld := ⟨COP_ALARM, 2, 1⟩
def COP_ALARM_CRC_ERR : Fld := ⟨COP_ALARM, 1, 1⟩
def COP_ALARM_ECC_UNC : Fld := ⟨COP_ALARM, 0, 1⟩

/-- COP_ALARM_EN (R207). -/
def COP_ALARM_EN : Nat := 0x140024
def COP_ALARM_EN_EN : Fld := ⟨COP_ALARM_EN, 0, 6⟩

/-- COP_Q_ADDR (R207). -/
def COP_Q_ADDR : Nat := 0x140040
def COP_Q_ADDR_GO : Fld := ⟨COP_Q_ADDR, 31, 1⟩
def COP_Q_ADDR_DONE : Fld := ⟨COP_Q_ADDR, 30, 1⟩
def COP_Q_ADDR_WRITE : Fld := ⟨COP_Q_ADDR, 29, 1⟩
def COP_Q_ADDR_CLR : Fld := ⟨COP_Q_ADDR, 28, 1⟩
def COP_Q_ADDR_QID : Fld := ⟨COP_Q_ADDR, 0, 13⟩

/-- COP_Q_DATAn (R207). -/
def COP_Q_DATA (n : Nat) : Nat := 0x140044 + 4 * n
def COP_Q_DATA_DATA (n : Nat) : Fld := ⟨COP_Q_DATA n, 0, 32⟩

/-- COP_Q_DATAn (R207). -/
def COP_Q_DATA_RO (n : Nat) : Nat := 0x14004c + 4 * n
def COP_Q_DATA_RO_DATA (n : Nat) : Fld := ⟨COP_Q_DATA_RO n, 0, 32⟩

/-- TOL_CFG (R208). -/
def TOL_CFG : Nat := 0x160000

/-- TOL_ALARM (R208). -/
def TOL_ALARM : Nat := 0x160020
def TOL_ALARM_NO_METER : Fld := ⟨TOL_ALARM, 1, 1⟩
def TOL_ALARM_RATE_RESET : Fld := ⟨TOL_ALARM, 0, 1⟩

/-- TOL_ALARM_EN (R208). -/
def TOL_ALARM_EN : Nat := 0x160024
def TOL_ALARM_EN_EN : Fld := ⟨TOL_ALARM_EN, 0, 2⟩

/-- TOL_TBL_ADDR (R208). -/
def TOL_TBL_ADDR : Nat := 0x160040
def TOL_TBL_ADDR_GO : Fld := ⟨TOL_TBL_ADDR, 31, 1⟩
def TOL_TBL_ADDR_DONE : Fld := ⟨TOL_TBL_ADDR, 30, 1⟩
def TOL_TBL_ADDR_WRITE : Fld := ⟨TOL_TBL_ADDR, 29, 1⟩
def TOL_TBL_ADDR_TABLE : Fld := ⟨TOL_TBL_ADDR, 28, 1⟩
def TOL_TBL_ADDR_INDEX : Fld := ⟨TOL_TBL_ADDR, 0, 13⟩

/-- TOL_TBL_DATAn (R208). -/
def TOL_TBL_DATA (n : Nat) : Nat := 0x160044 + 4 * n
def TOL_TBL_DATA_DATA (n : Nat) : Fld := ⟨TOL_TBL_DATA n, 0, 32⟩

/-- DRV_CFG (R209). -/
def DRV_CFG : Nat := 0x150000
def DRV_CFG_MIRROR_DEST : Fld := ⟨DRV_CFG, 0, 5⟩

/-- DRV_STATUS (R209). -/
def DRV_STATUS : Nat := 0x150010
def DRV_STATUS_EXP_QUEUES : Fld := ⟨DRV_STATUS, 0, 10⟩

/-- DRV_ALARM (R209). -/
def DRV_ALARM : Nat := 0x150020
def DRV_ALARM_RATE_RESET : Fld := ⟨DRV_ALARM, 0, 1⟩

/-- DRV_ALARM_EN (R209). -/
def DRV_ALARM_EN : Nat := 0x150024
def DRV_ALARM_EN_EN : Fld := ⟨DRV_ALARM_EN, 0, 1⟩

/-- DRV_TBL_ADDR (R209). -/
def DRV_TBL_ADDR : Nat := 0x150040
def DRV_TBL_ADDR_GO : Fld := ⟨DRV_TBL_ADDR, 31, 1⟩
def DRV_TBL_ADDR_DONE : Fld := ⟨DRV_TBL_ADDR, 30, 1⟩
def DRV_TBL_ADDR_WRITE : Fld := ⟨DRV_TBL_ADDR, 29, 1⟩
def DRV_TBL_ADDR_TABLE : Fld := ⟨DRV_TBL_ADDR, 27, 2⟩
def DRV_TBL_ADDR_ERR : Fld := ⟨DRV_TBL_ADDR, 25, 2⟩
def DRV_TBL_ADDR_INDEX : Fld := ⟨DRV_TBL_ADDR, 0, 13⟩

/-- DRV_TBL_DATAn (R209). -/
def DRV_TBL_DATA (n : Nat) : Nat := 0x150044 + 4 * n
def DRV_TBL_DATA_DATA (n : Nat) : Fld := ⟨DRV_TBL_DATA n, 0, 32⟩

/-- DRV_TBL_DATAn (R209). -/
def DRV_TBL_DATA_RO (n : Nat) : Nat := 0x150058 + 4 * n
def DRV_TBL_DATA_RO_DATA (n : Nat) : Fld := ⟨DRV_TBL_DATA_RO n, 0, 32⟩

/-! Registers of spec/09_ethernet_ports.md. -/

/-- ETH_MODE_Un (R238). -/
def ETH_MODE (n : Nat) : Nat := 0x180000 + 0x10000 * (n / 10) + 0x800 * (n % 10)
def ETH_MODE_LINKDOWN_DROP (n : Nat) : Fld := ⟨ETH_MODE n, 10, 1⟩
def ETH_MODE_SGMII_SPD (n : Nat) : Fld := ⟨ETH_MODE n, 8, 2⟩
def ETH_MODE_AN_EN (n : Nat) : Fld := ⟨ETH_MODE n, 6, 1⟩
def ETH_MODE_FEC (n : Nat) : Fld := ⟨ETH_MODE n, 4, 2⟩
def ETH_MODE_MODE (n : Nat) : Fld := ⟨ETH_MODE n, 0, 3⟩

/-- ETH_RXF_Un (R238). -/
def ETH_RXF (n : Nat) : Nat := 0x180004 + 0x10000 * (n / 10) + 0x800 * (n % 10)
def ETH_RXF_PROMISC (n : Nat) : Fld := ⟨ETH_RXF n, 31, 1⟩
def ETH_RXF_ALLGROUPS (n : Nat) : Fld := ⟨ETH_RXF n, 30, 1⟩
def ETH_RXF_BCAST_EN (n : Nat) : Fld := ⟨ETH_RXF n, 29, 1⟩
def ETH_RXF_MAX_FRAME (n : Nat) : Fld := ⟨ETH_RXF n, 0, 14⟩

/-- ETH_PAUSE_Un (R238). -/
def ETH_PAUSE (n : Nat) : Nat := 0x180008 + 0x10000 * (n / 10) + 0x800 * (n % 10)
def ETH_PAUSE_OBEY (n : Nat) : Fld := ⟨ETH_PAUSE n, 31, 1⟩
def ETH_PAUSE_GEN_EN (n : Nat) : Fld := ⟨ETH_PAUSE n, 30, 1⟩
def ETH_PAUSE_QUANTA (n : Nat) : Fld := ⟨ETH_PAUSE n, 0, 16⟩

/-- ETH_PAUSE_THR_Un (R238). -/
def ETH_PAUSE_THR (n : Nat) : Nat := 0x18000c + 0x10000 * (n / 10) + 0x800 * (n % 10)
def ETH_PAUSE_THR_F_XOFF (n : Nat) : Fld := ⟨ETH_PAUSE_THR n, 24, 8⟩
def ETH_PAUSE_THR_XOFF_FIFO (n : Nat) : Fld := ⟨ETH_PAUSE_THR n, 16, 6⟩
def ETH_PAUSE_THR_XON_FIFO (n : Nat) : Fld := ⟨ETH_PAUSE_THR n, 8, 6⟩

/-- ETH_MM_Un (R238). -/
def ETH_MM (n : Nat) : Nat := 0x180010 + 0x10000 * (n / 10) + 0x800 * (n % 10)
def ETH_MM_VERIFY_TIME (n : Nat) : Fld := ⟨ETH_MM n, 8, 8⟩
def ETH_MM_ADD_FRAG_SIZE (n : Nat) : Fld := ⟨ETH_MM n, 2, 2⟩
def ETH_MM_VERIFY_DIS (n : Nat) : Fld := ⟨ETH_MM n, 1, 1⟩
def ETH_MM_PREEMPT_EN (n : Nat) : Fld := ⟨ETH_MM n, 0, 1⟩

/-- ETH_TS_CFG_Un (R238). -/
def ETH_TS_CFG (n : Nat) : Nat := 0x180014 + 0x10000 * (n / 10) + 0x800 * (n % 10)
def ETH_TS_CFG_TS_EN_TX (n : Nat) : Fld := ⟨ETH_TS_CFG n, 1, 1⟩
def ETH_TS_CFG_TS_EN_RX (n : Nat) : Fld := ⟨ETH_TS_CFG n, 0, 1⟩

/-- ETH_SA_LO_Un (R238). -/
def ETH_SA_LO (n : Nat) : Nat := 0x180020 + 0x10000 * (n / 10) + 0x800 * (n % 10)
def ETH_SA_LO_ADDR (n : Nat) : Fld := ⟨ETH_SA_LO n, 0, 32⟩

/-- ETH_SA_HI_Un (R238). -/
def ETH_SA_HI (n : Nat) : Nat := 0x180024 + 0x10000 * (n / 10) + 0x800 * (n % 10)
def ETH_SA_HI_ADDR (n : Nat) : Fld := ⟨ETH_SA_HI n, 0, 16⟩

/-- ETH_LANEMAP_U0 (R238). -/
def ETH_LANEMAP : Nat := 0x180030
def ETH_LANEMAP_TX_LANE_REV : Fld := ⟨ETH_LANEMAP, 1, 1⟩
def ETH_LANEMAP_AUTO_TXREV : Fld := ⟨ETH_LANEMAP, 0, 1⟩

/-- ETH_LANESTAT_U0 (R238). -/
def ETH_LANESTAT : Nat := 0x180034
def ETH_LANESTAT_TXREV_ACT : Fld := ⟨ETH_LANESTAT, 10, 1⟩
def ETH_LANESTAT_RX_REV : Fld := ⟨ETH_LANESTAT, 9, 1⟩
def ETH_LANESTAT_ALIGNED : Fld := ⟨ETH_LANESTAT, 8, 1⟩
def ETH_LANESTAT_RX_MAP : Fld := ⟨ETH_LANESTAT, 0, 8⟩

/-- ETH_STATUS_Un (R238). -/
def ETH_STATUS (n : Nat) : Nat := 0x180040 + 0x10000 * (n / 10) + 0x800 * (n % 10)
def ETH_STATUS_MM_ACTIVE (n : Nat) : Fld := ⟨ETH_STATUS n, 11, 1⟩
def ETH_STATUS_MM_VERIFY (n : Nat) : Fld := ⟨ETH_STATUS n, 9, 2⟩
def ETH_STATUS_LISTEN (n : Nat) : Fld := ⟨ETH_STATUS n, 8, 1⟩
def ETH_STATUS_PAUSING (n : Nat) : Fld := ⟨ETH_STATUS n, 7, 1⟩
def ETH_STATUS_PAUSED (n : Nat) : Fld := ⟨ETH_STATUS n, 6, 1⟩
def ETH_STATUS_REMOTE_FAULT (n : Nat) : Fld := ⟨ETH_STATUS n, 5, 1⟩
def ETH_STATUS_LOCAL_FAULT (n : Nat) : Fld := ⟨ETH_STATUS n, 4, 1⟩
def ETH_STATUS_SPEED (n : Nat) : Fld := ⟨ETH_STATUS n, 2, 2⟩
def ETH_STATUS_AN_DONE (n : Nat) : Fld := ⟨ETH_STATUS n, 1, 1⟩
def ETH_STATUS_LINK (n : Nat) : Fld := ⟨ETH_STATUS n, 0, 1⟩

/-- ETH_ALARM_Un (R238). -/
def ETH_ALARM (n : Nat) : Nat := 0x180050 + 0x10000 * (n / 10) + 0x800 * (n % 10)
def ETH_ALARM_FAULT (n : Nat) : Fld := ⟨ETH_ALARM n, 7, 1⟩
def ETH_ALARM_SPEED_DOWN (n : Nat) : Fld := ⟨ETH_ALARM n, 6, 1⟩
def ETH_ALARM_LANE_PERM (n : Nat) : Fld := ⟨ETH_ALARM n, 5, 1⟩
def ETH_ALARM_PREEMPT_FAIL (n : Nat) : Fld := ⟨ETH_ALARM n, 4, 1⟩
def ETH_ALARM_TS_LOST (n : Nat) : Fld := ⟨ETH_ALARM n, 3, 1⟩
def ETH_ALARM_RX_OVF (n : Nat) : Fld := ⟨ETH_ALARM n, 2, 1⟩
def ETH_ALARM_LINK_UP (n : Nat) : Fld := ⟨ETH_ALARM n, 1, 1⟩
def ETH_ALARM_LINK_DOWN (n : Nat) : Fld := ⟨ETH_ALARM n, 0, 1⟩

/-- ETH_ALARM_EN_Un (R238). -/
def ETH_ALARM_EN (n : Nat) : Nat := 0x180054 + 0x10000 * (n / 10) + 0x800 * (n % 10)
def ETH_ALARM_EN_EN (n : Nat) : Fld := ⟨ETH_ALARM_EN n, 0, 8⟩

/-- ETH_TSQ_STATUS_Un (R238). -/
def ETH_TSQ_STATUS (n : Nat) : Nat := 0x180060 + 0x10000 * (n / 10) + 0x800 * (n % 10)
def ETH_TSQ_STATUS_COUNT (n : Nat) : Fld := ⟨ETH_TSQ_STATUS n, 0, 7⟩

/-- ETH_TSQ_W0_Un (R238). -/
def ETH_TSQ_W0 (n : Nat) : Nat := 0x180064 + 0x10000 * (n / 10) + 0x800 * (n % 10)
def ETH_TSQ_W0_VALID (n : Nat) : Fld := ⟨ETH_TSQ_W0 n, 31, 1⟩
def ETH_TSQ_W0_GAP (n : Nat) : Fld := ⟨ETH_TSQ_W0 n, 30, 1⟩
def ETH_TSQ_W0_MSGTYPE (n : Nat) : Fld := ⟨ETH_TSQ_W0 n, 16, 4⟩
def ETH_TSQ_W0_SEQID (n : Nat) : Fld := ⟨ETH_TSQ_W0 n, 0, 16⟩

/-- ETH_TSQ_W1_Un (R238). -/
def ETH_TSQ_W1 (n : Nat) : Nat := 0x180068 + 0x10000 * (n / 10) + 0x800 * (n % 10)
def ETH_TSQ_W1_FN (n : Nat) : Fld := ⟨ETH_TSQ_W1 n, 0, 30⟩

/-- ETH_TSQ_W2_Un (R238). -/
def ETH_TSQ_W2 (n : Nat) : Nat := 0x18006c + 0x10000 * (n / 10) + 0x800 * (n % 10)
def ETH_TSQ_W2_CIF (n : Nat) : Fld := ⟨ETH_TSQ_W2 n, 8, 18⟩
def ETH_TSQ_W2_FRAC (n : Nat) : Fld := ⟨ETH_TSQ_W2 n, 0, 8⟩

/-- ETH_WAKE_CFG_Un (R238). -/
def ETH_WAKE_CFG (n : Nat) : Nat := 0x180080 + 0x10000 * (n / 10) + 0x800 * (n % 10)
def ETH_WAKE_CFG_MAGIC_EN (n : Nat) : Fld := ⟨ETH_WAKE_CFG n, 8, 1⟩
def ETH_WAKE_CFG_PAT_EN (n : Nat) : Fld := ⟨ETH_WAKE_CFG n, 0, 8⟩

/-- ETH_WAKE_STATUS_Un (R238). -/
def ETH_WAKE_STATUS (n : Nat) : Nat := 0x180084 + 0x10000 * (n / 10) + 0x800 * (n % 10)
def ETH_WAKE_STATUS_DISC (n : Nat) : Fld := ⟨ETH_WAKE_STATUS n, 16, 16⟩
def ETH_WAKE_STATUS_LAST (n : Nat) : Fld := ⟨ETH_WAKE_STATUS n, 0, 4⟩

/-- ETH_EXACT_LOk_Un (R238). -/
def ETH_EXACT_LO (n : Nat) (k : Nat) : Nat := 0x180100 + 0x10000 * (n / 10) + 0x800 * (n % 10) + 8 * k
def ETH_EXACT_LO_ADDR (n : Nat) (k : Nat) : Fld := ⟨ETH_EXACT_LO n k, 0, 32⟩

/-- ETH_EXACT_HIk_Un (R238). -/
def ETH_EXACT_HI (n : Nat) (k : Nat) : Nat := 0x180104 + 0x10000 * (n / 10) + 0x800 * (n % 10) + 8 * k
def ETH_EXACT_HI_VALID (n : Nat) (k : Nat) : Fld := ⟨ETH_EXACT_HI n k, 31, 1⟩
def ETH_EXACT_HI_ADDR (n : Nat) (k : Nat) : Fld := ⟨ETH_EXACT_HI n k, 0, 16⟩

/-- ETH_MCHASHj_Un (R238). -/
def ETH_MCHASH (n : Nat) (j : Nat) : Nat := 0x180200 + 0x10000 * (n / 10) + 0x800 * (n % 10) + 4 * j
def ETH_MCHASH_BITS (n : Nat) (j : Nat) : Fld := ⟨ETH_MCHASH n j, 0, 32⟩

/-- ETH_MDIOm_CFG (R238). -/
def ETH_MDIO_CFG (m : Nat) : Nat := 0x186000 + 0x10 * m
def ETH_MDIO_CFG_PRE_SUP (m : Nat) : Fld := ⟨ETH_MDIO_CFG m, 10, 1⟩
def ETH_MDIO_CFG_MDC_DIV (m : Nat) : Fld := ⟨ETH_MDIO_CFG m, 0, 10⟩

/-- ETH_MDIOm_CMD (R238). -/
def ETH_MDIO_CMD (m : Nat) : Nat := 0x186004 + 0x10 * m
def ETH_MDIO_CMD_GO (m : Nat) : Fld := ⟨ETH_MDIO_CMD m, 31, 1⟩
def ETH_MDIO_CMD_DONE (m : Nat) : Fld := ⟨ETH_MDIO_CMD m, 30, 1⟩
def ETH_MDIO_CMD_ERR (m : Nat) : Fld := ⟨ETH_MDIO_CMD m, 28, 2⟩
def ETH_MDIO_CMD_CL45 (m : Nat) : Fld := ⟨ETH_MDIO_CMD m, 27, 1⟩
def ETH_MDIO_CMD_OP (m : Nat) : Fld := ⟨ETH_MDIO_CMD m, 24, 2⟩
def ETH_MDIO_CMD_PHYAD (m : Nat) : Fld := ⟨ETH_MDIO_CMD m, 16, 5⟩
def ETH_MDIO_CMD_REGAD (m : Nat) : Fld := ⟨ETH_MDIO_CMD m, 0, 5⟩

/-- ETH_MDIOm_DATA (R238). -/
def ETH_MDIO_DATA (m : Nat) : Nat := 0x186008 + 0x10 * m
def ETH_MDIO_DATA_DATA (m : Nat) : Fld := ⟨ETH_MDIO_DATA m, 0, 16⟩

/-- ETH_WK_ADDR (R238). -/
def ETH_WK_ADDR : Nat := 0x186040
def ETH_WK_ADDR_GO : Fld := ⟨ETH_WK_ADDR, 31, 1⟩
def ETH_WK_ADDR_DONE : Fld := ⟨ETH_WK_ADDR, 30, 1⟩
def ETH_WK_ADDR_WRITE : Fld := ⟨ETH_WK_ADDR, 29, 1⟩
def ETH_WK_ADDR_PORT : Fld := ⟨ETH_WK_ADDR, 16, 5⟩
def ETH_WK_ADDR_PATTERN : Fld := ⟨ETH_WK_ADDR, 8, 3⟩
def ETH_WK_ADDR_WORD : Fld := ⟨ETH_WK_ADDR, 0, 5⟩

/-- ETH_WK_DATA (R238). -/
def ETH_WK_DATA : Nat := 0x186044
def ETH_WK_DATA_DATA : Fld := ⟨ETH_WK_DATA, 0, 32⟩

/-- ETH_WK_PW_STATUS (R238). -/
def ETH_WK_PW_STATUS : Nat := 0x186048
def ETH_WK_PW_STATUS_WR_DROP : Fld := ⟨ETH_WK_PW_STATUS, 1, 1⟩
def ETH_WK_PW_STATUS_BUSY : Fld := ⟨ETH_WK_PW_STATUS, 0, 1⟩

/-- ETH_COM_ALARM (R238). -/
def ETH_COM_ALARM : Nat := 0x186050
def ETH_COM_ALARM_LSO_ERR : Fld := ⟨ETH_COM_ALARM, 0, 1⟩

/-- ETH_COM_ALARM_EN (R238). -/
def ETH_COM_ALARM_EN : Nat := 0x186054
def ETH_COM_ALARM_EN_EN : Fld := ⟨ETH_COM_ALARM_EN, 0, 1⟩

/-- SDS_LANEn_CFG (R238). -/
def SDS_LANE_CFG (n : Nat) : Nat := 0x1a0000 + 0x400 * n
def SDS_LANE_CFG_TX_INV (n : Nat) : Fld := ⟨SDS_LANE_CFG n, 2, 1⟩
def SDS_LANE_CFG_POL_MODE (n : Nat) : Fld := ⟨SDS_LANE_CFG n, 0, 2⟩

/-- SDS_LANEn_TXEQ (R238). -/
def SDS_LANE_TXEQ (n : Nat) : Nat := 0x1a0004 + 0x400 * n
def SDS_LANE_TXEQ_POST (n : Nat) : Fld := ⟨SDS_LANE_TXEQ n, 16, 6⟩
def SDS_LANE_TXEQ_MAIN (n : Nat) : Fld := ⟨SDS_LANE_TXEQ n, 8, 6⟩
def SDS_LANE_TXEQ_PRE (n : Nat) : Fld := ⟨SDS_LANE_TXEQ n, 0, 6⟩

/-- SDS_LANEn_STATUS (R238). -/
def SDS_LANE_STATUS (n : Nat) : Nat := 0x1a0010 + 0x400 * n
def SDS_LANE_STATUS_POL_TRIES (n : Nat) : Fld := ⟨SDS_LANE_STATUS n, 16, 16⟩
def SDS_LANE_STATUS_RX_INV (n : Nat) : Fld := ⟨SDS_LANE_STATUS n, 3, 1⟩
def SDS_LANE_STATUS_LOCK (n : Nat) : Fld := ⟨SDS_LANE_STATUS n, 2, 1⟩
def SDS_LANE_STATUS_CDR_LOCK (n : Nat) : Fld := ⟨SDS_LANE_STATUS n, 1, 1⟩
def SDS_LANE_STATUS_SIG_DET (n : Nat) : Fld := ⟨SDS_LANE_STATUS n, 0, 1⟩

/-- SDS_LANEn_PW_STATUS (R238). -/
def SDS_LANE_PW_STATUS (n : Nat) : Nat := 0x1a0020 + 0x400 * n
def SDS_LANE_PW_STATUS_WR_DROP (n : Nat) : Fld := ⟨SDS_LANE_PW_STATUS n, 1, 1⟩
def SDS_LANE_PW_STATUS_BUSY (n : Nat) : Fld := ⟨SDS_LANE_PW_STATUS n, 0, 1⟩

/-- SDS_LANEn_ALARM (R238). -/
def SDS_LANE_ALARM (n : Nat) : Nat := 0x1a0030 + 0x400 * n
def SDS_LANE_ALARM_LOCK_LOSS (n : Nat) : Fld := ⟨SDS_LANE_ALARM n, 1, 1⟩
def SDS_LANE_ALARM_POL_CHG (n : Nat) : Fld := ⟨SDS_LANE_ALARM n, 0, 1⟩

/-- SDS_LANEn_ALARM_EN (R238). -/
def SDS_LANE_ALARM_EN (n : Nat) : Nat := 0x1a0034 + 0x400 * n
def SDS_LANE_ALARM_EN_WR_DROP_EN (n : Nat) : Fld := ⟨SDS_LANE_ALARM_EN n, 2, 1⟩
def SDS_LANE_ALARM_EN_EN (n : Nat) : Fld := ⟨SDS_LANE_ALARM_EN n, 0, 2⟩

/-! Registers of spec/10_tributaries_and_tsi.md. -/

/-- TDM_CFG_Tn (R263). -/
def TDM_CFG (n : Nat) : Nat := 0x1c0000 + 0x100 * n
def TDM_CFG_EN (n : Nat) : Fld := ⟨TDM_CFG n, 31, 1⟩
def TDM_CFG_MODE (n : Nat) : Fld := ⟨TDM_CFG n, 29, 2⟩
def TDM_CFG_TX_SRC (n : Nat) : Fld := ⟨TDM_CFG n, 28, 1⟩
def TDM_CFG_CLK_SRC (n : Nat) : Fld := ⟨TDM_CFG n, 27, 1⟩
def TDM_CFG_DIR_LINE (n : Nat) : Fld := ⟨TDM_CFG n, 26, 1⟩
def TDM_CFG_DIR_SLOT (n : Nat) : Fld := ⟨TDM_CFG n, 21, 5⟩
def TDM_CFG_RXC_EDGE (n : Nat) : Fld := ⟨TDM_CFG n, 20, 1⟩
def TDM_CFG_TXC_EDGE (n : Nat) : Fld := ⟨TDM_CFG n, 19, 1⟩
def TDM_CFG_INTWK_EN (n : Nat) : Fld := ⟨TDM_CFG n, 18, 1⟩
def TDM_CFG_TAU (n : Nat) : Fld := ⟨TDM_CFG n, 14, 4⟩
def TDM_CFG_LOS_N (n : Nat) : Fld := ⟨TDM_CFG n, 0, 8⟩

/-- TDM_CTRL_Tn (R263). -/
def TDM_CTRL (n : Nat) : Nat := 0x1c0004 + 0x100 * n
def TDM_CTRL_FORCE_RAI (n : Nat) : Fld := ⟨TDM_CTRL n, 1, 1⟩
def TDM_CTRL_FORCE_AIS (n : Nat) : Fld := ⟨TDM_CTRL n, 0, 1⟩

/-- TDM_STATUS_Tn (R263). -/
def TDM_STATUS (n : Nat) : Nat := 0x1c0010 + 0x100 * n
def TDM_STATUS_TX_RAI (n : Nat) : Fld := ⟨TDM_STATUS n, 8, 1⟩
def TDM_STATUS_TX_AIS (n : Nat) : Fld := ⟨TDM_STATUS n, 7, 1⟩
def TDM_STATUS_INTWK (n : Nat) : Fld := ⟨TDM_STATUS n, 6, 1⟩
def TDM_STATUS_MF_ALIGN (n : Nat) : Fld := ⟨TDM_STATUS n, 5, 1⟩
def TDM_STATUS_RAI (n : Nat) : Fld := ⟨TDM_STATUS n, 4, 1⟩
def TDM_STATUS_AIS (n : Nat) : Fld := ⟨TDM_STATUS n, 3, 1⟩
def TDM_STATUS_LOF (n : Nat) : Fld := ⟨TDM_STATUS n, 2, 1⟩
def TDM_STATUS_LOS (n : Nat) : Fld := ⟨TDM_STATUS n, 1, 1⟩
def TDM_STATUS_RXC_OK (n : Nat) : Fld := ⟨TDM_STATUS n, 0, 1⟩

/-- TDM_NCO_Tn (R263). -/
def TDM_NCO (n : Nat) : Nat := 0x1c0014 + 0x100 * n
def TDM_NCO_FILL (n : Nat) : Fld := ⟨TDM_NCO n, 24, 8⟩
def TDM_NCO_OFS (n : Nat) : Fld := ⟨TDM_NCO n, 0, 24⟩

/-- TDM_ALARM_Tn (R263). -/
def TDM_ALARM (n : Nat) : Nat := 0x1c0020 + 0x100 * n
def TDM_ALARM_RX_SLIP (n : Nat) : Fld := ⟨TDM_ALARM n, 7, 1⟩
def TDM_ALARM_TX_SLIP (n : Nat) : Fld := ⟨TDM_ALARM n, 6, 1⟩
def TDM_ALARM_CRC4_LOSS (n : Nat) : Fld := ⟨TDM_ALARM n, 5, 1⟩
def TDM_ALARM_INTWK (n : Nat) : Fld := ⟨TDM_ALARM n, 4, 1⟩
def TDM_ALARM_RAI (n : Nat) : Fld := ⟨TDM_ALARM n, 3, 1⟩
def TDM_ALARM_AIS (n : Nat) : Fld := ⟨TDM_ALARM n, 2, 1⟩
def TDM_ALARM_LOF (n : Nat) : Fld := ⟨TDM_ALARM n, 1, 1⟩
def TDM_ALARM_LOS (n : Nat) : Fld := ⟨TDM_ALARM n, 0, 1⟩

/-- TDM_ALARM_EN_Tn (R263). -/
def TDM_ALARM_EN (n : Nat) : Nat := 0x1c0024 + 0x100 * n
def TDM_ALARM_EN_EN (n : Nat) : Fld := ⟨TDM_ALARM_EN n, 0, 8⟩

/-- TDM_PW_STATUSm (R263). -/
def TDM_PW_STATUS (m : Nat) : Nat := 0x1c3000 + 4 * m
def TDM_PW_STATUS_WR_DROP (m : Nat) : Fld := ⟨TDM_PW_STATUS m, 1, 1⟩
def TDM_PW_STATUS_BUSY (m : Nat) : Fld := ⟨TDM_PW_STATUS m, 0, 1⟩

/-- TCM_CFG (R263). -/
def TCM_CFG : Nat := 0x1e0000
def TCM_CFG_DLY_B : Fld := ⟨TCM_CFG, 8, 5⟩
def TCM_CFG_DLY_A : Fld := ⟨TCM_CFG, 0, 5⟩

/-- TCM_ALARM (R263). -/
def TCM_ALARM : Nat := 0x1e0020
def TCM_ALARM_LATE : Fld := ⟨TCM_ALARM, 6, 1⟩
def TCM_ALARM_DS_SLIP : Fld := ⟨TCM_ALARM, 5, 1⟩
def TCM_ALARM_BIP : Fld := ⟨TCM_ALARM, 4, 1⟩
def TCM_ALARM_RX_RDI : Fld := ⟨TCM_ALARM, 3, 1⟩
def TCM_ALARM_NEW_PTR : Fld := ⟨TCM_ALARM, 2, 1⟩
def TCM_ALARM_AIS : Fld := ⟨TCM_ALARM, 1, 1⟩
def TCM_ALARM_LOP : Fld := ⟨TCM_ALARM, 0, 1⟩

/-- TCM_ALARM_EN (R263). -/
def TCM_ALARM_EN : Nat := 0x1e0024
def TCM_ALARM_EN_EN : Fld := ⟨TCM_ALARM_EN, 0, 7⟩

/-- TCM_LOP_MAPx (R263). -/
def TCM_LOP_MAP (x : Nat) : Nat := 0x1e0030 + 4 * x
def TCM_LOP_MAP_MAP (x : Nat) : Fld := ⟨TCM_LOP_MAP x, 0, 32⟩

/-- TCM_AIS_MAPx (R263). -/
def TCM_AIS_MAP (x : Nat) : Nat := 0x1e0038 + 4 * x
def TCM_AIS_MAP_MAP (x : Nat) : Fld := ⟨TCM_AIS_MAP x, 0, 32⟩

/-- TCM_DS_SLOTs (R263). -/
def TCM_DS_SLOT (s : Nat) : Nat := 0x1e0100 + 4 * s
def TCM_DS_SLOT_VALID (s : Nat) : Fld := ⟨TCM_DS_SLOT s, 31, 1⟩
def TCM_DS_SLOT_CONT (s : Nat) : Fld := ⟨TCM_DS_SLOT s, 0, 12⟩

/-- TCM_US_SLOTs (R263). -/
def TCM_US_SLOT (s : Nat) : Nat := 0x1e0200 + 4 * s
def TCM_US_SLOT_VALID (s : Nat) : Fld := ⟨TCM_US_SLOT s, 31, 1⟩
def TCM_US_SLOT_SRC (s : Nat) : Fld := ⟨TCM_US_SLOT s, 30, 1⟩
def TCM_US_SLOT_TRIB (s : Nat) : Fld := ⟨TCM_US_SLOT s, 0, 5⟩

/-- TCM_DS_STATs (R263). -/
def TCM_DS_STAT (s : Nat) : Nat := 0x1e0300 + 4 * s
def TCM_DS_STAT_STATE (s : Nat) : Fld := ⟨TCM_DS_STAT s, 30, 2⟩
def TCM_DS_STAT_RX_RDI (s : Nat) : Fld := ⟨TCM_DS_STAT s, 29, 1⟩
def TCM_DS_STAT_RX_REI (s : Nat) : Fld := ⟨TCM_DS_STAT s, 25, 4⟩
def TCM_DS_STAT_RX_AISIN (s : Nat) : Fld := ⟨TCM_DS_STAT s, 24, 1⟩
def TCM_DS_STAT_RX_MODE (s : Nat) : Fld := ⟨TCM_DS_STAT s, 22, 2⟩
def TCM_DS_STAT_P (s : Nat) : Fld := ⟨TCM_DS_STAT s, 0, 5⟩

/-- TSI_CTRL (R264). -/
def TSI_CTRL : Nat := 0x1d0000
def TSI_CTRL_COPY : Fld := ⟨TSI_CTRL, 0, 1⟩

/-- TSI_STATUS (R264). -/
def TSI_STATUS : Nat := 0x1d0010
def TSI_STATUS_COPY_BUSY : Fld := ⟨TSI_STATUS, 1, 1⟩
def TSI_STATUS_ACTIVE : Fld := ⟨TSI_STATUS, 0, 1⟩

/-- TSI_SWAP_FN (R264). -/
def TSI_SWAP_FN : Nat := 0x1d0014
def TSI_SWAP_FN_FN : Fld := ⟨TSI_SWAP_FN, 0, 32⟩

/-- TSI_ALARM (R264). -/
def TSI_ALARM : Nat := 0x1d0020
def TSI_ALARM_SWAP : Fld := ⟨TSI_ALARM, 4, 1⟩
def TSI_ALARM_MON_ERR : Fld := ⟨TSI_ALARM, 3, 1⟩
def TSI_ALARM_ECC_UNC : Fld := ⟨TSI_ALARM, 2, 1⟩
def TSI_ALARM_BAD_SRC : Fld := ⟨TSI_ALARM, 1, 1⟩
def TSI_ALARM_ACT_WR : Fld := ⟨TSI_ALARM, 0, 1⟩

/-- TSI_ALARM_EN (R264). -/
def TSI_ALARM_EN : Nat := 0x1d0024
def TSI_ALARM_EN_EN : Fld := ⟨TSI_ALARM_EN, 0, 5⟩

/-- TSI_CM_ADDR (R264). -/
def TSI_CM_ADDR : Nat := 0x1d0040
def TSI_CM_ADDR_GO : Fld := ⟨TSI_CM_ADDR, 31, 1⟩
def TSI_CM_ADDR_DONE : Fld := ⟨TSI_CM_ADDR, 30, 1⟩
def TSI_CM_ADDR_WRITE : Fld := ⟨TSI_CM_ADDR, 29, 1⟩
def TSI_CM_ADDR_TABLE : Fld := ⟨TSI_CM_ADDR, 27, 2⟩
def TSI_CM_ADDR_ERR : Fld := ⟨TSI_CM_ADDR, 24, 3⟩
def TSI_CM_ADDR_INDEX : Fld := ⟨TSI_CM_ADDR, 0, 12⟩

/-- TSI_CM_DATA (R264). -/
def TSI_CM_DATA : Nat := 0x1d0044
def TSI_CM_DATA_MODE : Fld := ⟨TSI_CM_DATA, 30, 2⟩
def TSI_CM_DATA_SRC : Fld := ⟨TSI_CM_DATA, 16, 12⟩
def TSI_CM_DATA_IDLE : Fld := ⟨TSI_CM_DATA, 0, 8⟩

/-! Registers of spec/11_network_time_and_deadlines.md. -/

/-- NTU_STATUS (R291). -/
def NTU_STATUS : Nat := 0x050000
def NTU_STATUS_PPSIN_OK : Fld := ⟨NTU_STATUS, 10, 1⟩
def NTU_STATUS_TOD_NOCORR : Fld := ⟨NTU_STATUS, 9, 1⟩
def NTU_STATUS_TRACEABLE : Fld := ⟨NTU_STATUS, 8, 1⟩
def NTU_STATUS_TOD_VALID : Fld := ⟨NTU_STATUS, 7, 1⟩
def NTU_STATUS_HO_UNLEARNT : Fld := ⟨NTU_STATUS, 6, 1⟩
def NTU_STATUS_HO_AGED : Fld := ⟨NTU_STATUS, 5, 1⟩
def NTU_STATUS_HO_READY : Fld := ⟨NTU_STATUS, 4, 1⟩
def NTU_STATUS_NT_VALID : Fld := ⟨NTU_STATUS, 3, 1⟩
def NTU_STATUS_STATE : Fld := ⟨NTU_STATUS, 0, 3⟩

/-- NTU_CAP (R291). -/
def NTU_CAP : Nat := 0x050004
def NTU_CAP_CAP : Fld := ⟨NTU_CAP, 0, 1⟩

/-- NTU_CAP_FN (R291). -/
def NTU_CAP_FN_LO : Nat := 0x050008
def NTU_CAP_FN_LO_FN : Fld := ⟨NTU_CAP_FN_LO, 0, 32⟩

/-- NTU_CAP_FN (R291). -/
def NTU_CAP_FN_HI : Nat := 0x05000c
def NTU_CAP_FN_HI_FN : Fld := ⟨NTU_CAP_FN_HI, 0, 16⟩

/-- NTU_CAP_CIF (R291). -/
def NTU_CAP_CIF : Nat := 0x050010
def NTU_CAP_CIF_CIF : Fld := ⟨NTU_CAP_CIF, 8, 18⟩
def NTU_CAP_CIF_FRAC : Fld := ⟨NTU_CAP_CIF, 0, 8⟩

/-- NTU_CAP_SEC (R291). -/
def NTU_CAP_SEC_LO : Nat := 0x050018
def NTU_CAP_SEC_LO_SEC : Fld := ⟨NTU_CAP_SEC_LO, 0, 32⟩

/-- NTU_CAP_SEC (R291). -/
def NTU_CAP_SEC_HI : Nat := 0x05001c
def NTU_CAP_SEC_HI_SEC : Fld := ⟨NTU_CAP_SEC_HI, 0, 16⟩

/-- NTU_CAP_NS (R291). -/
def NTU_CAP_NS : Nat := 0x050020
def NTU_CAP_NS_NS : Fld := ⟨NTU_CAP_NS, 0, 30⟩

/-- NTU_HO_CFG (R291). -/
def NTU_HO_CFG : Nat := 0x050040
def NTU_HO_CFG_HO_LIMIT : Fld := ⟨NTU_HO_CFG, 16, 16⟩
def NTU_HO_CFG_HO_TC : Fld := ⟨NTU_HO_CFG, 0, 11⟩

/-- NTU_TIME_CFG (R291). -/
def NTU_TIME_CFG : Nat := 0x050044
def NTU_TIME_CFG_STEP_THR : Fld := ⟨NTU_TIME_CFG, 16, 16⟩
def NTU_TIME_CFG_TOD_SLEW_THR : Fld := ⟨NTU_TIME_CFG, 0, 16⟩

/-- NTU_HO_FREQ (R291). -/
def NTU_HO_FREQ : Nat := 0x050048
def NTU_HO_FREQ_OFS : Fld := ⟨NTU_HO_FREQ, 0, 32⟩

/-- NTU_TOD_CFGx (R291). -/
def NTU_TOD_CFG (x : Nat) : Nat := 0x050050 + 4 * x
def NTU_TOD_CFG_HE_EQ (x : Nat) : Fld := ⟨NTU_TOD_CFG x, 0, 24⟩

/-- NTU_ASYM (R291). -/
def NTU_ASYM : Nat := 0x050058
def NTU_ASYM_KM_NS : Fld := ⟨NTU_ASYM, 16, 16⟩
def NTU_ASYM_ASYM : Fld := ⟨NTU_ASYM, 0, 16⟩

/-- NTU_TOD_ERR (R291). -/
def NTU_TOD_ERR : Nat := 0x05005c
def NTU_TOD_ERR_E : Fld := ⟨NTU_TOD_ERR, 0, 32⟩

/-- NTU_TOD_XERR (R291). -/
def NTU_TOD_XERR : Nat := 0x050060
def NTU_TOD_XERR_E : Fld := ⟨NTU_TOD_XERR, 0, 32⟩

/-- NTU_PPS_CFG (R291). -/
def NTU_PPS_CFG : Nat := 0x050070
def NTU_PPS_CFG_PPS_EN : Fld := ⟨NTU_PPS_CFG, 31, 1⟩
def NTU_PPS_CFG_PPS_NOTOD : Fld := ⟨NTU_PPS_CFG, 30, 1⟩
def NTU_PPS_CFG_TEN_EN : Fld := ⟨NTU_PPS_CFG, 29, 1⟩
def NTU_PPS_CFG_PPSIN_DISC : Fld := ⟨NTU_PPS_CFG, 28, 1⟩
def NTU_PPS_CFG_WIDTH : Fld := ⟨NTU_PPS_CFG, 0, 10⟩

/-- NTU_PPSIN_FN (R291). -/
def NTU_PPSIN_FN : Nat := 0x050074
def NTU_PPSIN_FN_FN : Fld := ⟨NTU_PPSIN_FN, 0, 32⟩

/-- NTU_PPSIN_CIF (R291). -/
def NTU_PPSIN_CIF : Nat := 0x050078
def NTU_PPSIN_CIF_CIF : Fld := ⟨NTU_PPSIN_CIF, 8, 18⟩
def NTU_PPSIN_CIF_FRAC : Fld := ⟨NTU_PPSIN_CIF, 0, 8⟩

/-- NTU_PPSIN_ERR (R291). -/
def NTU_PPSIN_ERR : Nat := 0x05007c
def NTU_PPSIN_ERR_E : Fld := ⟨NTU_PPSIN_ERR, 0, 32⟩

/-- NTU_PTP_CFG (R291). -/
def NTU_PTP_CFG : Nat := 0x050080
def NTU_PTP_CFG_DOMAIN : Fld := ⟨NTU_PTP_CFG, 24, 8⟩
def NTU_PTP_CFG_UTC_OFS : Fld := ⟨NTU_PTP_CFG, 16, 8⟩
def NTU_PTP_CFG_TWO_STEP : Fld := ⟨NTU_PTP_CFG, 15, 1⟩
def NTU_PTP_CFG_TRANSPORT : Fld := ⟨NTU_PTP_CFG, 13, 2⟩
def NTU_PTP_CFG_P2P : Fld := ⟨NTU_PTP_CFG, 12, 1⟩
def NTU_PTP_CFG_SYNC_LOG : Fld := ⟨NTU_PTP_CFG, 8, 4⟩
def NTU_PTP_CFG_ANN_LOG : Fld := ⟨NTU_PTP_CFG, 4, 4⟩
def NTU_PTP_CFG_DREQ_LOG : Fld := ⟨NTU_PTP_CFG, 0, 4⟩

/-- NTU_PTP_PORTS (R291). -/
def NTU_PTP_PORTS : Nat := 0x050084
def NTU_PTP_PORTS_EN : Fld := ⟨NTU_PTP_PORTS, 0, 20⟩

/-- NTU_XCFG (R291). -/
def NTU_XCFG : Nat := 0x050090
def NTU_XCFG_XMAX : Fld := ⟨NTU_XCFG, 0, 10⟩

/-- NTU_CGx (R291). -/
def NTU_CG (x : Nat) : Nat := 0x050094 + 4 * x
def NTU_CG_EN (x : Nat) : Fld := ⟨NTU_CG x, 31, 1⟩
def NTU_CG_RPT (x : Nat) : Fld := ⟨NTU_CG x, 24, 7⟩
def NTU_CG_CG_LEN (x : Nat) : Fld := ⟨NTU_CG x, 0, 20⟩

/-- NTU_ALARM (R291). -/
def NTU_ALARM : Nat := 0x0500a0
def NTU_ALARM_BOUND_LOST : Fld := ⟨NTU_ALARM, 14, 1⟩
def NTU_ALARM_CG_MISS : Fld := ⟨NTU_ALARM, 13, 1⟩
def NTU_ALARM_XG_SHORT : Fld := ⟨NTU_ALARM, 12, 1⟩
def NTU_ALARM_XG_LATE : Fld := ⟨NTU_ALARM, 11, 1⟩
def NTU_ALARM_PPSIN_ERR : Fld := ⟨NTU_ALARM, 10, 1⟩
def NTU_ALARM_PPSIN_LOS : Fld := ⟨NTU_ALARM, 9, 1⟩
def NTU_ALARM_TOD_STEP : Fld := ⟨NTU_ALARM, 8, 1⟩
def NTU_ALARM_USER_OVF : Fld := ⟨NTU_ALARM, 7, 1⟩
def NTU_ALARM_USER : Fld := ⟨NTU_ALARM, 6, 1⟩
def NTU_ALARM_MISSED : Fld := ⟨NTU_ALARM, 5, 1⟩
def NTU_ALARM_HO_AGED : Fld := ⟨NTU_ALARM, 4, 1⟩
def NTU_ALARM_HOLDOVER : Fld := ⟨NTU_ALARM, 3, 1⟩
def NTU_ALARM_FN_JUMP : Fld := ⟨NTU_ALARM, 2, 1⟩
def NTU_ALARM_NT_STEP : Fld := ⟨NTU_ALARM, 1, 1⟩
def NTU_ALARM_NT_SET : Fld := ⟨NTU_ALARM, 0, 1⟩

/-- NTU_ALARM_EN (R291). -/
def NTU_ALARM_EN : Nat := 0x0500a4
def NTU_ALARM_EN_EN : Fld := ⟨NTU_ALARM_EN, 0, 15⟩

/-- NTU_USER_EVT (R291). -/
def NTU_USER_EVT : Nat := 0x0500a8
def NTU_USER_EVT_SLOT : Fld := ⟨NTU_USER_EVT, 16, 6⟩
def NTU_USER_EVT_CODE : Fld := ⟨NTU_USER_EVT, 0, 16⟩

/-- NTU_BND_FAIL (R291). -/
def NTU_BND_FAIL : Nat := 0x0500b0
def NTU_BND_FAIL_VALID : Fld := ⟨NTU_BND_FAIL, 31, 1⟩
def NTU_BND_FAIL_PORT : Fld := ⟨NTU_BND_FAIL, 30, 1⟩
def NTU_BND_FAIL_INDEX : Fld := ⟨NTU_BND_FAIL, 0, 13⟩

/-- NTU_BND_FAIL_NS (R291). -/
def NTU_BND_FAIL_NS : Nat := 0x0500b4
def NTU_BND_FAIL_NS_VALUE : Fld := ⟨NTU_BND_FAIL_NS, 0, 32⟩

/-- NTU_BND_LOST (R291). -/
def NTU_BND_LOST : Nat := 0x0500b8
def NTU_BND_LOST_PORTS : Fld := ⟨NTU_BND_LOST, 0, 4⟩

/-- NTU_TBL_ADDR (R291). -/
def NTU_TBL_ADDR : Nat := 0x050100
def NTU_TBL_ADDR_GO : Fld := ⟨NTU_TBL_ADDR, 31, 1⟩
def NTU_TBL_ADDR_DONE : Fld := ⟨NTU_TBL_ADDR, 30, 1⟩
def NTU_TBL_ADDR_WRITE : Fld := ⟨NTU_TBL_ADDR, 29, 1⟩
def NTU_TBL_ADDR_TABLE : Fld := ⟨NTU_TBL_ADDR, 27, 2⟩
def NTU_TBL_ADDR_ERR : Fld := ⟨NTU_TBL_ADDR, 24, 3⟩
def NTU_TBL_ADDR_INDEX : Fld := ⟨NTU_TBL_ADDR, 0, 9⟩

/-- NTU_TBL_DATAn (R291). -/
def NTU_TBL_DATA (n : Nat) : Nat := 0x050104 + 4 * n
def NTU_TBL_DATA_DATA (n : Nat) : Fld := ⟨NTU_TBL_DATA n, 0, 32⟩

/-! Registers of spec/12_host_and_cipher.md. -/

/-- HST_PRIV (R316). -/
def HST_PRIV : Nat := 0x220000
def HST_PRIV_HOST_PRIV : Fld := ⟨HST_PRIV, 0, 1⟩

/-- HST_PCI_ID (R316). -/
def HST_PCI_ID : Nat := 0x220004
def HST_PCI_ID_DID : Fld := ⟨HST_PCI_ID, 16, 16⟩
def HST_PCI_ID_VID : Fld := ⟨HST_PCI_ID, 0, 16⟩

/-- HST_PCI_SUB (R316). -/
def HST_PCI_SUB : Nat := 0x220008
def HST_PCI_SUB_SSID : Fld := ⟨HST_PCI_SUB, 16, 16⟩
def HST_PCI_SUB_SSVID : Fld := ⟨HST_PCI_SUB, 0, 16⟩

/-- HST_LINK (R316). -/
def HST_LINK : Nat := 0x220010
def HST_LINK_L1 : Fld := ⟨HST_LINK, 7, 1⟩
def HST_LINK_REV : Fld := ⟨HST_LINK, 6, 1⟩
def HST_LINK_WIDTH : Fld := ⟨HST_LINK, 3, 3⟩
def HST_LINK_SPEED : Fld := ⟨HST_LINK, 1, 2⟩
def HST_LINK_DL_UP : Fld := ⟨HST_LINK, 0, 1⟩

/-- HST_ALARM (R316). -/
def HST_ALARM : Nat := 0x220020
def HST_ALARM_TDM_LATE : Fld := ⟨HST_ALARM, 3, 1⟩
def HST_ALARM_RING_ERR : Fld := ⟨HST_ALARM, 2, 1⟩
def HST_ALARM_FLR : Fld := ⟨HST_ALARM, 1, 1⟩
def HST_ALARM_LINK_DOWN : Fld := ⟨HST_ALARM, 0, 1⟩

/-- HST_ALARM_EN (R316). -/
def HST_ALARM_EN : Nat := 0x220024
def HST_ALARM_EN_EN : Fld := ⟨HST_ALARM_EN, 0, 4⟩

/-- HST_TDM_BASE (R316). -/
def HST_TDM_BASE_LO : Nat := 0x220040
def HST_TDM_BASE_LO_ADDR : Fld := ⟨HST_TDM_BASE_LO, 0, 32⟩

/-- HST_TDM_BASE (R316). -/
def HST_TDM_BASE_HI : Nat := 0x220044
def HST_TDM_BASE_HI_ADDR : Fld := ⟨HST_TDM_BASE_HI, 0, 32⟩

/-- HST_TDM_CFG (R316). -/
def HST_TDM_CFG : Nat := 0x220048
def HST_TDM_CFG_EN : Fld := ⟨HST_TDM_CFG, 31, 1⟩
def HST_TDM_CFG_DEPTH_LOG2 : Fld := ⟨HST_TDM_CFG, 0, 4⟩

/-- HST_TDM_FN (R316). -/
def HST_TDM_FN : Nat := 0x22004c
def HST_TDM_FN_FN : Fld := ⟨HST_TDM_FN, 0, 32⟩

/-- HST_TXRn_BASE (R316). -/
def HST_TXR_BASE_LO (n : Nat) : Nat := 0x220100 + 0x20 * n
def HST_TXR_BASE_LO_ADDR (n : Nat) : Fld := ⟨HST_TXR_BASE_LO n, 0, 32⟩

/-- HST_TXRn_BASE (R316). -/
def HST_TXR_BASE_HI (n : Nat) : Nat := 0x220104 + 0x20 * n
def HST_TXR_BASE_HI_ADDR (n : Nat) : Fld := ⟨HST_TXR_BASE_HI n, 0, 32⟩

/-- HST_TXRn_BASE (R316). -/
def HST_RXR_BASE_LO (n : Nat) : Nat := 0x220300 + 0x20 * n
def HST_RXR_BASE_LO_ADDR (n : Nat) : Fld := ⟨HST_RXR_BASE_LO n, 0, 32⟩

/-- HST_TXRn_BASE (R316). -/
def HST_RXR_BASE_HI (n : Nat) : Nat := 0x220304 + 0x20 * n
def HST_RXR_BASE_HI_ADDR (n : Nat) : Fld := ⟨HST_RXR_BASE_HI n, 0, 32⟩

/-- HST_TXRn_CFG (R316). -/
def HST_TXR_CFG (n : Nat) : Nat := 0x220108 + 0x20 * n
def HST_TXR_CFG_EN (n : Nat) : Fld := ⟨HST_TXR_CFG n, 31, 1⟩
def HST_TXR_CFG_MOD (n : Nat) : Fld := ⟨HST_TXR_CFG n, 16, 8⟩
def HST_TXR_CFG_VEC (n : Nat) : Fld := ⟨HST_TXR_CFG n, 8, 6⟩
def HST_TXR_CFG_SIZE_LOG2 (n : Nat) : Fld := ⟨HST_TXR_CFG n, 0, 5⟩

/-- HST_TXRn_CFG (R316). -/
def HST_RXR_CFG (n : Nat) : Nat := 0x220308 + 0x20 * n
def HST_RXR_CFG_EN (n : Nat) : Fld := ⟨HST_RXR_CFG n, 31, 1⟩
def HST_RXR_CFG_MOD (n : Nat) : Fld := ⟨HST_RXR_CFG n, 16, 8⟩
def HST_RXR_CFG_VEC (n : Nat) : Fld := ⟨HST_RXR_CFG n, 8, 6⟩
def HST_RXR_CFG_SIZE_LOG2 (n : Nat) : Fld := ⟨HST_RXR_CFG n, 0, 5⟩

/-- HST_TXRn_STATUS (R316). -/
def HST_TXR_STATUS (n : Nat) : Nat := 0x22010c + 0x20 * n
def HST_TXR_STATUS_ERR (n : Nat) : Fld := ⟨HST_TXR_STATUS n, 30, 2⟩
def HST_TXR_STATUS_CI (n : Nat) : Fld := ⟨HST_TXR_STATUS n, 0, 16⟩

/-- HST_TXRn_STATUS (R316). -/
def HST_RXR_STATUS (n : Nat) : Nat := 0x22030c + 0x20 * n
def HST_RXR_STATUS_ERR (n : Nat) : Fld := ⟨HST_RXR_STATUS n, 30, 2⟩
def HST_RXR_STATUS_CI (n : Nat) : Fld := ⟨HST_RXR_STATUS n, 0, 16⟩

/-- CPH_STATUS (R317). -/
def CPH_STATUS : Nat := 0x200010
def CPH_STATUS_HCS_FUSED : Fld := ⟨CPH_STATUS, 31, 1⟩
def CPH_STATUS_SCRATCH_KIB : Fld := ⟨CPH_STATUS, 0, 10⟩

/-- CPH_ALARM (R317). -/
def CPH_ALARM : Nat := 0x200020
def CPH_ALARM_Q_STOP : Fld := ⟨CPH_ALARM, 1, 1⟩
def CPH_ALARM_GCM_FAIL : Fld := ⟨CPH_ALARM, 0, 1⟩

/-- CPH_ALARM_EN (R317). -/
def CPH_ALARM_EN : Nat := 0x200024
def CPH_ALARM_EN_EN : Fld := ⟨CPH_ALARM_EN, 0, 2⟩

/-- CPH_Qn_BASE (R317). -/
def CPH_Q_BASE_LO (n : Nat) : Nat := 0x200100 + 0x20 * n
def CPH_Q_BASE_LO_ADDR (n : Nat) : Fld := ⟨CPH_Q_BASE_LO n, 0, 32⟩

/-- CPH_Qn_BASE (R317). -/
def CPH_Q_BASE_HI (n : Nat) : Nat := 0x200104 + 0x20 * n
def CPH_Q_BASE_HI_ADDR (n : Nat) : Fld := ⟨CPH_Q_BASE_HI n, 0, 32⟩

/-- CPH_Qn_CFG (R317). -/
def CPH_Q_CFG (n : Nat) : Nat := 0x200108 + 0x20 * n
def CPH_Q_CFG_EN (n : Nat) : Fld := ⟨CPH_Q_CFG n, 31, 1⟩
def CPH_Q_CFG_SLOT_LIM (n : Nat) : Fld := ⟨CPH_Q_CFG n, 30, 1⟩
def CPH_Q_CFG_MOD (n : Nat) : Fld := ⟨CPH_Q_CFG n, 24, 6⟩
def CPH_Q_CFG_WEIGHT (n : Nat) : Fld := ⟨CPH_Q_CFG n, 16, 4⟩
def CPH_Q_CFG_VEC (n : Nat) : Fld := ⟨CPH_Q_CFG n, 8, 6⟩
def CPH_Q_CFG_SIZE_LOG2 (n : Nat) : Fld := ⟨CPH_Q_CFG n, 0, 4⟩

/-- CPH_Qn_SLOTS (R317). -/
def CPH_Q_SLOTS (n : Nat) : Nat := 0x20010c + 0x20 * n
def CPH_Q_SLOTS_LAST (n : Nat) : Fld := ⟨CPH_Q_SLOTS n, 16, 10⟩
def CPH_Q_SLOTS_FIRST (n : Nat) : Fld := ⟨CPH_Q_SLOTS n, 0, 10⟩

/-- CPH_Qn_STATUS (R317). -/
def CPH_Q_STATUS (n : Nat) : Nat := 0x200110 + 0x20 * n
def CPH_Q_STATUS_ERR (n : Nat) : Fld := ⟨CPH_Q_STATUS n, 30, 2⟩
def CPH_Q_STATUS_CI (n : Nat) : Fld := ⟨CPH_Q_STATUS n, 0, 12⟩

/-- KEY_CMD (R317). -/
def KEY_CMD : Nat := 0x210000
def KEY_CMD_GO : Fld := ⟨KEY_CMD, 31, 1⟩
def KEY_CMD_DONE : Fld := ⟨KEY_CMD, 30, 1⟩
def KEY_CMD_ERR : Fld := ⟨KEY_CMD, 27, 3⟩
def KEY_CMD_OP : Fld := ⟨KEY_CMD, 24, 3⟩
def KEY_CMD_SLOT : Fld := ⟨KEY_CMD, 0, 10⟩

/-- KEY_BUF_IDX (R317). -/
def KEY_BUF_IDX : Nat := 0x210004
def KEY_BUF_IDX_WORD : Fld := ⟨KEY_BUF_IDX, 0, 6⟩

/-- KEY_BUF_DATA (R317). -/
def KEY_BUF_DATA : Nat := 0x210008
def KEY_BUF_DATA_DATA : Fld := ⟨KEY_BUF_DATA, 0, 32⟩

/-- KEY_INFO (R317). -/
def KEY_INFO : Nat := 0x21000c
def KEY_INFO_VALID : Fld := ⟨KEY_INFO, 31, 1⟩
def KEY_INFO_TYPE : Fld := ⟨KEY_INFO, 4, 2⟩
def KEY_INFO_USAGE : Fld := ⟨KEY_INFO, 0, 4⟩

/-- KEY_STATUS (R317). -/
def KEY_STATUS : Nat := 0x210010
def KEY_STATUS_XPUB_VALID : Fld := ⟨KEY_STATUS, 31, 1⟩
def KEY_STATUS_CAR_KEYS : Fld := ⟨KEY_STATUS, 11, 15⟩
def KEY_STATUS_HOST_KEYS : Fld := ⟨KEY_STATUS, 0, 11⟩

/-- KEY_IMPORT_CNT (R317). -/
def KEY_IMPORT_CNT : Nat := 0x210014
def KEY_IMPORT_CNT_COUNT : Fld := ⟨KEY_IMPORT_CNT, 0, 32⟩

/-- KEY_ALARM (R317). -/
def KEY_ALARM : Nat := 0x210020
def KEY_ALARM_CMD_ERR : Fld := ⟨KEY_ALARM, 1, 1⟩
def KEY_ALARM_SLOTS_LOST : Fld := ⟨KEY_ALARM, 0, 1⟩

/-- KEY_ALARM_EN (R317). -/
def KEY_ALARM_EN : Nat := 0x210024
def KEY_ALARM_EN_EN : Fld := ⟨KEY_ALARM_EN, 0, 2⟩

/-! Registers of spec/13_boot_and_configuration.md. -/

/-- CFG_STATUS (R341). -/
def CFG_STATUS : Nat := 0x010000
def CFG_STATUS_DEFAULTS : Fld := ⟨CFG_STATUS, 31, 1⟩
def CFG_STATUS_SRC : Fld := ⟨CFG_STATUS, 28, 2⟩
def CFG_STATUS_CSTATE : Fld := ⟨CFG_STATUS, 26, 2⟩
def CFG_STATUS_LAST : Fld := ⟨CFG_STATUS, 24, 2⟩
def CFG_STATUS_REASON : Fld := ⟨CFG_STATUS, 16, 8⟩
def CFG_STATUS_RECORD : Fld := ⟨CFG_STATUS, 0, 16⟩

/-- CFG_BOOT (R341). -/
def CFG_BOOT : Nat := 0x010004
def CFG_BOOT_READY : Fld := ⟨CFG_BOOT, 31, 1⟩
def CFG_BOOT_FW_A : Fld := ⟨CFG_BOOT, 24, 7⟩
def CFG_BOOT_FW_B : Fld := ⟨CFG_BOOT, 16, 8⟩
def CFG_BOOT_CFG_A : Fld := ⟨CFG_BOOT, 8, 8⟩
def CFG_BOOT_CFG_B : Fld := ⟨CFG_BOOT, 0, 8⟩

/-- CFG_FW_VER (R341). -/
def CFG_FW_VER : Nat := 0x010008
def CFG_FW_VER_VERSION : Fld := ⟨CFG_FW_VER, 0, 32⟩

/-- CFG_IMG_VER (R341). -/
def CFG_IMG_VER : Nat := 0x01000c
def CFG_IMG_VER_VERSION : Fld := ⟨CFG_IMG_VER, 0, 32⟩

/-- CFG_COMMIT (R341). -/
def CFG_COMMIT_LO : Nat := 0x010010
def CFG_COMMIT_LO_FN : Fld := ⟨CFG_COMMIT_LO, 0, 32⟩

/-- CFG_COMMIT (R341). -/
def CFG_COMMIT_HI : Nat := 0x010014
def CFG_COMMIT_HI_NEXT : Fld := ⟨CFG_COMMIT_HI, 31, 1⟩
def CFG_COMMIT_HI_FN : Fld := ⟨CFG_COMMIT_HI, 0, 16⟩

/-- CFG_CTRL (R341). -/
def CFG_CTRL : Nat := 0x010018
def CFG_CTRL_CANCEL : Fld := ⟨CFG_CTRL, 1, 1⟩
def CFG_CTRL_DISCARD : Fld := ⟨CFG_CTRL, 0, 1⟩

/-- CFG_STAGED (R341). -/
def CFG_STAGED : Nat := 0x01001c
def CFG_STAGED_COUNT : Fld := ⟨CFG_STAGED, 0, 32⟩

/-- CFG_OTP_STATUS (R341). -/
def CFG_OTP_STATUS : Nat := 0x010020
def CFG_OTP_STATUS_OTP_ERR : Fld := ⟨CFG_OTP_STATUS, 31, 1⟩
def CFG_OTP_STATUS_ROOTS_BOUND : Fld := ⟨CFG_OTP_STATUS, 30, 1⟩
def CFG_OTP_STATUS_LIFECYCLE : Fld := ⟨CFG_OTP_STATUS, 14, 2⟩
def CFG_OTP_STATUS_CFG_FLOOR : Fld := ⟨CFG_OTP_STATUS, 8, 6⟩
def CFG_OTP_STATUS_FW_FLOOR : Fld := ⟨CFG_OTP_STATUS, 0, 6⟩

/-- CFG_ROOT_BIND (R341). -/
def CFG_ROOT_BIND : Nat := 0x010024
def CFG_ROOT_BIND_GO : Fld := ⟨CFG_ROOT_BIND, 31, 1⟩
def CFG_ROOT_BIND_DONE : Fld := ⟨CFG_ROOT_BIND, 30, 1⟩
def CFG_ROOT_BIND_ERR : Fld := ⟨CFG_ROOT_BIND, 27, 3⟩

/-- CFG_SLOTS (R341). -/
def CFG_SLOTS : Nat := 0x010028
def CFG_SLOTS_FW_MAP : Fld := ⟨CFG_SLOTS, 5, 1⟩
def CFG_SLOTS_CFG_MAP : Fld := ⟨CFG_SLOTS, 4, 1⟩
def CFG_SLOTS_FW_SLOT : Fld := ⟨CFG_SLOTS, 0, 1⟩

/-- CFG_ALARM (R341). -/
def CFG_ALARM : Nat := 0x010030
def CFG_ALARM_OBJ : Fld := ⟨CFG_ALARM, 5, 1⟩
def CFG_ALARM_OTP_ERR : Fld := ⟨CFG_ALARM, 4, 1⟩
def CFG_ALARM_MAP_ERR : Fld := ⟨CFG_ALARM, 3, 1⟩
def CFG_ALARM_FALLBACK : Fld := ⟨CFG_ALARM, 2, 1⟩
def CFG_ALARM_MISSED : Fld := ⟨CFG_ALARM, 1, 1⟩
def CFG_ALARM_REFUSED : Fld := ⟨CFG_ALARM, 0, 1⟩

/-- CFG_ALARM_EN (R341). -/
def CFG_ALARM_EN : Nat := 0x010034
def CFG_ALARM_EN_EN : Fld := ⟨CFG_ALARM_EN, 0, 6⟩

/-- CFG_LAST_FN (R341). -/
def CFG_LAST_FN_LO : Nat := 0x010040
def CFG_LAST_FN_LO_FN : Fld := ⟨CFG_LAST_FN_LO, 0, 32⟩

/-- CFG_LAST_FN (R341). -/
def CFG_LAST_FN_HI : Nat := 0x010044
def CFG_LAST_FN_HI_FN : Fld := ⟨CFG_LAST_FN_HI, 0, 16⟩

/-- CFG_PENDn (R341). -/
def CFG_PEND_LO (n : Nat) : Nat := 0x010048 + 8 * n
def CFG_PEND_LO_FN (n : Nat) : Fld := ⟨CFG_PEND_LO n, 0, 32⟩

/-- CFG_PENDn (R341). -/
def CFG_PEND_HI (n : Nat) : Nat := 0x01004c + 8 * n
def CFG_PEND_HI_VALID (n : Nat) : Fld := ⟨CFG_PEND_HI n, 31, 1⟩
def CFG_PEND_HI_FN (n : Nat) : Fld := ⟨CFG_PEND_HI n, 0, 16⟩

/-- CFG_SAVE (R341). -/
def CFG_SAVE : Nat := 0x010060
def CFG_SAVE_PREPARE : Fld := ⟨CFG_SAVE, 31, 1⟩
def CFG_SAVE_STATE : Fld := ⟨CFG_SAVE, 28, 3⟩
def CFG_SAVE_ROLLBACK : Fld := ⟨CFG_SAVE, 0, 6⟩

/-- CFG_SAVE_VER (R341). -/
def CFG_SAVE_VER : Nat := 0x010064
def CFG_SAVE_VER_VERSION : Fld := ⟨CFG_SAVE_VER, 0, 32⟩

/-- CFG_SAVE_DIGESTn (R341). -/
def CFG_SAVE_DIGEST (n : Nat) : Nat := 0x010070 + 4 * n
def CFG_SAVE_DIGEST_D (n : Nat) : Fld := ⟨CFG_SAVE_DIGEST n, 0, 32⟩

/-- CFG_OBJ_CTRL (R341). -/
def CFG_OBJ_CTRL : Nat := 0x0100a0
def CFG_OBJ_CTRL_START : Fld := ⟨CFG_OBJ_CTRL, 31, 1⟩
def CFG_OBJ_CTRL_END : Fld := ⟨CFG_OBJ_CTRL, 30, 1⟩
def CFG_OBJ_CTRL_RESULT : Fld := ⟨CFG_OBJ_CTRL, 28, 2⟩
def CFG_OBJ_CTRL_TYPE : Fld := ⟨CFG_OBJ_CTRL, 0, 8⟩

/-- CFG_OBJ_SIZE (R341). -/
def CFG_OBJ_SIZE : Nat := 0x0100a4
def CFG_OBJ_SIZE_BYTES : Fld := ⟨CFG_OBJ_SIZE, 0, 24⟩

/-- CFG_OBJ_DATA (R341). -/
def CFG_OBJ_DATA : Nat := 0x0100a8
def CFG_OBJ_DATA_DATA : Fld := ⟨CFG_OBJ_DATA, 0, 32⟩

/-- NVM_STATUS (R342). -/
def NVM_STATUS : Nat := 0x240000
def NVM_STATUS_MODE : Fld := ⟨NVM_STATUS, 30, 2⟩
def NVM_STATUS_CS1_MIB : Fld := ⟨NVM_STATUS, 16, 14⟩
def NVM_STATUS_CS0_MIB : Fld := ⟨NVM_STATUS, 0, 14⟩

/-- NVM_ADDR (R342). -/
def NVM_ADDR : Nat := 0x240004
def NVM_ADDR_ADDR : Fld := ⟨NVM_ADDR, 0, 28⟩

/-- NVM_DATA (R342). -/
def NVM_DATA : Nat := 0x240008
def NVM_DATA_DATA : Fld := ⟨NVM_DATA, 0, 32⟩

/-- NVM_CMD (R342). -/
def NVM_CMD : Nat := 0x24000c
def NVM_CMD_GO : Fld := ⟨NVM_CMD, 31, 1⟩
def NVM_CMD_DONE : Fld := ⟨NVM_CMD, 30, 1⟩
def NVM_CMD_ERR : Fld := ⟨NVM_CMD, 27, 3⟩
def NVM_CMD_OP : Fld := ⟨NVM_CMD, 24, 3⟩

/-- NVM_PW_STATUS (R342). -/
def NVM_PW_STATUS : Nat := 0x240010
def NVM_PW_STATUS_WR_DROP : Fld := ⟨NVM_PW_STATUS, 1, 1⟩
def NVM_PW_STATUS_BUSY : Fld := ⟨NVM_PW_STATUS, 0, 1⟩

/-- NVM_ALARM (R342). -/
def NVM_ALARM : Nat := 0x240020
def NVM_ALARM_PROT : Fld := ⟨NVM_ALARM, 1, 1⟩
def NVM_ALARM_FAIL : Fld := ⟨NVM_ALARM, 0, 1⟩

/-- NVM_ALARM_EN (R342). -/
def NVM_ALARM_EN : Nat := 0x240024
def NVM_ALARM_EN_EN : Fld := ⟨NVM_ALARM_EN, 0, 2⟩

/-- MGT_CFG (R343). -/
def MGT_CFG : Nat := 0x250000
def MGT_CFG_MGT_PRIV : Fld := ⟨MGT_CFG, 0, 1⟩

/-- MGT_STATUS (R343). -/
def MGT_STATUS : Nat := 0x250004
def MGT_STATUS_VIOL : Fld := ⟨MGT_STATUS, 1, 1⟩
def MGT_STATUS_RECOVERY : Fld := ⟨MGT_STATUS, 0, 1⟩

/-- MGT_ALARM (R343). -/
def MGT_ALARM : Nat := 0x250010
def MGT_ALARM_VIOL : Fld := ⟨MGT_ALARM, 1, 1⟩
def MGT_ALARM_CMD_ERR : Fld := ⟨MGT_ALARM, 0, 1⟩

/-- MGT_ALARM_EN (R343). -/
def MGT_ALARM_EN : Nat := 0x250014
def MGT_ALARM_EN_EN : Fld := ⟨MGT_ALARM_EN, 0, 2⟩

/-- MBX_STATUSp (R344). -/
def MBX_STATUS (p : Nat) : Nat := 0x230000 + 4 * p
def MBX_STATUS_RUN (p : Nat) : Fld := ⟨MBX_STATUS p, 31, 1⟩
def MBX_STATUS_LOAD (p : Nat) : Fld := ⟨MBX_STATUS p, 16, 8⟩
def MBX_STATUS_BEAT (p : Nat) : Fld := ⟨MBX_STATUS p, 0, 16⟩

/-- MBX_PTP_STATUS (R344). -/
def MBX_PTP_STATUS : Nat := 0x230010
def MBX_PTP_STATUS_SENDING : Fld := ⟨MBX_PTP_STATUS, 0, 20⟩

/-- MBX_ALARM (R344). -/
def MBX_ALARM : Nat := 0x230020
def MBX_ALARM_REG_Q_FULL : Fld := ⟨MBX_ALARM, 2, 1⟩
def MBX_ALARM_LOG_COPY : Fld := ⟨MBX_ALARM, 1, 1⟩
def MBX_ALARM_PTP_STOP : Fld := ⟨MBX_ALARM, 0, 1⟩

/-- MBX_ALARM_EN (R344). -/
def MBX_ALARM_EN : Nat := 0x230024
def MBX_ALARM_EN_EN : Fld := ⟨MBX_ALARM_EN, 0, 3⟩

/-! Registers of spec/14_registers_and_counters.md. -/

/-- TOP_ACC_STATUS (R368). -/
def TOP_ACC_STATUS : Nat := 0x000200
def TOP_ACC_STATUS_LOCK_VIOL : Fld := ⟨TOP_ACC_STATUS, 2, 1⟩
def TOP_ACC_STATUS_ACC_OFF : Fld := ⟨TOP_ACC_STATUS, 1, 1⟩
def TOP_ACC_STATUS_ACC_VIOL : Fld := ⟨TOP_ACC_STATUS, 0, 1⟩

/-- TOP_ACC_EN (R368). -/
def TOP_ACC_EN : Nat := 0x000204
def TOP_ACC_EN_EN : Fld := ⟨TOP_ACC_EN, 0, 3⟩

/-- TOP_ACC_VIOL_COUNT (R368). -/
def TOP_ACC_VIOL_COUNT : Nat := 0x000208
def TOP_ACC_VIOL_COUNT_COUNT : Fld := ⟨TOP_ACC_VIOL_COUNT, 0, 32⟩

/-- TOP_ACC_VIOL_COUNT (R368). -/
def TOP_ACC_OFF_COUNT : Nat := 0x000210
def TOP_ACC_OFF_COUNT_COUNT : Fld := ⟨TOP_ACC_OFF_COUNT, 0, 32⟩

/-- TOP_ACC_VIOL_COUNT (R368). -/
def TOP_LOCK_VIOL_COUNT : Nat := 0x000218
def TOP_LOCK_VIOL_COUNT_COUNT : Fld := ⟨TOP_LOCK_VIOL_COUNT, 0, 32⟩

/-- TOP_ACC_VIOL_ADDR (R368). -/
def TOP_ACC_VIOL_ADDR : Nat := 0x00020c
def TOP_ACC_VIOL_ADDR_MASTER : Fld := ⟨TOP_ACC_VIOL_ADDR, 29, 3⟩
def TOP_ACC_VIOL_ADDR_WR : Fld := ⟨TOP_ACC_VIOL_ADDR, 28, 1⟩
def TOP_ACC_VIOL_ADDR_UVIEW : Fld := ⟨TOP_ACC_VIOL_ADDR, 27, 1⟩
def TOP_ACC_VIOL_ADDR_MARK : Fld := ⟨TOP_ACC_VIOL_ADDR, 25, 2⟩
def TOP_ACC_VIOL_ADDR_SHADOW : Fld := ⟨TOP_ACC_VIOL_ADDR, 24, 1⟩
def TOP_ACC_VIOL_ADDR_ADDR : Fld := ⟨TOP_ACC_VIOL_ADDR, 0, 24⟩

/-- TOP_ACC_VIOL_ADDR (R368). -/
def TOP_ACC_OFF_ADDR : Nat := 0x000214
def TOP_ACC_OFF_ADDR_MASTER : Fld := ⟨TOP_ACC_OFF_ADDR, 29, 3⟩
def TOP_ACC_OFF_ADDR_WR : Fld := ⟨TOP_ACC_OFF_ADDR, 28, 1⟩
def TOP_ACC_OFF_ADDR_UVIEW : Fld := ⟨TOP_ACC_OFF_ADDR, 27, 1⟩
def TOP_ACC_OFF_ADDR_MARK : Fld := ⟨TOP_ACC_OFF_ADDR, 25, 2⟩
def TOP_ACC_OFF_ADDR_SHADOW : Fld := ⟨TOP_ACC_OFF_ADDR, 24, 1⟩
def TOP_ACC_OFF_ADDR_ADDR : Fld := ⟨TOP_ACC_OFF_ADDR, 0, 24⟩

/-- TOP_ACC_VIOL_ADDR (R368). -/
def TOP_LOCK_VIOL_ADDR : Nat := 0x00021c
def TOP_LOCK_VIOL_ADDR_MASTER : Fld := ⟨TOP_LOCK_VIOL_ADDR, 29, 3⟩
def TOP_LOCK_VIOL_ADDR_WR : Fld := ⟨TOP_LOCK_VIOL_ADDR, 28, 1⟩
def TOP_LOCK_VIOL_ADDR_UVIEW : Fld := ⟨TOP_LOCK_VIOL_ADDR, 27, 1⟩
def TOP_LOCK_VIOL_ADDR_MARK : Fld := ⟨TOP_LOCK_VIOL_ADDR, 25, 2⟩
def TOP_LOCK_VIOL_ADDR_SHADOW : Fld := ⟨TOP_LOCK_VIOL_ADDR, 24, 1⟩
def TOP_LOCK_VIOL_ADDR_ADDR : Fld := ⟨TOP_LOCK_VIOL_ADDR, 0, 24⟩

/-- TOP_LOCK (R368). -/
def TOP_LOCK : Nat := 0x000220
def TOP_LOCK_LOCK : Fld := ⟨TOP_LOCK, 0, 5⟩

/-- TAL_Gg_CTLc (R369). -/
def TAL_G_CTL (g : Nat) (c : Nat) : Nat := 0x060000 + 0x400 * g + 4 * c
def TAL_G_CTL_EN (g : Nat) (c : Nat) : Fld := ⟨TAL_G_CTL g c, 31, 1⟩
def TAL_G_CTL_SMP_EN (g : Nat) (c : Nat) : Fld := ⟨TAL_G_CTL g c, 30, 1⟩
def TAL_G_CTL_MODE (g : Nat) (c : Nat) : Fld := ⟨TAL_G_CTL g c, 24, 3⟩
def TAL_G_CTL_SEL (g : Nat) (c : Nat) : Fld := ⟨TAL_G_CTL g c, 8, 13⟩
def TAL_G_CTL_EVENT (g : Nat) (c : Nat) : Fld := ⟨TAL_G_CTL g c, 0, 8⟩

/-- TAL_Gg_THRc (R369). -/
def TAL_G_THR (g : Nat) (c : Nat) : Nat := 0x060020 + 0x400 * g + 4 * c
def TAL_G_THR_THR (g : Nat) (c : Nat) : Fld := ⟨TAL_G_THR g c, 0, 20⟩

/-- TAL_Gg_CNTc (R369). -/
def TAL_G_CNT_LO (g : Nat) (c : Nat) : Nat := 0x060040 + 0x400 * g + 8 * c
def TAL_G_CNT_LO_COUNT (g : Nat) (c : Nat) : Fld := ⟨TAL_G_CNT_LO g c, 0, 32⟩

/-- TAL_Gg_CNTc (R369). -/
def TAL_G_CNT_HI (g : Nat) (c : Nat) : Nat := 0x060044 + 0x400 * g + 8 * c
def TAL_G_CNT_HI_COUNT (g : Nat) (c : Nat) : Fld := ⟨TAL_G_CNT_HI g c, 0, 32⟩

/-- TAL_Gg_CYC (R369). -/
def TAL_G_CYC_LO (g : Nat) : Nat := 0x060080 + 0x400 * g
def TAL_G_CYC_LO_COUNT (g : Nat) : Fld := ⟨TAL_G_CYC_LO g, 0, 32⟩

/-- TAL_Gg_CYC (R369). -/
def TAL_G_CYC_HI (g : Nat) : Nat := 0x060084 + 0x400 * g
def TAL_G_CYC_HI_COUNT (g : Nat) : Fld := ⟨TAL_G_CYC_HI g, 0, 32⟩

/-- TAL_Gg_CFG (R369). -/
def TAL_G_CFG (g : Nat) : Nat := 0x060088 + 0x400 * g
def TAL_G_CFG_GEN (g : Nat) : Fld := ⟨TAL_G_CFG g, 0, 1⟩

/-- TAL_Gg_OVF (R369). -/
def TAL_G_OVF (g : Nat) : Nat := 0x060090 + 0x400 * g
def TAL_G_OVF_CYC (g : Nat) : Fld := ⟨TAL_G_OVF g, 8, 1⟩
def TAL_G_OVF_CNT (g : Nat) : Fld := ⟨TAL_G_OVF g, 0, 8⟩

/-- TAL_Gg_OVF_EN (R369). -/
def TAL_G_OVF_EN (g : Nat) : Nat := 0x060094 + 0x400 * g
def TAL_G_OVF_EN_EN (g : Nat) : Fld := ⟨TAL_G_OVF_EN g, 0, 9⟩

/-- TAL_CTRL (R369). -/
def TAL_CTRL : Nat := 0x066000
def TAL_CTRL_RELEASE : Fld := ⟨TAL_CTRL, 2, 1⟩
def TAL_CTRL_FREEZE : Fld := ⟨TAL_CTRL, 1, 1⟩
def TAL_CTRL_SNAP : Fld := ⟨TAL_CTRL, 0, 1⟩

/-- TAL_STATUS (R369). -/
def TAL_STATUS : Nat := 0x066004
def TAL_STATUS_FROZEN : Fld := ⟨TAL_STATUS, 31, 1⟩
def TAL_STATUS_SMP_COUNT : Fld := ⟨TAL_STATUS, 0, 5⟩

/-- TAL_CFG (R369). -/
def TAL_CFG : Nat := 0x066008
def TAL_CFG_TAL_USER_EN : Fld := ⟨TAL_CFG, 0, 1⟩

/-- TAL_SNAP_VIEW (R369). -/
def TAL_SNAP_VIEW : Nat := 0x066010
def TAL_SNAP_VIEW_VIEW : Fld := ⟨TAL_SNAP_VIEW, 0, 1⟩

/-- TAL_SNAP_VALIDn (R369). -/
def TAL_SNAP_VALID (n : Nat) : Nat := 0x066014 + 4 * n
def TAL_SNAP_VALID_VALID (n : Nat) : Fld := ⟨TAL_SNAP_VALID n, 0, 32⟩

/-- TAL_SNAP_FN (R369). -/
def TAL_SNAP_FN_LO : Nat := 0x066028
def TAL_SNAP_FN_LO_FN : Fld := ⟨TAL_SNAP_FN_LO, 0, 32⟩

/-- TAL_SNAP_FN (R369). -/
def TAL_SNAP_FN_HI : Nat := 0x06602c
def TAL_SNAP_FN_HI_FN : Fld := ⟨TAL_SNAP_FN_HI, 0, 16⟩

/-- TAL_SNAP_CIF (R369). -/
def TAL_SNAP_CIF : Nat := 0x066020
def TAL_SNAP_CIF_CIF : Fld := ⟨TAL_SNAP_CIF, 0, 18⟩

/-- TAL_SMP_W0 (R369). -/
def TAL_SMP_W0 : Nat := 0x066030
def TAL_SMP_W0_VALID : Fld := ⟨TAL_SMP_W0, 31, 1⟩
def TAL_SMP_W0_GAP : Fld := ⟨TAL_SMP_W0, 30, 1⟩
def TAL_SMP_W0_GROUP : Fld := ⟨TAL_SMP_W0, 24, 5⟩
def TAL_SMP_W0_CNT : Fld := ⟨TAL_SMP_W0, 20, 3⟩
def TAL_SMP_W0_SKID : Fld := ⟨TAL_SMP_W0, 16, 3⟩
def TAL_SMP_W0_LEN : Fld := ⟨TAL_SMP_W0, 0, 14⟩

/-- TAL_SMP_W1 (R369). -/
def TAL_SMP_W1 : Nat := 0x066034
def TAL_SMP_W1_FLOW : Fld := ⟨TAL_SMP_W1, 16, 12⟩
def TAL_SMP_W1_QUEUE : Fld := ⟨TAL_SMP_W1, 0, 13⟩

/-- TAL_SMP_W2 (R369). -/
def TAL_SMP_W2 : Nat := 0x066038
def TAL_SMP_W2_PORT : Fld := ⟨TAL_SMP_W2, 24, 8⟩
def TAL_SMP_W2_EGRESS : Fld := ⟨TAL_SMP_W2, 23, 1⟩
def TAL_SMP_W2_CIF : Fld := ⟨TAL_SMP_W2, 0, 18⟩

/-- TAL_SMP_W3 (R369). -/
def TAL_SMP_W3 : Nat := 0x06603c
def TAL_SMP_W3_FN : Fld := ⟨TAL_SMP_W3, 0, 32⟩

/-- TAL_ALARM (R369). -/
def TAL_ALARM : Nat := 0x066040
def TAL_ALARM_BW_WIN : Fld := ⟨TAL_ALARM, 3, 1⟩
def TAL_ALARM_SMP_LOST : Fld := ⟨TAL_ALARM, 2, 1⟩
def TAL_ALARM_SMP : Fld := ⟨TAL_ALARM, 1, 1⟩
def TAL_ALARM_SNAP : Fld := ⟨TAL_ALARM, 0, 1⟩

/-- TAL_ALARM_EN (R369). -/
def TAL_ALARM_EN : Nat := 0x066044
def TAL_ALARM_EN_EN : Fld := ⟨TAL_ALARM_EN, 0, 4⟩

/-- TAL_BW_CFG (R369). -/
def TAL_BW_CFG : Nat := 0x066080
def TAL_BW_CFG_EN : Fld := ⟨TAL_BW_CFG, 31, 1⟩
def TAL_BW_CFG_WIN : Fld := ⟨TAL_BW_CFG, 0, 13⟩

/-- TAL_BW_SEQ (R369). -/
def TAL_BW_SEQ : Nat := 0x066084
def TAL_BW_SEQ_SEQ : Fld := ⟨TAL_BW_SEQ, 0, 32⟩

/-- TAL_BW_RATEp (R369). -/
def TAL_BW_RATE (p : Nat) : Nat := 0x070000 + 8 * p
def TAL_BW_RATE_RATE (p : Nat) : Fld := ⟨TAL_BW_RATE p, 0, 27⟩

/-- TAL_BW_FRAMESp (R369). -/
def TAL_BW_FRAMES (p : Nat) : Nat := 0x070004 + 8 * p
def TAL_BW_FRAMES_FRAMES (p : Nat) : Fld := ⟨TAL_BW_FRAMES p, 0, 32⟩

/-! Registers of spec/15_power_domains.md. -/

/-- PWR_DOMn (R385). -/
def PWR_DOM (n : Nat) : Nat := 0x020000 + 4 * n
def PWR_DOM_STATE (n : Nat) : Fld := ⟨PWR_DOM n, 0, 2⟩

/-- PWR_STATEn (R385). -/
def PWR_STATE (n : Nat) : Nat := 0x020100 + 4 * n
def PWR_STATE_FAIL_STEP (n : Nat) : Fld := ⟨PWR_STATE n, 24, 4⟩
def PWR_STATE_RESULT (n : Nat) : Fld := ⟨PWR_STATE n, 16, 4⟩
def PWR_STATE_QUEUED (n : Nat) : Fld := ⟨PWR_STATE n, 7, 1⟩
def PWR_STATE_HELD (n : Nat) : Fld := ⟨PWR_STATE n, 6, 1⟩
def PWR_STATE_PHASE (n : Nat) : Fld := ⟨PWR_STATE n, 2, 4⟩
def PWR_STATE_PRESENT (n : Nat) : Fld := ⟨PWR_STATE n, 0, 2⟩

/-- PWR_REQ (R385). -/
def PWR_REQ : Nat := 0x020200
def PWR_REQ_GO : Fld := ⟨PWR_REQ, 31, 1⟩
def PWR_REQ_KIND : Fld := ⟨PWR_REQ, 27, 2⟩
def PWR_REQ_GROUP : Fld := ⟨PWR_REQ, 24, 3⟩
def PWR_REQ_TARGET : Fld := ⟨PWR_REQ, 8, 2⟩
def PWR_REQ_DOMAIN : Fld := ⟨PWR_REQ, 0, 6⟩

/-- PWR_REQ_STATUS (R385). -/
def PWR_REQ_STATUS : Nat := 0x020204
def PWR_REQ_STATUS_DONE : Fld := ⟨PWR_REQ_STATUS, 31, 1⟩
def PWR_REQ_STATUS_RESULT : Fld := ⟨PWR_REQ_STATUS, 16, 4⟩
def PWR_REQ_STATUS_DOMAIN : Fld := ⟨PWR_REQ_STATUS, 0, 6⟩

/-- PWR_WOKEn (R385). -/
def PWR_WOKE (n : Nat) : Nat := 0x020210 + 4 * n
def PWR_WOKE_WOKE (n : Nat) : Fld := ⟨PWR_WOKE n, 0, 32⟩

/-- PWR_FAILn (R385). -/
def PWR_FAIL (n : Nat) : Nat := 0x020218 + 4 * n
def PWR_FAIL_FAIL (n : Nat) : Fld := ⟨PWR_FAIL n, 0, 32⟩

/-- PWR_ALARM (R385). -/
def PWR_ALARM : Nat := 0x020220
def PWR_ALARM_WAKE_EVT : Fld := ⟨PWR_ALARM, 5, 1⟩
def PWR_ALARM_DEP : Fld := ⟨PWR_ALARM, 4, 1⟩
def PWR_ALARM_IN_USE : Fld := ⟨PWR_ALARM, 3, 1⟩
def PWR_ALARM_DRAIN_TIMEOUT : Fld := ⟨PWR_ALARM, 2, 1⟩
def PWR_ALARM_PWR_FAIL : Fld := ⟨PWR_ALARM, 1, 1⟩
def PWR_ALARM_WOKE : Fld := ⟨PWR_ALARM, 0, 1⟩

/-- PWR_ALARM_EN (R385). -/
def PWR_ALARM_EN : Nat := 0x020224
def PWR_ALARM_EN_EN : Fld := ⟨PWR_ALARM_EN, 0, 6⟩

/-- PWR_LISTEN (R385). -/
def PWR_LISTEN : Nat := 0x020230
def PWR_LISTEN_GROUPS : Fld := ⟨PWR_LISTEN, 0, 5⟩

/-- PWR_WAKE_CFGm (R385). -/
def PWR_WAKE_CFG (m : Nat) : Nat := 0x020240 + 4 * m
def PWR_WAKE_CFG_ACT0 (m : Nat) : Fld := ⟨PWR_WAKE_CFG m, 0, 2⟩
def PWR_WAKE_CFG_ACT1 (m : Nat) : Fld := ⟨PWR_WAKE_CFG m, 2, 2⟩
def PWR_WAKE_CFG_ACT2 (m : Nat) : Fld := ⟨PWR_WAKE_CFG m, 4, 2⟩
def PWR_WAKE_CFG_ACT3 (m : Nat) : Fld := ⟨PWR_WAKE_CFG m, 6, 2⟩
def PWR_WAKE_CFG_ACT4 (m : Nat) : Fld := ⟨PWR_WAKE_CFG m, 8, 2⟩
def PWR_WAKE_CFG_ACT5 (m : Nat) : Fld := ⟨PWR_WAKE_CFG m, 10, 2⟩
def PWR_WAKE_CFG_ACT6 (m : Nat) : Fld := ⟨PWR_WAKE_CFG m, 12, 2⟩
def PWR_WAKE_CFG_ACT7 (m : Nat) : Fld := ⟨PWR_WAKE_CFG m, 14, 2⟩
def PWR_WAKE_CFG_ACT8 (m : Nat) : Fld := ⟨PWR_WAKE_CFG m, 16, 2⟩
def PWR_WAKE_CFG_ACT9 (m : Nat) : Fld := ⟨PWR_WAKE_CFG m, 18, 2⟩
def PWR_WAKE_CFG_ACT10 (m : Nat) : Fld := ⟨PWR_WAKE_CFG m, 20, 2⟩
def PWR_WAKE_CFG_ACT11 (m : Nat) : Fld := ⟨PWR_WAKE_CFG m, 22, 2⟩
def PWR_WAKE_CFG_ACT12 (m : Nat) : Fld := ⟨PWR_WAKE_CFG m, 24, 2⟩
def PWR_WAKE_CFG_ACT13 (m : Nat) : Fld := ⟨PWR_WAKE_CFG m, 26, 2⟩
def PWR_WAKE_CFG_ACT14 (m : Nat) : Fld := ⟨PWR_WAKE_CFG m, 28, 2⟩
def PWR_WAKE_CFG_ACT15 (m : Nat) : Fld := ⟨PWR_WAKE_CFG m, 30, 2⟩

/-- PWR_WAKE_LAST (R385). -/
def PWR_WAKE_LAST : Nat := 0x020248
def PWR_WAKE_LAST_VALID : Fld := ⟨PWR_WAKE_LAST, 31, 1⟩
def PWR_WAKE_LAST_SOURCE : Fld := ⟨PWR_WAKE_LAST, 0, 5⟩

/-- PWR_PW_STATUS (R385). -/
def PWR_PW_STATUS : Nat := 0x020250
def PWR_PW_STATUS_WR_DROP : Fld := ⟨PWR_PW_STATUS, 1, 1⟩
def PWR_PW_STATUS_BUSY : Fld := ⟨PWR_PW_STATUS, 0, 1⟩

/-- CLK_GATE (R386). -/
def CLK_GATE : Nat := 0x030000
def CLK_GATE_GATE : Fld := ⟨CLK_GATE, 3, 22⟩

/-- CLK_RUN (R386). -/
def CLK_RUN : Nat := 0x030010
def CLK_RUN_RUN : Fld := ⟨CLK_RUN, 0, 25⟩

/-- CLK_STATUS (R386). -/
def CLK_STATUS : Nat := 0x030014
def CLK_STATUS_PCIE_REFCLK_OK : Fld := ⟨CLK_STATUS, 6, 1⟩
def CLK_STATUS_HOLD_OSC_OK : Fld := ⟨CLK_STATUS, 5, 1⟩
def CLK_STATUS_REFCLK_OK : Fld := ⟨CLK_STATUS, 4, 1⟩
def CLK_STATUS_PLL_LOCK : Fld := ⟨CLK_STATUS, 3, 1⟩
def CLK_STATUS_CORE_SRC : Fld := ⟨CLK_STATUS, 0, 3⟩

/-- CLK_ALARM (R386). -/
def CLK_ALARM : Nat := 0x030020
def CLK_ALARM_SRC_CHG : Fld := ⟨CLK_ALARM, 4, 1⟩
def CLK_ALARM_PLL_UNLOCK : Fld := ⟨CLK_ALARM, 3, 1⟩
def CLK_ALARM_PCIE_REFCLK_LOSS : Fld := ⟨CLK_ALARM, 2, 1⟩
def CLK_ALARM_HOLD_OSC_LOSS : Fld := ⟨CLK_ALARM, 1, 1⟩
def CLK_ALARM_REFCLK_LOSS : Fld := ⟨CLK_ALARM, 0, 1⟩

/-- CLK_ALARM_EN (R386). -/
def CLK_ALARM_EN : Nat := 0x030024
def CLK_ALARM_EN_EN : Fld := ⟨CLK_ALARM_EN, 0, 5⟩

/-! Registers of spec/16_integrity.md. -/

/-- ITM_FAULT_STATUS (R405). -/
def ITM_FAULT_STATUS : Nat := 0x040000
def ITM_FAULT_STATUS_CLASS : Fld := ⟨ITM_FAULT_STATUS, 0, 18⟩

/-- ITM_FAULT_ACTIVE (R405). -/
def ITM_FAULT_ACTIVE : Nat := 0x040004
def ITM_FAULT_ACTIVE_CLASS : Fld := ⟨ITM_FAULT_ACTIVE, 0, 18⟩

/-- ITM_REACTm (R405). -/
def ITM_REACT (m : Nat) : Nat := 0x040010 + 4 * m
def ITM_REACT_ACT0 (m : Nat) : Fld := ⟨ITM_REACT m, 0, 2⟩
def ITM_REACT_ACT1 (m : Nat) : Fld := ⟨ITM_REACT m, 2, 2⟩
def ITM_REACT_ACT2 (m : Nat) : Fld := ⟨ITM_REACT m, 4, 2⟩
def ITM_REACT_ACT3 (m : Nat) : Fld := ⟨ITM_REACT m, 6, 2⟩
def ITM_REACT_ACT4 (m : Nat) : Fld := ⟨ITM_REACT m, 8, 2⟩
def ITM_REACT_ACT5 (m : Nat) : Fld := ⟨ITM_REACT m, 10, 2⟩
def ITM_REACT_ACT6 (m : Nat) : Fld := ⟨ITM_REACT m, 12, 2⟩
def ITM_REACT_ACT7 (m : Nat) : Fld := ⟨ITM_REACT m, 14, 2⟩
def ITM_REACT_ACT8 (m : Nat) : Fld := ⟨ITM_REACT m, 16, 2⟩
def ITM_REACT_ACT9 (m : Nat) : Fld := ⟨ITM_REACT m, 18, 2⟩
def ITM_REACT_ACT10 (m : Nat) : Fld := ⟨ITM_REACT m, 20, 2⟩
def ITM_REACT_ACT11 (m : Nat) : Fld := ⟨ITM_REACT m, 22, 2⟩
def ITM_REACT_ACT12 (m : Nat) : Fld := ⟨ITM_REACT m, 24, 2⟩
def ITM_REACT_ACT13 (m : Nat) : Fld := ⟨ITM_REACT m, 26, 2⟩
def ITM_REACT_ACT14 (m : Nat) : Fld := ⟨ITM_REACT m, 28, 2⟩
def ITM_REACT_ACT15 (m : Nat) : Fld := ⟨ITM_REACT m, 30, 2⟩

/-- ITM_SAFE (R405). -/
def ITM_SAFE : Nat := 0x040020
def ITM_SAFE_EXIT : Fld := ⟨ITM_SAFE, 31, 1⟩
def ITM_SAFE_EXIT_REF : Fld := ⟨ITM_SAFE, 30, 1⟩
def ITM_SAFE_CLASS : Fld := ⟨ITM_SAFE, 1, 5⟩
def ITM_SAFE_ACTIVE : Fld := ⟨ITM_SAFE, 0, 1⟩

/-- ITM_STEST_CFG (R405). -/
def ITM_STEST_CFG : Nat := 0x040030
def ITM_STEST_CFG_PERIOD : Fld := ⟨ITM_STEST_CFG, 0, 11⟩

/-- ITM_BIST_STATUS (R405). -/
def ITM_BIST_STATUS : Nat := 0x040038
def ITM_BIST_STATUS_PASS : Fld := ⟨ITM_BIST_STATUS, 31, 1⟩
def ITM_BIST_STATUS_PORTER : Fld := ⟨ITM_BIST_STATUS, 3, 1⟩
def ITM_BIST_STATUS_INJECT : Fld := ⟨ITM_BIST_STATUS, 2, 1⟩
def ITM_BIST_STATUS_MBIST : Fld := ⟨ITM_BIST_STATUS, 1, 1⟩
def ITM_BIST_STATUS_LBIST : Fld := ⟨ITM_BIST_STATUS, 0, 1⟩

/-- ITM_TEMPn (R405). -/
def ITM_TEMP (n : Nat) : Nat := 0x040040 + 4 * n
def ITM_TEMP_TJ (n : Nat) : Fld := ⟨ITM_TEMP n, 0, 9⟩

/-- ITM_TEMP_THR (R405). -/
def ITM_TEMP_THR : Nat := 0x040050
def ITM_TEMP_THR_CRIT : Fld := ⟨ITM_TEMP_THR, 16, 8⟩
def ITM_TEMP_THR_WARN : Fld := ⟨ITM_TEMP_THR, 0, 8⟩

/-- ITM_VMON_STATUS (R405). -/
def ITM_VMON_STATUS : Nat := 0x040054
def ITM_VMON_STATUS_TWARN : Fld := ⟨ITM_VMON_STATUS, 31, 1⟩
def ITM_VMON_STATUS_RAIL : Fld := ⟨ITM_VMON_STATUS, 0, 9⟩

/-- ITM_CMON_STATUS (R405). -/
def ITM_CMON_STATUS : Nat := 0x040058
def ITM_CMON_STATUS_FAIL : Fld := ⟨ITM_CMON_STATUS, 0, 25⟩

/-- ITM_WDOG_KICK (R405). -/
def ITM_WDOG_KICK : Nat := 0x040060
def ITM_WDOG_KICK_PAIR : Fld := ⟨ITM_WDOG_KICK, 0, 2⟩

/-- ITM_LOG_ADDR (R405). -/
def ITM_LOG_ADDR : Nat := 0x040080
def ITM_LOG_ADDR_GO : Fld := ⟨ITM_LOG_ADDR, 31, 1⟩
def ITM_LOG_ADDR_DONE : Fld := ⟨ITM_LOG_ADDR, 30, 1⟩
def ITM_LOG_ADDR_INDEX : Fld := ⟨ITM_LOG_ADDR, 0, 8⟩

/-- ITM_LOG_DATAn (R405). -/
def ITM_LOG_DATA (n : Nat) : Nat := 0x040084 + 4 * n
def ITM_LOG_DATA_DATA (n : Nat) : Fld := ⟨ITM_LOG_DATA n, 0, 32⟩

/-- ITM_LOG_STATUS (R405). -/
def ITM_LOG_STATUS : Nat := 0x040094
def ITM_LOG_STATUS_NEXT : Fld := ⟨ITM_LOG_STATUS, 24, 8⟩
def ITM_LOG_STATUS_UNCOPIED : Fld := ⟨ITM_LOG_STATUS, 8, 9⟩

/-- ITM_RST_CAUSE (R405). -/
def ITM_RST_CAUSE : Nat := 0x040100
def ITM_RST_CAUSE_VALID : Fld := ⟨ITM_RST_CAUSE, 31, 1⟩
def ITM_RST_CAUSE_STORM : Fld := ⟨ITM_RST_CAUSE, 30, 1⟩
def ITM_RST_CAUSE_CLASS : Fld := ⟨ITM_RST_CAUSE, 8, 5⟩
def ITM_RST_CAUSE_RST_MAX : Fld := ⟨ITM_RST_CAUSE, 4, 4⟩
def ITM_RST_CAUSE_COUNT : Fld := ⟨ITM_RST_CAUSE, 0, 4⟩

/-- ITM_PTRx_STATUS (R405). -/
def ITM_PTR_STATUS (x : Line) : Nat := 0x040110 + 0x20 * x.idx
def ITM_PTR_STATUS_COUNT (x : Line) : Fld := ⟨ITM_PTR_STATUS x, 28, 4⟩
def ITM_PTR_STATUS_CLR_REF (x : Line) : Fld := ⟨ITM_PTR_STATUS x, 27, 1⟩
def ITM_PTR_STATUS_HELD (x : Line) : Fld := ⟨ITM_PTR_STATUS x, 26, 1⟩
def ITM_PTR_STATUS_KIND (x : Line) : Fld := ⟨ITM_PTR_STATUS x, 0, 6⟩

/-- ITM_PTRx_CTRL (R405). -/
def ITM_PTR_CTRL (x : Line) : Nat := 0x040114 + 0x20 * x.idx
def ITM_PTR_CTRL_CLR (x : Line) : Fld := ⟨ITM_PTR_CTRL x, 0, 1⟩

/-- ITM_PTRx_CFG (R405). -/
def ITM_PTR_CFG (x : Line) : Nat := 0x040118 + 0x20 * x.idx
def ITM_PTR_CFG_MAX (x : Line) : Fld := ⟨ITM_PTR_CFG x, 0, 4⟩

/-! Registers of spec/17_pins_and_electrical.md. -/

/-- TOP_PINMUX (R431). -/
def TOP_PINMUX : Nat := 0x000300
def TOP_PINMUX_PPS_GPIO : Fld := ⟨TOP_PINMUX, 6, 1⟩
def TOP_PINMUX_NVM_GPIO : Fld := ⟨TOP_PINMUX, 5, 1⟩
def TOP_PINMUX_TRIB_GPIO : Fld := ⟨TOP_PINMUX, 0, 4⟩

/-- TOP_GPIO_DIR (R431). -/
def TOP_GPIO_DIR : Nat := 0x000310
def TOP_GPIO_DIR_DIR : Fld := ⟨TOP_GPIO_DIR, 0, 21⟩

/-- TOP_GPIO_OUT (R431). -/
def TOP_GPIO_OUT : Nat := 0x000314
def TOP_GPIO_OUT_OUT : Fld := ⟨TOP_GPIO_OUT, 0, 21⟩

/-- TOP_GPIO_IN (R431). -/
def TOP_GPIO_IN : Nat := 0x000318
def TOP_GPIO_IN_IN : Fld := ⟨TOP_GPIO_IN, 0, 21⟩

/-- TOP_I2Cm_CFG (R431). -/
def TOP_I2C_CFG (m : Nat) : Nat := 0x000400 + 0x10 * m
def TOP_I2C_CFG_SPEED (m : Nat) : Fld := ⟨TOP_I2C_CFG m, 0, 2⟩

/-- TOP_I2Cm_CMD (R431). -/
def TOP_I2C_CMD (m : Nat) : Nat := 0x000404 + 0x10 * m
def TOP_I2C_CMD_GO (m : Nat) : Fld := ⟨TOP_I2C_CMD m, 31, 1⟩
def TOP_I2C_CMD_DONE (m : Nat) : Fld := ⟨TOP_I2C_CMD m, 30, 1⟩
def TOP_I2C_CMD_ERR (m : Nat) : Fld := ⟨TOP_I2C_CMD m, 28, 2⟩
def TOP_I2C_CMD_RD (m : Nat) : Fld := ⟨TOP_I2C_CMD m, 27, 1⟩
def TOP_I2C_CMD_LEN (m : Nat) : Fld := ⟨TOP_I2C_CMD m, 24, 3⟩
def TOP_I2C_CMD_DEV (m : Nat) : Fld := ⟨TOP_I2C_CMD m, 16, 7⟩
def TOP_I2C_CMD_REG (m : Nat) : Fld := ⟨TOP_I2C_CMD m, 0, 8⟩

/-- TOP_I2Cm_DATA (R431). -/
def TOP_I2C_DATA (m : Nat) : Nat := 0x000408 + 0x10 * m
def TOP_I2C_DATA_DATA (m : Nat) : Fld := ⟨TOP_I2C_DATA m, 0, 32⟩

/-! Counters: the address of the LO word of each pair. -/

/-- LNx_CORR_SYM of spec/02_access_line_physical.md (R55). -/
def N_LNx_CORR_SYM (x : Line) : Nat := 0x080100 + 0x20000 * x.idx
/-- LNx_CORR_CW of spec/02_access_line_physical.md (R55). -/
def N_LNx_CORR_CW (x : Line) : Nat := 0x080108 + 0x20000 * x.idx
/-- LNx_UCW of spec/02_access_line_physical.md (R55). -/
def N_LNx_UCW (x : Line) : Nat := 0x080110 + 0x20000 * x.idx
/-- LNx_CORR_BITS of spec/02_access_line_physical.md (R55). -/
def N_LNx_CORR_BITS (x : Line) : Nat := 0x080118 + 0x20000 * x.idx
/-- LNx_ERR_FRAMES of spec/02_access_line_physical.md (R55). -/
def N_LNx_ERR_FRAMES (x : Line) : Nat := 0x080120 + 0x20000 * x.idx
/-- LNx_SLACK_OVR of spec/02_access_line_physical.md (R55). -/
def N_LNx_SLACK_OVR (x : Line) : Nat := 0x080128 + 0x20000 * x.idx
/-- LNx_STUFF_SYM of spec/02_access_line_physical.md (R55). -/
def N_LNx_STUFF_SYM (x : Line) : Nat := 0x080130 + 0x20000 * x.idx
/-- LNx_HDR_ERR of spec/02_access_line_physical.md (R55). -/
def N_LNx_HDR_ERR (x : Line) : Nat := 0x080138 + 0x20000 * x.idx
/-- LNx_LOF_EVT of spec/02_access_line_physical.md (R55). -/
def N_LNx_LOF_EVT (x : Line) : Nat := 0x080140 + 0x20000 * x.idx
/-- LNx_TX_STUFF_BITS of spec/02_access_line_physical.md (R55). -/
def N_LNx_TX_STUFF_BITS (x : Line) : Nat := 0x080148 + 0x20000 * x.idx
/-- LNx_BAD_SYNC of spec/02_access_line_physical.md (R55). -/
def N_LNx_BAD_SYNC (x : Line) : Nat := 0x080150 + 0x20000 * x.idx
/-- LNx_CAND_DROP of spec/02_access_line_physical.md (R55). -/
def N_LNx_CAND_DROP (x : Line) : Nat := 0x080158 + 0x20000 * x.idx
/-- LNx_CAND_FULL of spec/02_access_line_physical.md (R55). -/
def N_LNx_CAND_FULL (x : Line) : Nat := 0x080160 + 0x20000 * x.idx
/-- LNx_STUFF_VIOL of spec/02_access_line_physical.md (R55). -/
def N_LNx_STUFF_VIOL (x : Line) : Nat := 0x080168 + 0x20000 * x.idx
/-- LPx_AREA_BAD of spec/03_access_line_frames.md (R89). -/
def N_LPx_AREA_BAD (x : Line) : Nat := 0x090600 + 0x20000 * x.idx
/-- LPx_ID_MISMATCH of spec/03_access_line_frames.md (R89). -/
def N_LPx_ID_MISMATCH (x : Line) : Nat := 0x090608 + 0x20000 * x.idx
/-- LPx_BWMAP_CRC of spec/03_access_line_frames.md (R89). -/
def N_LPx_BWMAP_CRC (x : Line) : Nat := 0x090610 + 0x20000 * x.idx
/-- LPx_BWMAP_ERRD of spec/03_access_line_frames.md (R89). -/
def N_LPx_BWMAP_ERRD (x : Line) : Nat := 0x090618 + 0x20000 * x.idx
/-- LPx_GRANT_BAD of spec/03_access_line_frames.md (R89). -/
def N_LPx_GRANT_BAD (x : Line) : Nat := 0x090620 + 0x20000 * x.idx
/-- LPx_GRANT_OVLP of spec/03_access_line_frames.md (R89). -/
def N_LPx_GRANT_OVLP (x : Line) : Nat := 0x090628 + 0x20000 * x.idx
/-- LPx_GRANT_EXCESS of spec/03_access_line_frames.md (R89). -/
def N_LPx_GRANT_EXCESS (x : Line) : Nat := 0x090630 + 0x20000 * x.idx
/-- LPx_GRANT_LOST of spec/03_access_line_frames.md (R89). -/
def N_LPx_GRANT_LOST (x : Line) : Nat := 0x090638 + 0x20000 * x.idx
/-- LPx_BURSTS of spec/03_access_line_frames.md (R89). -/
def N_LPx_BURSTS (x : Line) : Nat := 0x090640 + 0x20000 * x.idx
/-- LPx_MSG_RX of spec/03_access_line_frames.md (R89). -/
def N_LPx_MSG_RX (x : Line) : Nat := 0x090648 + 0x20000 * x.idx
/-- LPx_MSG_MIC of spec/03_access_line_frames.md (R89). -/
def N_LPx_MSG_MIC (x : Line) : Nat := 0x090650 + 0x20000 * x.idx
/-- LPx_MSG_REPLAY of spec/03_access_line_frames.md (R89). -/
def N_LPx_MSG_REPLAY (x : Line) : Nat := 0x090658 + 0x20000 * x.idx
/-- LPx_MSG_UNKNOWN of spec/03_access_line_frames.md (R89). -/
def N_LPx_MSG_UNKNOWN (x : Line) : Nat := 0x090660 + 0x20000 * x.idx
/-- LPx_MSG_ERRD of spec/03_access_line_frames.md (R89). -/
def N_LPx_MSG_ERRD (x : Line) : Nat := 0x090668 + 0x20000 * x.idx
/-- LPx_STUFF_OVR of spec/03_access_line_frames.md (R89). -/
def N_LPx_STUFF_OVR (x : Line) : Nat := 0x090670 + 0x20000 * x.idx
/-- LPx_QR_TRUNC of spec/03_access_line_frames.md (R89). -/
def N_LPx_QR_TRUNC (x : Line) : Nat := 0x090678 + 0x20000 * x.idx
/-- LPx_CONT_SHORT of spec/03_access_line_frames.md (R89). -/
def N_LPx_CONT_SHORT (x : Line) : Nat := 0x090680 + 0x20000 * x.idx
/-- LPx_PKT_AREA_LOST of spec/03_access_line_frames.md (R89). -/
def N_LPx_PKT_AREA_LOST (x : Line) : Nat := 0x090688 + 0x20000 * x.idx
/-- LPx_ANN_SENT of spec/04_activation_and_trust.md (R115). -/
def N_LPx_ANN_SENT (x : Line) : Nat := 0x090200 + 0x20000 * x.idx
/-- LPx_ANN_NO_RESP of spec/04_activation_and_trust.md (R115). -/
def N_LPx_ANN_NO_RESP (x : Line) : Nat := 0x090208 + 0x20000 * x.idx
/-- LPx_RNG_RESP of spec/04_activation_and_trust.md (R115). -/
def N_LPx_RNG_RESP (x : Line) : Nat := 0x090210 + 0x20000 * x.idx
/-- LPx_RNG_TIMEOUT of spec/04_activation_and_trust.md (R115). -/
def N_LPx_RNG_TIMEOUT (x : Line) : Nat := 0x090218 + 0x20000 * x.idx
/-- LPx_PROVE_OK of spec/04_activation_and_trust.md (R115). -/
def N_LPx_PROVE_OK (x : Line) : Nat := 0x090220 + 0x20000 * x.idx
/-- LPx_PROVE_FAIL of spec/04_activation_and_trust.md (R115). -/
def N_LPx_PROVE_FAIL (x : Line) : Nat := 0x090228 + 0x20000 * x.idx
/-- LPx_HOLD_ENTRY of spec/04_activation_and_trust.md (R115). -/
def N_LPx_HOLD_ENTRY (x : Line) : Nat := 0x090230 + 0x20000 * x.idx
/-- LPx_HOLD_EXP of spec/04_activation_and_trust.md (R115). -/
def N_LPx_HOLD_EXP (x : Line) : Nat := 0x090238 + 0x20000 * x.idx
/-- LPx_ESTOP of spec/04_activation_and_trust.md (R115). -/
def N_LPx_ESTOP (x : Line) : Nat := 0x090240 + 0x20000 * x.idx
/-- LPx_ACT_IGN of spec/04_activation_and_trust.md (R115). -/
def N_LPx_ACT_IGN (x : Line) : Nat := 0x090248 + 0x20000 * x.idx
/-- LPx_EQD_CHG of spec/04_activation_and_trust.md (R115). -/
def N_LPx_EQD_CHG (x : Line) : Nat := 0x090250 + 0x20000 * x.idx
/-- LPx_EQD_REFUSED of spec/04_activation_and_trust.md (R115). -/
def N_LPx_EQD_REFUSED (x : Line) : Nat := 0x090258 + 0x20000 * x.idx
/-- LPx_LOM_EVT of spec/04_activation_and_trust.md (R115). -/
def N_LPx_LOM_EVT (x : Line) : Nat := 0x090260 + 0x20000 * x.idx
/-- LPx_KEY_ROLL_OK of spec/04_activation_and_trust.md (R115). -/
def N_LPx_KEY_ROLL_OK (x : Line) : Nat := 0x090268 + 0x20000 * x.idx
/-- LPx_KEY_ROLL_REF of spec/04_activation_and_trust.md (R115). -/
def N_LPx_KEY_ROLL_REF (x : Line) : Nat := 0x090270 + 0x20000 * x.idx
/-- LPx_SLEEP_ENTRY of spec/04_activation_and_trust.md (R115). -/
def N_LPx_SLEEP_ENTRY (x : Line) : Nat := 0x090278 + 0x20000 * x.idx
/-- LPx_SLEEP_REF of spec/04_activation_and_trust.md (R115). -/
def N_LPx_SLEEP_REF (x : Line) : Nat := 0x090280 + 0x20000 * x.idx
/-- LPx_SLEEP_GRANT_IGN of spec/04_activation_and_trust.md (R115). -/
def N_LPx_SLEEP_GRANT_IGN (x : Line) : Nat := 0x090288 + 0x20000 * x.idx
/-- LPx_SIL_REL_FAIL of spec/04_activation_and_trust.md (R115). -/
def N_LPx_SIL_REL_FAIL (x : Line) : Nat := 0x090290 + 0x20000 * x.idx
/-- TWE_DUP_DISC_A of spec/05_two_ended_attachment.md (R136). -/
def N_TWE_DUP_DISC_A : Nat := 0x0c0200
/-- TWE_DUP_DISC_B of spec/05_two_ended_attachment.md (R136). -/
def N_TWE_DUP_DISC_B : Nat := 0x0c0208
/-- TWE_WRONG_LINE of spec/05_two_ended_attachment.md (R136). -/
def N_TWE_WRONG_LINE : Nat := 0x0c0210
/-- TWE_GAP_FILL of spec/05_two_ended_attachment.md (R136). -/
def N_TWE_GAP_FILL : Nat := 0x0c0218
/-- TWE_GAP_EXP of spec/05_two_ended_attachment.md (R136). -/
def N_TWE_GAP_EXP : Nat := 0x0c0220
/-- TWE_GAP_OVF of spec/05_two_ended_attachment.md (R136). -/
def N_TWE_GAP_OVF : Nat := 0x0c0228
/-- TWE_FLOW_RESYNC of spec/05_two_ended_attachment.md (R136). -/
def N_TWE_FLOW_RESYNC : Nat := 0x0c0230
/-- TWE_UP_PAIRED of spec/05_two_ended_attachment.md (R136). -/
def N_TWE_UP_PAIRED : Nat := 0x0c0238
/-- TWE_UP_HALF of spec/05_two_ended_attachment.md (R136). -/
def N_TWE_UP_HALF : Nat := 0x0c0240
/-- TWE_UP_AGED_A of spec/05_two_ended_attachment.md (R136). -/
def N_TWE_UP_AGED_A : Nat := 0x0c0248
/-- TWE_UP_AGED_B of spec/05_two_ended_attachment.md (R136). -/
def N_TWE_UP_AGED_B : Nat := 0x0c0250
/-- TWE_UP_REL_A of spec/05_two_ended_attachment.md (R136). -/
def N_TWE_UP_REL_A : Nat := 0x0c0258
/-- TWE_UP_REL_B of spec/05_two_ended_attachment.md (R136). -/
def N_TWE_UP_REL_B : Nat := 0x0c0260
/-- TWE_TM_SWITCH of spec/05_two_ended_attachment.md (R136). -/
def N_TWE_TM_SWITCH : Nat := 0x0c0268
/-- TWE_ACT_SWITCH of spec/05_two_ended_attachment.md (R136). -/
def N_TWE_ACT_SWITCH : Nat := 0x0c0270
/-- TWE_SEL_SWITCH of spec/05_two_ended_attachment.md (R136). -/
def N_TWE_SEL_SWITCH : Nat := 0x0c0278
/-- TWE_SEL_LATE of spec/05_two_ended_attachment.md (R136). -/
def N_TWE_SEL_LATE : Nat := 0x0c0280
/-- CAR_FRAMES_x of spec/06_carriage_and_bursts.md (R160). -/
def N_CAR_FRAMES (x : Line) : Nat := 0x0d0200 + 0x100 * x.idx
/-- CAR_HEC_CORR_x of spec/06_carriage_and_bursts.md (R160). -/
def N_CAR_HEC_CORR (x : Line) : Nat := 0x0d0208 + 0x100 * x.idx
/-- CAR_HEC_UNC_x of spec/06_carriage_and_bursts.md (R160). -/
def N_CAR_HEC_UNC (x : Line) : Nat := 0x0d0210 + 0x100 * x.idx
/-- CAR_AREA_ABANDON_x of spec/06_carriage_and_bursts.md (R160). -/
def N_CAR_AREA_ABANDON (x : Line) : Nat := 0x0d0218 + 0x100 * x.idx
/-- CAR_FLOW_OFF_x of spec/06_carriage_and_bursts.md (R160). -/
def N_CAR_FLOW_OFF (x : Line) : Nat := 0x0d0220 + 0x100 * x.idx
/-- CAR_ERRD_x of spec/06_carriage_and_bursts.md (R160). -/
def N_CAR_ERRD (x : Line) : Nat := 0x0d0228 + 0x100 * x.idx
/-- CAR_TAG_FAIL_x of spec/06_carriage_and_bursts.md (R160). -/
def N_CAR_TAG_FAIL (x : Line) : Nat := 0x0d0230 + 0x100 * x.idx
/-- CAR_KEY_MISS_x of spec/06_carriage_and_bursts.md (R160). -/
def N_CAR_KEY_MISS (x : Line) : Nat := 0x0d0238 + 0x100 * x.idx
/-- CAR_HDR_BAD_x of spec/06_carriage_and_bursts.md (R160). -/
def N_CAR_HDR_BAD (x : Line) : Nat := 0x0d0240 + 0x100 * x.idx
/-- CAR_REASM_TO_x of spec/06_carriage_and_bursts.md (R160). -/
def N_CAR_REASM_TO (x : Line) : Nat := 0x0d0248 + 0x100 * x.idx
/-- CAR_REASM_FULL_x of spec/06_carriage_and_bursts.md (R160). -/
def N_CAR_REASM_FULL (x : Line) : Nat := 0x0d0250 + 0x100 * x.idx
/-- CAR_REASM_ORPHAN_x of spec/06_carriage_and_bursts.md (R160). -/
def N_CAR_REASM_ORPHAN (x : Line) : Nat := 0x0d0258 + 0x100 * x.idx
/-- CAR_REASM_BAD_x of spec/06_carriage_and_bursts.md (R160). -/
def N_CAR_REASM_BAD (x : Line) : Nat := 0x0d0260 + 0x100 * x.idx
/-- CAR_PKTS_x of spec/06_carriage_and_bursts.md (R160). -/
def N_CAR_PKTS (x : Line) : Nat := 0x0d0268 + 0x100 * x.idx
/-- CAR_BULK_BAD_x of spec/06_carriage_and_bursts.md (R160). -/
def N_CAR_BULK_BAD (x : Line) : Nat := 0x0d0270 + 0x100 * x.idx
/-- CAR_TX_FRAMES_x of spec/06_carriage_and_bursts.md (R160). -/
def N_CAR_TX_FRAMES (x : Line) : Nat := 0x0d0278 + 0x100 * x.idx
/-- CAR_TX_FRAGS_x of spec/06_carriage_and_bursts.md (R160). -/
def N_CAR_TX_FRAGS (x : Line) : Nat := 0x0d0280 + 0x100 * x.idx
/-- CAR_EXP_DEFER_x of spec/06_carriage_and_bursts.md (R160). -/
def N_CAR_EXP_DEFER (x : Line) : Nat := 0x0d0288 + 0x100 * x.idx
/-- CAR_EXP_TOOBIG_x of spec/06_carriage_and_bursts.md (R160). -/
def N_CAR_EXP_TOOBIG (x : Line) : Nat := 0x0d0290 + 0x100 * x.idx
/-- CAR_US_FLOW_OFF_x of spec/06_carriage_and_bursts.md (R160). -/
def N_CAR_US_FLOW_OFF (x : Line) : Nat := 0x0d0298 + 0x100 * x.idx
/-- CAR_IDLE_BYTES_x of spec/06_carriage_and_bursts.md (R160). -/
def N_CAR_IDLE_BYTES (x : Line) : Nat := 0x0d02a0 + 0x100 * x.idx
/-- CAR_FRAG_WAIT_x of spec/06_carriage_and_bursts.md (R160). -/
def N_CAR_FRAG_WAIT (x : Line) : Nat := 0x0d02a8 + 0x100 * x.idx
/-- CAR_RESEND_x of spec/06_carriage_and_bursts.md (R160). -/
def N_CAR_RESEND (x : Line) : Nat := 0x0d02b0 + 0x100 * x.idx
/-- SRT_LOOKUPS of spec/07_classifier.md (R182). -/
def N_SRT_LOOKUPS : Nat := 0x103000
/-- SRT_HITS of spec/07_classifier.md (R182). -/
def N_SRT_HITS : Nat := 0x103008
/-- SRT_MISS of spec/07_classifier.md (R182). -/
def N_SRT_MISS : Nat := 0x103010
/-- SRT_PARSE_ERR of spec/07_classifier.md (R182). -/
def N_SRT_PARSE_ERR : Nat := 0x103018
/-- SRT_DEEP of spec/07_classifier.md (R182). -/
def N_SRT_DEEP : Nat := 0x103020
/-- SRT_TRAPS of spec/07_classifier.md (R182). -/
def N_SRT_TRAPS : Nat := 0x103028
/-- SRT_RECIRC of spec/07_classifier.md (R182). -/
def N_SRT_RECIRC : Nat := 0x103030
/-- SRT_RECIRC_DROP of spec/07_classifier.md (R182). -/
def N_SRT_RECIRC_DROP : Nat := 0x103038
/-- SRT_EPOCH_STALE of spec/07_classifier.md (R182). -/
def N_SRT_EPOCH_STALE : Nat := 0x103040
/-- SRT_WR_REFUSED of spec/07_classifier.md (R182). -/
def N_SRT_WR_REFUSED : Nat := 0x103048
/-- SRT_FRAG_HIT of spec/07_classifier.md (R182). -/
def N_SRT_FRAG_HIT : Nat := 0x103050
/-- SRT_FRAG_ORPHAN of spec/07_classifier.md (R182). -/
def N_SRT_FRAG_ORPHAN : Nat := 0x103058
/-- SRT_FRAG_FULL of spec/07_classifier.md (R182). -/
def N_SRT_FRAG_FULL : Nat := 0x103060
/-- SRT_FRAG_AGED of spec/07_classifier.md (R182). -/
def N_SRT_FRAG_AGED : Nat := 0x103068
/-- SRT_BAD_ACTION of spec/07_classifier.md (R182). -/
def N_SRT_BAD_ACTION : Nat := 0x103070
/-- SRT_ECC_DROP of spec/07_classifier.md (R182). -/
def N_SRT_ECC_DROP : Nat := 0x103078
/-- COP_FRAMES_IN of spec/08_queues_meters_scheduler.md (R208). -/
def N_COP_FRAMES_IN : Nat := 0x140200
/-- COP_FRAMES_OUT of spec/08_queues_meters_scheduler.md (R208). -/
def N_COP_FRAMES_OUT : Nat := 0x140208
/-- COP_ADM_DROP_G of spec/08_queues_meters_scheduler.md (R208). -/
def N_COP_ADM_DROP_G : Nat := 0x140210
/-- COP_ADM_DROP_Y of spec/08_queues_meters_scheduler.md (R208). -/
def N_COP_ADM_DROP_Y : Nat := 0x140218
/-- COP_ADM_DROP_R of spec/08_queues_meters_scheduler.md (R208). -/
def N_COP_ADM_DROP_R : Nat := 0x140220
/-- COP_MAX_DROP of spec/08_queues_meters_scheduler.md (R208). -/
def N_COP_MAX_DROP : Nat := 0x140228
/-- COP_INVALID_Q of spec/08_queues_meters_scheduler.md (R208). -/
def N_COP_INVALID_Q : Nat := 0x140230
/-- COP_NOLINE_DROP of spec/08_queues_meters_scheduler.md (R208). -/
def N_COP_NOLINE_DROP : Nat := 0x140238
/-- COP_NOCELL of spec/08_queues_meters_scheduler.md (R208). -/
def N_COP_NOCELL : Nat := 0x140240
/-- COP_RM_DROP of spec/08_queues_meters_scheduler.md (R208). -/
def N_COP_RM_DROP : Nat := 0x140248
/-- COP_EXP_UNMETERED of spec/08_queues_meters_scheduler.md (R208). -/
def N_COP_EXP_UNMETERED : Nat := 0x140250
/-- COP_ECC_CORR of spec/08_queues_meters_scheduler.md (R208). -/
def N_COP_ECC_CORR : Nat := 0x140258
/-- COP_ECC_UNC of spec/08_queues_meters_scheduler.md (R208). -/
def N_COP_ECC_UNC : Nat := 0x140260
/-- COP_CRC_ERR of spec/08_queues_meters_scheduler.md (R208). -/
def N_COP_CRC_ERR : Nat := 0x140268
/-- COP_BANK_LOSS_DROP of spec/08_queues_meters_scheduler.md (R208). -/
def N_COP_BANK_LOSS_DROP : Nat := 0x140270
/-- TOL_GREEN of spec/08_queues_meters_scheduler.md (R209). -/
def N_TOL_GREEN : Nat := 0x160200
/-- TOL_YELLOW of spec/08_queues_meters_scheduler.md (R209). -/
def N_TOL_YELLOW : Nat := 0x160208
/-- TOL_RED of spec/08_queues_meters_scheduler.md (R209). -/
def N_TOL_RED : Nat := 0x160210
/-- TOL_DROP of spec/08_queues_meters_scheduler.md (R209). -/
def N_TOL_DROP : Nat := 0x160218
/-- TOL_REMARK of spec/08_queues_meters_scheduler.md (R209). -/
def N_TOL_REMARK : Nat := 0x160220
/-- TOL_NO_METER of spec/08_queues_meters_scheduler.md (R209). -/
def N_TOL_NO_METER : Nat := 0x160228
/-- DRV_SEL of spec/08_queues_meters_scheduler.md (R210). -/
def N_DRV_SEL : Nat := 0x150200
/-- DRV_SEL_EXP of spec/08_queues_meters_scheduler.md (R210). -/
def N_DRV_SEL_EXP : Nat := 0x150208
/-- DRV_SEL_COMMIT of spec/08_queues_meters_scheduler.md (R210). -/
def N_DRV_SEL_COMMIT : Nat := 0x150210
/-- DRV_SEL_EXCESS of spec/08_queues_meters_scheduler.md (R210). -/
def N_DRV_SEL_EXCESS : Nat := 0x150218
/-- ETHP_RX_FRAMES of spec/09_ethernet_ports.md (R239). -/
def N_ETHP_RX_FRAMES (n : Nat) : Nat := 0x180400 + 0x10000 * (n / 10) + 0x800 * (n % 10)
/-- ETHP_RX_BYTES of spec/09_ethernet_ports.md (R239). -/
def N_ETHP_RX_BYTES (n : Nat) : Nat := 0x180408 + 0x10000 * (n / 10) + 0x800 * (n % 10)
/-- ETHP_RX_FCS_ERR of spec/09_ethernet_ports.md (R239). -/
def N_ETHP_RX_FCS_ERR (n : Nat) : Nat := 0x180410 + 0x10000 * (n / 10) + 0x800 * (n % 10)
/-- ETHP_RX_RUNT of spec/09_ethernet_ports.md (R239). -/
def N_ETHP_RX_RUNT (n : Nat) : Nat := 0x180418 + 0x10000 * (n / 10) + 0x800 * (n % 10)
/-- ETHP_RX_OVERSIZE of spec/09_ethernet_ports.md (R239). -/
def N_ETHP_RX_OVERSIZE (n : Nat) : Nat := 0x180420 + 0x10000 * (n / 10) + 0x800 * (n % 10)
/-- ETHP_RX_FILT_DROP of spec/09_ethernet_ports.md (R239). -/
def N_ETHP_RX_FILT_DROP (n : Nat) : Nat := 0x180428 + 0x10000 * (n / 10) + 0x800 * (n % 10)
/-- ETHP_RX_OVF_FRAMES of spec/09_ethernet_ports.md (R239). -/
def N_ETHP_RX_OVF_FRAMES (n : Nat) : Nat := 0x180430 + 0x10000 * (n / 10) + 0x800 * (n % 10)
/-- ETHP_RX_PAUSE of spec/09_ethernet_ports.md (R239). -/
def N_ETHP_RX_PAUSE (n : Nat) : Nat := 0x180438 + 0x10000 * (n / 10) + 0x800 * (n % 10)
/-- ETHP_RX_MACCTL_OTHER of spec/09_ethernet_ports.md (R239). -/
def N_ETHP_RX_MACCTL_OTHER (n : Nat) : Nat := 0x180440 + 0x10000 * (n / 10) + 0x800 * (n % 10)
/-- ETHP_RX_CODE_ERR of spec/09_ethernet_ports.md (R239). -/
def N_ETHP_RX_CODE_ERR (n : Nat) : Nat := 0x180448 + 0x10000 * (n / 10) + 0x800 * (n % 10)
/-- ETHP_RX_ABORT of spec/09_ethernet_ports.md (R239). -/
def N_ETHP_RX_ABORT (n : Nat) : Nat := 0x180450 + 0x10000 * (n / 10) + 0x800 * (n % 10)
/-- ETHP_RX_MM_FRAGS of spec/09_ethernet_ports.md (R239). -/
def N_ETHP_RX_MM_FRAGS (n : Nat) : Nat := 0x180458 + 0x10000 * (n / 10) + 0x800 * (n % 10)
/-- ETHP_RX_MM_ASSY_ERR of spec/09_ethernet_ports.md (R239). -/
def N_ETHP_RX_MM_ASSY_ERR (n : Nat) : Nat := 0x180460 + 0x10000 * (n / 10) + 0x800 * (n % 10)
/-- ETHP_TX_FRAMES of spec/09_ethernet_ports.md (R239). -/
def N_ETHP_TX_FRAMES (n : Nat) : Nat := 0x180468 + 0x10000 * (n / 10) + 0x800 * (n % 10)
/-- ETHP_TX_BYTES of spec/09_ethernet_ports.md (R239). -/
def N_ETHP_TX_BYTES (n : Nat) : Nat := 0x180470 + 0x10000 * (n / 10) + 0x800 * (n % 10)
/-- ETHP_TX_PAUSE of spec/09_ethernet_ports.md (R239). -/
def N_ETHP_TX_PAUSE (n : Nat) : Nat := 0x180478 + 0x10000 * (n / 10) + 0x800 * (n % 10)
/-- ETHP_TX_BAD_FCS of spec/09_ethernet_ports.md (R239). -/
def N_ETHP_TX_BAD_FCS (n : Nat) : Nat := 0x180480 + 0x10000 * (n / 10) + 0x800 * (n % 10)
/-- ETHP_TX_PREEMPTED of spec/09_ethernet_ports.md (R239). -/
def N_ETHP_TX_PREEMPTED (n : Nat) : Nat := 0x180488 + 0x10000 * (n / 10) + 0x800 * (n % 10)
/-- ETHP_TX_MM_FRAGS of spec/09_ethernet_ports.md (R239). -/
def N_ETHP_TX_MM_FRAGS (n : Nat) : Nat := 0x180490 + 0x10000 * (n / 10) + 0x800 * (n % 10)
/-- ETHP_TX_LINKDOWN_DROP of spec/09_ethernet_ports.md (R239). -/
def N_ETHP_TX_LINKDOWN_DROP (n : Nat) : Nat := 0x180498 + 0x10000 * (n / 10) + 0x800 * (n % 10)
/-- ETHP_TS_LOST of spec/09_ethernet_ports.md (R239). -/
def N_ETHP_TS_LOST (n : Nat) : Nat := 0x1804a0 + 0x10000 * (n / 10) + 0x800 * (n % 10)
/-- ETHP_FEC_CORR_CW of spec/09_ethernet_ports.md (R239). -/
def N_ETHP_FEC_CORR_CW (n : Nat) : Nat := 0x1804a8 + 0x10000 * (n / 10) + 0x800 * (n % 10)
/-- ETHP_FEC_UNC_CW of spec/09_ethernet_ports.md (R239). -/
def N_ETHP_FEC_UNC_CW (n : Nat) : Nat := 0x1804b0 + 0x10000 * (n / 10) + 0x800 * (n % 10)
/-- ETH_LSO_SEGS of spec/09_ethernet_ports.md (R239). -/
def N_ETH_LSO_SEGS : Nat := 0x186100
/-- ETH_LSO_FRAMES of spec/09_ethernet_ports.md (R239). -/
def N_ETH_LSO_FRAMES : Nat := 0x186108
/-- ETH_LSO_ERR of spec/09_ethernet_ports.md (R239). -/
def N_ETH_LSO_ERR : Nat := 0x186110
/-- TCM_INC of spec/10_tributaries_and_tsi.md (R264). -/
def N_TCM_INC (s : Nat) : Nat := 0x1f0000 + 0x80 * s
/-- TCM_DEC of spec/10_tributaries_and_tsi.md (R264). -/
def N_TCM_DEC (s : Nat) : Nat := 0x1f0008 + 0x80 * s
/-- TCM_NEW_PTR of spec/10_tributaries_and_tsi.md (R264). -/
def N_TCM_NEW_PTR (s : Nat) : Nat := 0x1f0010 + 0x80 * s
/-- TCM_INV_PTR of spec/10_tributaries_and_tsi.md (R264). -/
def N_TCM_INV_PTR (s : Nat) : Nat := 0x1f0018 + 0x80 * s
/-- TCM_BIP_ERR of spec/10_tributaries_and_tsi.md (R264). -/
def N_TCM_BIP_ERR (s : Nat) : Nat := 0x1f0020 + 0x80 * s
/-- TCM_REI of spec/10_tributaries_and_tsi.md (R264). -/
def N_TCM_REI (s : Nat) : Nat := 0x1f0028 + 0x80 * s
/-- TCM_DS_SLIP of spec/10_tributaries_and_tsi.md (R264). -/
def N_TCM_DS_SLIP (s : Nat) : Nat := 0x1f0030 + 0x80 * s
/-- TCM_LATE of spec/10_tributaries_and_tsi.md (R264). -/
def N_TCM_LATE (s : Nat) : Nat := 0x1f0038 + 0x80 * s
/-- TCM_US_ADJ of spec/10_tributaries_and_tsi.md (R264). -/
def N_TCM_US_ADJ (s : Nat) : Nat := 0x1f0040 + 0x80 * s
/-- TDM_FAS_ERR of spec/10_tributaries_and_tsi.md (R264). -/
def N_TDM_FAS_ERR (n : Nat) : Nat := 0x1c0080 + 0x100 * n
/-- TDM_CRC4_ERR of spec/10_tributaries_and_tsi.md (R264). -/
def N_TDM_CRC4_ERR (n : Nat) : Nat := 0x1c0088 + 0x100 * n
/-- TDM_REBE of spec/10_tributaries_and_tsi.md (R264). -/
def N_TDM_REBE (n : Nat) : Nat := 0x1c0090 + 0x100 * n
/-- TDM_LOS_EVT of spec/10_tributaries_and_tsi.md (R264). -/
def N_TDM_LOS_EVT (n : Nat) : Nat := 0x1c0098 + 0x100 * n
/-- TDM_LOF_EVT of spec/10_tributaries_and_tsi.md (R264). -/
def N_TDM_LOF_EVT (n : Nat) : Nat := 0x1c00a0 + 0x100 * n
/-- TDM_SLIP_RX of spec/10_tributaries_and_tsi.md (R264). -/
def N_TDM_SLIP_RX (n : Nat) : Nat := 0x1c00a8 + 0x100 * n
/-- TDM_SLIP_TX of spec/10_tributaries_and_tsi.md (R264). -/
def N_TDM_SLIP_TX (n : Nat) : Nat := 0x1c00b0 + 0x100 * n
/-- TDM_BARRED of spec/10_tributaries_and_tsi.md (R264). -/
def N_TDM_BARRED (n : Nat) : Nat := 0x1c00b8 + 0x100 * n
/-- TSI_SWAPS of spec/10_tributaries_and_tsi.md (R265). -/
def N_TSI_SWAPS : Nat := 0x1d0200
/-- TSI_ACT_WR of spec/10_tributaries_and_tsi.md (R265). -/
def N_TSI_ACT_WR : Nat := 0x1d0208
/-- TSI_ECC_CORR of spec/10_tributaries_and_tsi.md (R265). -/
def N_TSI_ECC_CORR : Nat := 0x1d0210
/-- TSI_BAD_SRC of spec/10_tributaries_and_tsi.md (R265). -/
def N_TSI_BAD_SRC : Nat := 0x1d0218
/-- NTU_EV_FIRED of spec/11_network_time_and_deadlines.md (R293). -/
def N_NTU_EV_FIRED : Nat := 0x050200
/-- NTU_EV_MISSED of spec/11_network_time_and_deadlines.md (R293). -/
def N_NTU_EV_MISSED : Nat := 0x050208
/-- NTU_TOD_OK of spec/11_network_time_and_deadlines.md (R293). -/
def N_NTU_TOD_OK : Nat := 0x050210
/-- NTU_TOD_IGN of spec/11_network_time_and_deadlines.md (R293). -/
def N_NTU_TOD_IGN : Nat := 0x050218
/-- NTU_TOD_STEP of spec/11_network_time_and_deadlines.md (R293). -/
def N_NTU_TOD_STEP : Nat := 0x050220
/-- NTU_NT_STEP of spec/11_network_time_and_deadlines.md (R293). -/
def N_NTU_NT_STEP : Nat := 0x050228
/-- NTU_HO_ENTRY of spec/11_network_time_and_deadlines.md (R293). -/
def N_NTU_HO_ENTRY : Nat := 0x050230
/-- NTU_PPS_SUPP of spec/11_network_time_and_deadlines.md (R293). -/
def N_NTU_PPS_SUPP : Nat := 0x050238
/-- NTU_XG_LATE of spec/11_network_time_and_deadlines.md (R293). -/
def N_NTU_XG_LATE : Nat := 0x050240
/-- NTU_XG_SHORT of spec/11_network_time_and_deadlines.md (R293). -/
def N_NTU_XG_SHORT : Nat := 0x050248
/-- NTU_CG_MISS of spec/11_network_time_and_deadlines.md (R293). -/
def N_NTU_CG_MISS : Nat := 0x050250
/-- NTU_XMAX_DROP of spec/11_network_time_and_deadlines.md (R293). -/
def N_NTU_XMAX_DROP : Nat := 0x050258
/-- HST_TX_FRAMES of spec/12_host_and_cipher.md (R317). -/
def N_HST_TX_FRAMES : Nat := 0x220600
/-- HST_TX_BYTES of spec/12_host_and_cipher.md (R317). -/
def N_HST_TX_BYTES : Nat := 0x220608
/-- HST_TX_DESC_ERR of spec/12_host_and_cipher.md (R317). -/
def N_HST_TX_DESC_ERR : Nat := 0x220610
/-- HST_RX_FRAMES of spec/12_host_and_cipher.md (R317). -/
def N_HST_RX_FRAMES : Nat := 0x220618
/-- HST_RX_BYTES of spec/12_host_and_cipher.md (R317). -/
def N_HST_RX_BYTES : Nat := 0x220620
/-- HST_RX_NOBUF of spec/12_host_and_cipher.md (R317). -/
def N_HST_RX_NOBUF : Nat := 0x220628
/-- HST_RX_TOOBIG of spec/12_host_and_cipher.md (R317). -/
def N_HST_RX_TOOBIG : Nat := 0x220630
/-- HST_TDM_LATE of spec/12_host_and_cipher.md (R317). -/
def N_HST_TDM_LATE : Nat := 0x220638
/-- HST_LINK_DOWN of spec/12_host_and_cipher.md (R317). -/
def N_HST_LINK_DOWN : Nat := 0x220640
/-- CPH_REQ of spec/12_host_and_cipher.md (R317). -/
def N_CPH_REQ : Nat := 0x200400
/-- CPH_BYTES of spec/12_host_and_cipher.md (R317). -/
def N_CPH_BYTES : Nat := 0x200408
/-- CPH_GCM_FAIL of spec/12_host_and_cipher.md (R317). -/
def N_CPH_GCM_FAIL : Nat := 0x200410
/-- CPH_REQ_ERR of spec/12_host_and_cipher.md (R317). -/
def N_CPH_REQ_ERR : Nat := 0x200418
/-- CPH_SLOT_DENY of spec/12_host_and_cipher.md (R317). -/
def N_CPH_SLOT_DENY : Nat := 0x200420
/-- CFG_APPLIED of spec/13_boot_and_configuration.md (R342). -/
def N_CFG_APPLIED : Nat := 0x010200
/-- CFG_REFUSED of spec/13_boot_and_configuration.md (R342). -/
def N_CFG_REFUSED : Nat := 0x010208
/-- CFG_MISSED of spec/13_boot_and_configuration.md (R342). -/
def N_CFG_MISSED : Nat := 0x010210
/-- CFG_CANCELLED of spec/13_boot_and_configuration.md (R342). -/
def N_CFG_CANCELLED : Nat := 0x010218
/-- CFG_REC_SKIP of spec/13_boot_and_configuration.md (R342). -/
def N_CFG_REC_SKIP : Nat := 0x010220
/-- CFG_OBJ_BAD of spec/13_boot_and_configuration.md (R342). -/
def N_CFG_OBJ_BAD : Nat := 0x010228
/-- TAL_SNAPS of spec/14_registers_and_counters.md (R370). -/
def N_TAL_SNAPS : Nat := 0x066100
/-- TAL_SMP_LOST of spec/14_registers_and_counters.md (R370). -/
def N_TAL_SMP_LOST : Nat := 0x066108
/-- TAL_FREEZES of spec/14_registers_and_counters.md (R370). -/
def N_TAL_FREEZES : Nat := 0x066110
/-- PWR_WAKES of spec/15_power_domains.md (R386). -/
def N_PWR_WAKES : Nat := 0x020300
/-- PWR_DOWNS of spec/15_power_domains.md (R386). -/
def N_PWR_DOWNS : Nat := 0x020308
/-- PWR_REFUSED of spec/15_power_domains.md (R386). -/
def N_PWR_REFUSED : Nat := 0x020310
/-- PWR_FAILS of spec/15_power_domains.md (R386). -/
def N_PWR_FAILS : Nat := 0x020318
/-- PWR_WAKE_EVTS of spec/15_power_domains.md (R386). -/
def N_PWR_WAKE_EVTS : Nat := 0x020320
/-- PWR_DRAIN_RETRY of spec/15_power_domains.md (R386). -/
def N_PWR_DRAIN_RETRY : Nat := 0x020328
/-- ITM_CLASS0 of spec/16_integrity.md (R406). -/
def N_ITM_CLASS0 : Nat := 0x040200
/-- ITM_CLASS1 of spec/16_integrity.md (R406). -/
def N_ITM_CLASS1 : Nat := 0x040208
/-- ITM_CLASS2 of spec/16_integrity.md (R406). -/
def N_ITM_CLASS2 : Nat := 0x040210
/-- ITM_CLASS3 of spec/16_integrity.md (R406). -/
def N_ITM_CLASS3 : Nat := 0x040218
/-- ITM_CLASS4 of spec/16_integrity.md (R406). -/
def N_ITM_CLASS4 : Nat := 0x040220
/-- ITM_CLASS5 of spec/16_integrity.md (R406). -/
def N_ITM_CLASS5 : Nat := 0x040228
/-- ITM_CLASS6 of spec/16_integrity.md (R406). -/
def N_ITM_CLASS6 : Nat := 0x040230
/-- ITM_CLASS7 of spec/16_integrity.md (R406). -/
def N_ITM_CLASS7 : Nat := 0x040238
/-- ITM_CLASS8 of spec/16_integrity.md (R406). -/
def N_ITM_CLASS8 : Nat := 0x040240
/-- ITM_CLASS9 of spec/16_integrity.md (R406). -/
def N_ITM_CLASS9 : Nat := 0x040248
/-- ITM_CLASS10 of spec/16_integrity.md (R406). -/
def N_ITM_CLASS10 : Nat := 0x040250
/-- ITM_CLASS11 of spec/16_integrity.md (R406). -/
def N_ITM_CLASS11 : Nat := 0x040258
/-- ITM_CLASS12 of spec/16_integrity.md (R406). -/
def N_ITM_CLASS12 : Nat := 0x040260
/-- ITM_CLASS13 of spec/16_integrity.md (R406). -/
def N_ITM_CLASS13 : Nat := 0x040268
/-- ITM_CLASS14 of spec/16_integrity.md (R406). -/
def N_ITM_CLASS14 : Nat := 0x040270
/-- ITM_CLASS15 of spec/16_integrity.md (R406). -/
def N_ITM_CLASS15 : Nat := 0x040278
/-- ITM_CLASS16 of spec/16_integrity.md (R406). -/
def N_ITM_CLASS16 : Nat := 0x040280
/-- ITM_CLASS17 of spec/16_integrity.md (R406). -/
def N_ITM_CLASS17 : Nat := 0x040288
/-- ITM_ECC_CORR of spec/16_integrity.md (R406). -/
def N_ITM_ECC_CORR : Nat := 0x040290
/-- ITM_LOG_LOST of spec/16_integrity.md (R406). -/
def N_ITM_LOG_LOST : Nat := 0x040298
/-- ITM_STEST_RUNS of spec/16_integrity.md (R406). -/
def N_ITM_STEST_RUNS : Nat := 0x0402a0
/-- ITM_SAFE_ENTRY of spec/16_integrity.md (R406). -/
def N_ITM_SAFE_ENTRY : Nat := 0x0402a8

/-- Rows of the TOP block. -/
def rowsTOP : List RegRow := [
  { name := "TOP_CHIP_ID", addr := 0x000000, dom := .fixed 0, mark := .u, cls := .d, reset := 0x09640b01, fields := [⟨.ro, 31, 16⟩, ⟨.ro, 15, 8⟩, ⟨.ro, 7, 0⟩] },
  { name := "TOP_PART_OPT", addr := 0x000004, dom := .fixed 0, mark := .u, cls := .d, fields := [⟨.ro, 2, 2⟩, ⟨.ro, 1, 0⟩] },
  { name := "TOP_INT_SUM", addr := 0x000100, dom := .fixed 0, mark := .u, cls := .d, fields := [⟨.ro, 27, 27⟩, ⟨.ro, 26, 26⟩, ⟨.ro, 25, 25⟩, ⟨.ro, 24, 24⟩, ⟨.ro, 23, 23⟩, ⟨.ro, 22, 22⟩, ⟨.ro, 21, 21⟩, ⟨.ro, 20, 20⟩, ⟨.ro, 19, 19⟩, ⟨.ro, 18, 18⟩, ⟨.ro, 17, 17⟩, ⟨.ro, 16, 16⟩, ⟨.ro, 15, 15⟩, ⟨.ro, 14, 14⟩, ⟨.ro, 13, 13⟩, ⟨.ro, 12, 12⟩, ⟨.ro, 11, 11⟩, ⟨.ro, 10, 10⟩, ⟨.ro, 9, 9⟩, ⟨.ro, 8, 8⟩, ⟨.ro, 7, 7⟩, ⟨.ro, 6, 6⟩, ⟨.ro, 5, 5⟩, ⟨.ro, 4, 4⟩, ⟨.ro, 3, 3⟩, ⟨.ro, 2, 2⟩, ⟨.ro, 1, 1⟩, ⟨.ro, 0, 0⟩] },
  { name := "TOP_INT_PIN_EN", addr := 0x000104, dom := .fixed 0, mark := .p, cls := .c, fields := [⟨.rw, 27, 0⟩] },
  { name := "TOP_INT_STATUS", addr := 0x000108, dom := .fixed 0, mark := .p, cls := .d, reset := 0x00000001, fields := [⟨.w1c, 2, 2⟩, ⟨.w1c, 1, 1⟩, ⟨.w1c, 0, 0⟩] },
  { name := "TOP_INT_EN", addr := 0x00010c, dom := .fixed 0, mark := .p, cls := .c, fields := [⟨.rw, 2, 0⟩] },
  { name := "TOP_INT_VECn", addr := 0x000110, dims := [(7, 0x4)], dom := .fixed 0, mark := .p, cls := .c, fields := [⟨.rw, 7, 7⟩, ⟨.rw, 15, 15⟩, ⟨.rw, 23, 23⟩, ⟨.rw, 31, 31⟩, ⟨.rw, 5, 0⟩, ⟨.rw, 13, 8⟩, ⟨.rw, 21, 16⟩, ⟨.rw, 29, 24⟩] },
  { name := "TOP_ACC_STATUS", addr := 0x000200, dom := .fixed 0, mark := .p, cls := .d, fields := [⟨.w1c, 2, 2⟩, ⟨.w1c, 1, 1⟩, ⟨.w1c, 0, 0⟩] },
  { name := "TOP_ACC_EN", addr := 0x000204, dom := .fixed 0, mark := .p, cls := .c, fields := [⟨.rw, 2, 0⟩] },
  { name := "TOP_ACC_VIOL_COUNT", addr := 0x000208, dom := .fixed 0, mark := .p, cls := .d, fields := [⟨.ro, 31, 0⟩] },
  { name := "TOP_ACC_VIOL_COUNT", addr := 0x000210, dom := .fixed 0, mark := .p, cls := .d, fields := [⟨.ro, 31, 0⟩] },
  { name := "TOP_ACC_VIOL_COUNT", addr := 0x000218, dom := .fixed 0, mark := .p, cls := .d, fields := [⟨.ro, 31, 0⟩] },
  { name := "TOP_ACC_VIOL_ADDR", addr := 0x00020c, dom := .fixed 0, mark := .p, cls := .d, fields := [⟨.ro, 31, 29⟩, ⟨.ro, 28, 28⟩, ⟨.ro, 27, 27⟩, ⟨.ro, 26, 25⟩, ⟨.ro, 24, 24⟩, ⟨.ro, 23, 0⟩] },
  { name := "TOP_ACC_VIOL_ADDR", addr := 0x000214, dom := .fixed 0, mark := .p, cls := .d, fields := [⟨.ro, 31, 29⟩, ⟨.ro, 28, 28⟩, ⟨.ro, 27, 27⟩, ⟨.ro, 26, 25⟩, ⟨.ro, 24, 24⟩, ⟨.ro, 23, 0⟩] },
  { name := "TOP_ACC_VIOL_ADDR", addr := 0x00021c, dom := .fixed 0, mark := .p, cls := .d, fields := [⟨.ro, 31, 29⟩, ⟨.ro, 28, 28⟩, ⟨.ro, 27, 27⟩, ⟨.ro, 26, 25⟩, ⟨.ro, 24, 24⟩, ⟨.ro, 23, 0⟩] },
  { name := "TOP_LOCK", addr := 0x000220, dom := .fixed 0, mark := .s, cls := .c, fields := [⟨.wo, 4, 0⟩] },
  { name := "TOP_PINMUX", addr := 0x000300, dom := .fixed 0, mark := .p, cls := .c, fields := [⟨.rw, 6, 6⟩, ⟨.rw, 5, 5⟩, ⟨.rw, 3, 0⟩] },
  { name := "TOP_GPIO_DIR", addr := 0x000310, dom := .fixed 0, mark := .p, cls := .c, fields := [⟨.rw, 20, 0⟩] },
  { name := "TOP_GPIO_OUT", addr := 0x000314, dom := .fixed 0, mark := .p, cls := .d, fields := [⟨.rw, 20, 0⟩] },
  { name := "TOP_GPIO_IN", addr := 0x000318, dom := .fixed 0, mark := .u, cls := .d, fields := [⟨.ro, 20, 0⟩] },
  { name := "TOP_I2Cm_CFG", addr := 0x000400, dims := [(2, 0x10)], dom := .fixed 0, mark := .p, cls := .c, reset := 0x00000001, fields := [⟨.rw, 1, 0⟩] },
  { name := "TOP_I2Cm_CMD", addr := 0x000404, dims := [(2, 0x10)], dom := .fixed 0, mark := .p, cls := .d, fields := [⟨.sc, 31, 31⟩, ⟨.ro, 30, 30⟩, ⟨.ro, 29, 28⟩, ⟨.rw, 27, 27⟩, ⟨.rw, 26, 24⟩, ⟨.rw, 22, 16⟩, ⟨.rw, 7, 0⟩] },
  { name := "TOP_I2Cm_DATA", addr := 0x000408, dims := [(2, 0x10)], dom := .fixed 0, mark := .p, cls := .d, fields := [⟨.rw, 31, 0⟩] }]

/-- Rows of the CFG block, part 1. -/
def rowsCFG1 : List RegRow := [
  { name := "CFG_STATUS", addr := 0x010000, dom := .fixed 0, mark := .u, cls := .d, reset := 0x0000ffff, fields := [⟨.ro, 31, 31⟩, ⟨.ro, 29, 28⟩, ⟨.ro, 27, 26⟩, ⟨.ro, 25, 24⟩, ⟨.ro, 23, 16⟩, ⟨.ro, 15, 0⟩] },
  { name := "CFG_BOOT", addr := 0x010004, dom := .fixed 0, mark := .u, cls := .d, reset := 0x7fffffff, fields := [⟨.ro, 31, 31⟩, ⟨.ro, 30, 24⟩, ⟨.ro, 23, 16⟩, ⟨.ro, 15, 8⟩, ⟨.ro, 7, 0⟩] },
  { name := "CFG_FW_VER", addr := 0x010008, dom := .fixed 0, mark := .u, cls := .d, fields := [⟨.ro, 31, 0⟩] },
  { name := "CFG_IMG_VER", addr := 0x01000c, dom := .fixed 0, mark := .u, cls := .d, fields := [⟨.ro, 31, 0⟩] },
  { name := "CFG_COMMIT", addr := 0x010010, dom := .fixed 0, mark := .p, cls := .d, pair := .lo, fields := [⟨.rw, 31, 0⟩] },
  { name := "CFG_COMMIT", addr := 0x010014, dom := .fixed 0, mark := .p, cls := .d, pair := .hi, fields := [⟨.rw, 31, 31⟩, ⟨.rw, 15, 0⟩] },
  { name := "CFG_CTRL", addr := 0x010018, dom := .fixed 0, mark := .p, cls := .d, fields := [⟨.sc, 1, 1⟩, ⟨.sc, 0, 0⟩] },
  { name := "CFG_STAGED", addr := 0x01001c, dom := .fixed 0, mark := .u, cls := .d, fields := [⟨.ro, 31, 0⟩] },
  { name := "CFG_OTP_STATUS", addr := 0x010020, dom := .fixed 0, mark := .u, cls := .d, fields := [⟨.ro, 31, 31⟩, ⟨.ro, 30, 30⟩, ⟨.ro, 15, 14⟩, ⟨.ro, 13, 8⟩, ⟨.ro, 5, 0⟩] },
  { name := "CFG_ROOT_BIND", addr := 0x010024, dom := .fixed 0, mark := .p, cls := .d, fields := [⟨.sc, 31, 31⟩, ⟨.ro, 30, 30⟩, ⟨.ro, 29, 27⟩] },
  { name := "CFG_SLOTS", addr := 0x010028, dom := .fixed 0, mark := .u, cls := .d, fields := [⟨.ro, 5, 5⟩, ⟨.ro, 4, 4⟩, ⟨.ro, 0, 0⟩] },
  { name := "CFG_ALARM", addr := 0x010030, dom := .fixed 0, mark := .p, cls := .d, fields := [⟨.w1c, 5, 5⟩, ⟨.w1c, 4, 4⟩, ⟨.w1c, 3, 3⟩, ⟨.w1c, 2, 2⟩, ⟨.w1c, 1, 1⟩, ⟨.w1c, 0, 0⟩] },
  { name := "CFG_ALARM_EN", addr := 0x010034, dom := .fixed 0, mark := .p, cls := .c, fields := [⟨.rw, 5, 0⟩] },
  { name := "CFG_LAST_FN", addr := 0x010040, dom := .fixed 0, mark := .u, cls := .d, pair := .lo, fields := [⟨.ro, 31, 0⟩] },
  { name := "CFG_LAST_FN", addr := 0x010044, dom := .fixed 0, mark := .u, cls := .d, pair := .hi, fields := [⟨.ro, 15, 0⟩] },
  { name := "CFG_PENDn", addr := 0x010048, dims := [(2, 0x8)], dom := .fixed 0, mark := .u, cls := .d, pair := .lo, fields := [⟨.ro, 31, 0⟩] },
  { name := "CFG_PENDn", addr := 0x01004c, dims := [(2, 0x8)], dom := .fixed 0, mark := .u, cls := .d, pair := .hi, fields := [⟨.ro, 31, 31⟩, ⟨.ro, 15, 0⟩] },
  { name := "CFG_SAVE", addr := 0x010060, dom := .fixed 0, mark := .p, cls := .d, fields := [⟨.sc, 31, 31⟩, ⟨.ro, 30, 28⟩, ⟨.rw, 5, 0⟩] },
  { name := "CFG_SAVE_VER", addr := 0x010064, dom := .fixed 0, mark := .p, cls := .d, fields := [⟨.rw, 31, 0⟩] },
  { name := "CFG_SAVE_DIGESTn", addr := 0x010070, dims := [(12, 0x4)], dom := .fixed 0, mark := .u, cls := .d, fields := [⟨.ro, 31, 0⟩] },
  { name := "CFG_OBJ_CTRL", addr := 0x0100a0, dom := .fixed 0, mark := .p, cls := .d, fields := [⟨.sc, 31, 31⟩, ⟨.sc, 30, 30⟩, ⟨.ro, 29, 28⟩, ⟨.rw, 7, 0⟩] },
  { name := "CFG_OBJ_SIZE", addr := 0x0100a4, dom := .fixed 0, mark := .p, cls := .d, fields := [⟨.rw, 23, 0⟩] },
  { name := "CFG_OBJ_DATA", addr := 0x0100a8, dom := .fixed 0, mark := .p, cls := .d, fields := [⟨.pw, 31, 0⟩] },
  { name := "CFG counters", addr := 0x010200, dims := [(6, 0x8)], dom := .fixed 0, mark := .u, cls := .d, pair := .lo, fields := [⟨.ro, 31, 0⟩] }]

/-- Rows of the CFG block, part 2. -/
def rowsCFG2 : List RegRow := [
  { name := "CFG counters", addr := 0x010204, dims := [(6, 0x8)], dom := .fixed 0, mark := .u, cls := .d, pair := .hi, fields := [⟨.ro, 31, 0⟩] }]

/-- Every row of the CFG block. -/
def rowsCFG : List RegRow := rowsCFG1 ++ rowsCFG2

/-- Rows of the PWR block. -/
def rowsPWR : List RegRow := [
  { name := "PWR_DOMn", addr := 0x020000, dims := [(50, 0x4)], dom := .fixed 0, clk := .fixed 2, mark := .p, cls := .c, reset := 0x00000002, fields := [⟨.rw, 1, 0⟩] },
  { name := "PWR_STATEn", addr := 0x020100, dims := [(50, 0x4)], dom := .fixed 0, clk := .fixed 2, mark := .u, cls := .d, resets := [0x00000002], fields := [⟨.ro, 27, 24⟩, ⟨.ro, 19, 16⟩, ⟨.ro, 7, 7⟩, ⟨.ro, 6, 6⟩, ⟨.ro, 5, 2⟩, ⟨.ro, 1, 0⟩] },
  { name := "PWR_REQ", addr := 0x020200, dom := .fixed 0, clk := .fixed 2, mark := .p, cls := .d, fields := [⟨.pw, 31, 31⟩, ⟨.pw, 28, 27⟩, ⟨.pw, 26, 24⟩, ⟨.pw, 9, 8⟩, ⟨.pw, 5, 0⟩] },
  { name := "PWR_REQ_STATUS", addr := 0x020204, dom := .fixed 0, clk := .fixed 2, mark := .u, cls := .d, fields := [⟨.ro, 31, 31⟩, ⟨.ro, 19, 16⟩, ⟨.ro, 5, 0⟩] },
  { name := "PWR_WOKEn", addr := 0x020210, dims := [(2, 0x4)], dom := .fixed 0, clk := .fixed 2, mark := .p, cls := .d, fields := [⟨.w1c, 31, 0⟩] },
  { name := "PWR_FAILn", addr := 0x020218, dims := [(2, 0x4)], dom := .fixed 0, clk := .fixed 2, mark := .p, cls := .d, fields := [⟨.w1c, 31, 0⟩] },
  { name := "PWR_ALARM", addr := 0x020220, dom := .fixed 0, clk := .fixed 2, mark := .p, cls := .d, fields := [⟨.w1c, 5, 5⟩, ⟨.w1c, 4, 4⟩, ⟨.w1c, 3, 3⟩, ⟨.w1c, 2, 2⟩, ⟨.w1c, 1, 1⟩, ⟨.w1c, 0, 0⟩] },
  { name := "PWR_ALARM_EN", addr := 0x020224, dom := .fixed 0, clk := .fixed 2, mark := .p, cls := .c, fields := [⟨.rw, 5, 0⟩] },
  { name := "PWR_LISTEN", addr := 0x020230, dom := .fixed 0, clk := .fixed 2, mark := .u, cls := .d, fields := [⟨.ro, 4, 0⟩] },
  { name := "PWR_WAKE_CFGm", addr := 0x020240, dom := .fixed 0, clk := .fixed 2, mark := .p, cls := .c, fields := [⟨.rw, 1, 0⟩, ⟨.rw, 3, 2⟩, ⟨.rw, 5, 4⟩, ⟨.rw, 7, 6⟩, ⟨.rw, 9, 8⟩, ⟨.rw, 11, 10⟩, ⟨.rw, 13, 12⟩, ⟨.rw, 15, 14⟩, ⟨.rw, 17, 16⟩, ⟨.rw, 19, 18⟩, ⟨.rw, 21, 20⟩, ⟨.rw, 23, 22⟩, ⟨.rw, 25, 24⟩, ⟨.rw, 27, 26⟩, ⟨.rw, 29, 28⟩, ⟨.rw, 31, 30⟩] },
  { name := "PWR_WAKE_CFGm", addr := 0x020244, dom := .fixed 0, clk := .fixed 2, mark := .p, cls := .c, fields := [⟨.rw, 1, 0⟩, ⟨.rw, 3, 2⟩, ⟨.rw, 5, 4⟩, ⟨.rw, 7, 6⟩, ⟨.rw, 9, 8⟩, ⟨.rw, 11, 10⟩, ⟨.rw, 13, 12⟩, ⟨.rw, 15, 14⟩] },
  { name := "PWR_WAKE_LAST", addr := 0x020248, dom := .fixed 0, clk := .fixed 2, mark := .u, cls := .d, fields := [⟨.ro, 31, 31⟩, ⟨.ro, 4, 0⟩] },
  { name := "PWR_PW_STATUS", addr := 0x020250, dom := .fixed 0, clk := .fixed 2, mark := .p, cls := .d, fields := [⟨.w1c, 1, 1⟩, ⟨.ro, 0, 0⟩] },
  { name := "PWR counters", addr := 0x020300, dims := [(6, 0x8)], dom := .fixed 0, clk := .fixed 2, mark := .u, cls := .d, pair := .lo, fields := [⟨.ro, 31, 0⟩] },
  { name := "PWR counters", addr := 0x020304, dims := [(6, 0x8)], dom := .fixed 0, clk := .fixed 2, mark := .u, cls := .d, pair := .hi, fields := [⟨.ro, 31, 0⟩] }]

/-- Rows of the CLK block. -/
def rowsCLK : List RegRow := [
  { name := "CLK_GATE", addr := 0x030000, dom := .fixed 0, mark := .p, cls := .c, reset := 0x01fffff8, fields := [⟨.rw, 24, 3⟩] },
  { name := "CLK_RUN", addr := 0x030010, dom := .fixed 0, mark := .u, cls := .d, reset := 0x00000007, fields := [⟨.ro, 24, 0⟩] },
  { name := "CLK_STATUS", addr := 0x030014, dom := .fixed 0, mark := .u, cls := .d, fields := [⟨.ro, 6, 6⟩, ⟨.ro, 5, 5⟩, ⟨.ro, 4, 4⟩, ⟨.ro, 3, 3⟩, ⟨.ro, 2, 0⟩] },
  { name := "CLK_ALARM", addr := 0x030020, dom := .fixed 0, mark := .p, cls := .d, fields := [⟨.w1c, 4, 4⟩, ⟨.w1c, 3, 3⟩, ⟨.w1c, 2, 2⟩, ⟨.w1c, 1, 1⟩, ⟨.w1c, 0, 0⟩] },
  { name := "CLK_ALARM_EN", addr := 0x030024, dom := .fixed 0, mark := .p, cls := .c, fields := [⟨.rw, 4, 0⟩] }]

/-- Rows of the ITM block. -/
def rowsITM : List RegRow := [
  { name := "ITM_FAULT_STATUS", addr := 0x040000, dom := .fixed 49, mark := .p, cls := .d, fields := [⟨.w1c, 17, 0⟩] },
  { name := "ITM_FAULT_ACTIVE", addr := 0x040004, dom := .fixed 49, mark := .u, cls := .d, fields := [⟨.ro, 17, 0⟩] },
  { name := "ITM_REACTm", addr := 0x040010, dom := .fixed 49, mark := .p, cls := .c, reset := 0x957aaf44, fields := [⟨.rw, 1, 0⟩, ⟨.rw, 3, 2⟩, ⟨.rw, 5, 4⟩, ⟨.rw, 7, 6⟩, ⟨.rw, 9, 8⟩, ⟨.rw, 11, 10⟩, ⟨.rw, 13, 12⟩, ⟨.rw, 15, 14⟩, ⟨.rw, 17, 16⟩, ⟨.rw, 19, 18⟩, ⟨.rw, 21, 20⟩, ⟨.rw, 23, 22⟩, ⟨.rw, 25, 24⟩, ⟨.rw, 27, 26⟩, ⟨.rw, 29, 28⟩, ⟨.rw, 31, 30⟩] },
  { name := "ITM_REACTm", addr := 0x040014, dom := .fixed 49, mark := .p, cls := .c, reset := 0x00000009, fields := [⟨.rw, 1, 0⟩, ⟨.rw, 3, 2⟩] },
  { name := "ITM_SAFE", addr := 0x040020, dom := .fixed 49, mark := .p, cls := .d, fields := [⟨.sc, 31, 31⟩, ⟨.w1c, 30, 30⟩, ⟨.ro, 5, 1⟩, ⟨.ro, 0, 0⟩] },
  { name := "ITM_STEST_CFG", addr := 0x040030, dom := .fixed 49, mark := .p, cls := .c, reset := 0x00000064, fields := [⟨.rw, 10, 0⟩] },
  { name := "ITM_BIST_STATUS", addr := 0x040038, dom := .fixed 49, mark := .u, cls := .d, fields := [⟨.ro, 31, 31⟩, ⟨.ro, 3, 3⟩, ⟨.ro, 2, 2⟩, ⟨.ro, 1, 1⟩, ⟨.ro, 0, 0⟩] },
  { name := "ITM_TEMPn", addr := 0x040040, dims := [(4, 0x4)], dom := .fixed 49, mark := .u, cls := .d, fields := [⟨.ro, 8, 0⟩] },
  { name := "ITM_TEMP_THR", addr := 0x040050, dom := .fixed 49, mark := .p, cls := .c, fields := [⟨.rw, 23, 16⟩, ⟨.rw, 7, 0⟩] },
  { name := "ITM_VMON_STATUS", addr := 0x040054, dom := .fixed 49, mark := .u, cls := .d, fields := [⟨.ro, 31, 31⟩, ⟨.ro, 8, 0⟩] },
  { name := "ITM_CMON_STATUS", addr := 0x040058, dom := .fixed 49, mark := .u, cls := .d, fields := [⟨.ro, 24, 0⟩] },
  { name := "ITM_WDOG_KICK", addr := 0x040060, dom := .fixed 49, mark := .s, cls := .d, fields := [⟨.sc, 1, 0⟩] },
  { name := "ITM_LOG_ADDR", addr := 0x040080, dom := .fixed 49, mark := .p, cls := .d, fields := [⟨.sc, 31, 31⟩, ⟨.ro, 30, 30⟩, ⟨.rw, 7, 0⟩] },
  { name := "ITM_LOG_DATAn", addr := 0x040084, dims := [(4, 0x4)], dom := .fixed 49, mark := .p, cls := .d, fields := [⟨.ro, 31, 0⟩] },
  { name := "ITM_LOG_STATUS", addr := 0x040094, dom := .fixed 49, mark := .p, cls := .d, fields := [⟨.ro, 31, 24⟩, ⟨.ro, 16, 8⟩] },
  { name := "ITM_RST_CAUSE", addr := 0x040100, dom := .fixed 0, mark := .p, cls := .d, reset := 0x00000300, fields := [⟨.ro, 31, 31⟩, ⟨.w1c, 30, 30⟩, ⟨.ro, 12, 8⟩, ⟨.rw, 7, 4⟩, ⟨.ro, 3, 0⟩] },
  { name := "ITM_PTRx_STATUS", addr := 0x040110, dims := [(2, 0x20)], dom := .fixed 0, mark := .p, cls := .d, fields := [⟨.ro, 31, 28⟩, ⟨.w1c, 27, 27⟩, ⟨.ro, 26, 26⟩, ⟨.ro, 5, 0⟩] },
  { name := "ITM_PTRx_CTRL", addr := 0x040114, dims := [(2, 0x20)], dom := .fixed 0, mark := .p, cls := .d, fields := [⟨.sc, 0, 0⟩] },
  { name := "ITM_PTRx_CFG", addr := 0x040118, dims := [(2, 0x20)], dom := .fixed 0, mark := .p, cls := .c, reset := 0x00000003, fields := [⟨.rw, 3, 0⟩] },
  { name := "ITM counters", addr := 0x040200, dims := [(22, 0x8)], dom := .fixed 49, mark := .u, cls := .d, pair := .lo, fields := [⟨.ro, 31, 0⟩] },
  { name := "ITM counters", addr := 0x040204, dims := [(22, 0x8)], dom := .fixed 49, mark := .u, cls := .d, pair := .hi, fields := [⟨.ro, 31, 0⟩] }]

/-- Rows of the NTU block, part 1. -/
def rowsNTU1 : List RegRow := [
  { name := "NTU_STATUS", addr := 0x050000, dom := .fixed 47, mark := .u, cls := .d, fields := [⟨.ro, 10, 10⟩, ⟨.ro, 9, 9⟩, ⟨.ro, 8, 8⟩, ⟨.ro, 7, 7⟩, ⟨.ro, 6, 6⟩, ⟨.ro, 5, 5⟩, ⟨.ro, 4, 4⟩, ⟨.ro, 3, 3⟩, ⟨.ro, 2, 0⟩] },
  { name := "NTU_CAP", addr := 0x050004, dom := .fixed 47, mark := .u, cls := .d, fields := [⟨.sc, 0, 0⟩] },
  { name := "NTU_CAP_FN", addr := 0x050008, dom := .fixed 47, mark := .u, cls := .d, pair := .lo, fields := [⟨.ro, 31, 0⟩] },
  { name := "NTU_CAP_FN", addr := 0x05000c, dom := .fixed 47, mark := .u, cls := .d, pair := .hi, fields := [⟨.ro, 15, 0⟩] },
  { name := "NTU_CAP_CIF", addr := 0x050010, dom := .fixed 47, mark := .u, cls := .d, fields := [⟨.ro, 25, 8⟩, ⟨.ro, 7, 0⟩] },
  { name := "NTU_CAP_SEC", addr := 0x050018, dom := .fixed 47, mark := .u, cls := .d, pair := .lo, fields := [⟨.ro, 31, 0⟩] },
  { name := "NTU_CAP_SEC", addr := 0x05001c, dom := .fixed 47, mark := .u, cls := .d, pair := .hi, fields := [⟨.ro, 15, 0⟩] },
  { name := "NTU_CAP_NS", addr := 0x050020, dom := .fixed 47, mark := .u, cls := .d, fields := [⟨.ro, 29, 0⟩] },
  { name := "NTU_HO_CFG", addr := 0x050040, dom := .fixed 47, mark := .p, cls := .c, reset := 0x0e100040, fields := [⟨.rw, 31, 16⟩, ⟨.rw, 10, 0⟩] },
  { name := "NTU_TIME_CFG", addr := 0x050044, dom := .fixed 47, mark := .p, cls := .c, reset := 0x03e803e8, fields := [⟨.rw, 31, 16⟩, ⟨.rw, 15, 0⟩] },
  { name := "NTU_HO_FREQ", addr := 0x050048, dom := .fixed 0, mark := .u, cls := .d, fields := [⟨.ro, 31, 0⟩] },
  { name := "NTU_TOD_CFGx", addr := 0x050050, dims := [(2, 0x4)], dom := .fixed 47, mark := .p, cls := .c, fields := [⟨.rw, 23, 0⟩] },
  { name := "NTU_ASYM", addr := 0x050058, dom := .fixed 47, mark := .p, cls := .c, reset := 0x13200000, fields := [⟨.rw, 31, 16⟩, ⟨.rw, 15, 0⟩] },
  { name := "NTU_TOD_ERR", addr := 0x05005c, dom := .fixed 47, mark := .u, cls := .d, fields := [⟨.ro, 31, 0⟩] },
  { name := "NTU_TOD_XERR", addr := 0x050060, dom := .fixed 47, mark := .u, cls := .d, fields := [⟨.ro, 31, 0⟩] },
  { name := "NTU_PPS_CFG", addr := 0x050070, dom := .fixed 47, mark := .p, cls := .c, reset := 0xa0000064, fields := [⟨.rw, 31, 31⟩, ⟨.rw, 30, 30⟩, ⟨.rw, 29, 29⟩, ⟨.rw, 28, 28⟩, ⟨.rw, 9, 0⟩] },
  { name := "NTU_PPSIN_FN", addr := 0x050074, dom := .fixed 47, mark := .u, cls := .d, fields := [⟨.ro, 31, 0⟩] },
  { name := "NTU_PPSIN_CIF", addr := 0x050078, dom := .fixed 47, mark := .u, cls := .d, fields := [⟨.ro, 25, 8⟩, ⟨.ro, 7, 0⟩] },
  { name := "NTU_PPSIN_ERR", addr := 0x05007c, dom := .fixed 47, mark := .u, cls := .d, fields := [⟨.ro, 31, 0⟩] },
  { name := "NTU_PTP_CFG", addr := 0x050080, dom := .fixed 47, mark := .p, cls := .c, reset := 0x00250f11, fields := [⟨.rw, 31, 24⟩, ⟨.rw, 23, 16⟩, ⟨.rw, 15, 15⟩, ⟨.rw, 14, 13⟩, ⟨.rw, 12, 12⟩, ⟨.rw, 11, 8⟩, ⟨.rw, 7, 4⟩, ⟨.rw, 3, 0⟩] },
  { name := "NTU_PTP_PORTS", addr := 0x050084, dom := .fixed 47, mark := .p, cls := .c, fields := [⟨.rw, 19, 0⟩] },
  { name := "NTU_XCFG", addr := 0x050090, dom := .fixed 47, mark := .p, cls := .c, reset := 0x00000100, fields := [⟨.rw, 9, 0⟩] },
  { name := "NTU_CGx", addr := 0x050094, dims := [(2, 0x4)], dom := .fixed 47, mark := .p, cls := .c, fields := [⟨.rw, 31, 31⟩, ⟨.rw, 30, 24⟩, ⟨.rw, 19, 0⟩] },
  { name := "NTU_ALARM", addr := 0x0500a0, dom := .fixed 47, mark := .p, cls := .d, fields := [⟨.w1c, 14, 14⟩, ⟨.w1c, 13, 13⟩, ⟨.w1c, 12, 12⟩, ⟨.w1c, 11, 11⟩, ⟨.w1c, 10, 10⟩, ⟨.w1c, 9, 9⟩, ⟨.w1c, 8, 8⟩, ⟨.w1c, 7, 7⟩, ⟨.w1c, 6, 6⟩, ⟨.w1c, 5, 5⟩, ⟨.w1c, 4, 4⟩, ⟨.w1c, 3, 3⟩, ⟨.w1c, 2, 2⟩, ⟨.w1c, 1, 1⟩, ⟨.w1c, 0, 0⟩] }]

/-- Rows of the NTU block, part 2. -/
def rowsNTU2 : List RegRow := [
  { name := "NTU_ALARM_EN", addr := 0x0500a4, dom := .fixed 47, mark := .p, cls := .c, fields := [⟨.rw, 14, 0⟩] },
  { name := "NTU_USER_EVT", addr := 0x0500a8, dom := .fixed 47, mark := .u, cls := .d, fields := [⟨.ro, 21, 16⟩, ⟨.ro, 15, 0⟩] },
  { name := "NTU_BND_FAIL", addr := 0x0500b0, dom := .fixed 47, mark := .u, cls := .d, fields := [⟨.ro, 31, 31⟩, ⟨.ro, 30, 30⟩, ⟨.ro, 12, 0⟩] },
  { name := "NTU_BND_FAIL_NS", addr := 0x0500b4, dom := .fixed 47, mark := .u, cls := .d, fields := [⟨.ro, 31, 0⟩] },
  { name := "NTU_BND_LOST", addr := 0x0500b8, dom := .fixed 47, mark := .u, cls := .d, fields := [⟨.ro, 3, 0⟩] },
  { name := "NTU_TBL_ADDR", addr := 0x050100, dom := .fixed 47, mark := .p, cls := .d, fields := [⟨.sc, 31, 31⟩, ⟨.ro, 30, 30⟩, ⟨.rw, 29, 29⟩, ⟨.rw, 28, 27⟩, ⟨.ro, 26, 24⟩, ⟨.rw, 8, 0⟩] },
  { name := "NTU_TBL_DATAn", addr := 0x050104, dims := [(4, 0x4)], dom := .fixed 47, mark := .p, cls := .d, fields := [⟨.rw, 31, 0⟩] },
  { name := "NTU counters", addr := 0x050200, dims := [(12, 0x8)], dom := .fixed 47, mark := .u, cls := .d, pair := .lo, fields := [⟨.ro, 31, 0⟩] },
  { name := "NTU counters", addr := 0x050204, dims := [(12, 0x8)], dom := .fixed 47, mark := .u, cls := .d, pair := .hi, fields := [⟨.ro, 31, 0⟩] }]

/-- Every row of the NTU block. -/
def rowsNTU : List RegRow := rowsNTU1 ++ rowsNTU2

/-- Rows of the TAL block, part 1. -/
def rowsTAL1 : List RegRow := [
  { name := "TAL_Gg_CTLc", addr := 0x060000, dims := [(24, 0x400), (8, 0x4)], dom := .fixed 48, mark := .p, cls := .c, fields := [⟨.rw, 31, 31⟩, ⟨.rw, 30, 30⟩, ⟨.rw, 26, 24⟩, ⟨.rw, 20, 8⟩, ⟨.rw, 7, 0⟩] },
  { name := "TAL_Gg_THRc", addr := 0x060020, dims := [(24, 0x400), (8, 0x4)], dom := .fixed 48, mark := .p, cls := .c, fields := [⟨.rw, 19, 0⟩] },
  { name := "TAL_Gg_CNTc", addr := 0x060040, dims := [(24, 0x400), (8, 0x8)], dom := .fixed 48, mark := .u, cls := .d, pair := .lo, fields := [⟨.rw, 31, 0⟩] },
  { name := "TAL_Gg_CNTc", addr := 0x060044, dims := [(24, 0x400), (8, 0x8)], dom := .fixed 48, mark := .u, cls := .d, pair := .hi, fields := [⟨.rw, 31, 0⟩] },
  { name := "TAL_Gg_CYC", addr := 0x060080, dims := [(24, 0x400)], dom := .fixed 48, mark := .u, cls := .d, pair := .lo, fields := [⟨.rw, 31, 0⟩] },
  { name := "TAL_Gg_CYC", addr := 0x060084, dims := [(24, 0x400)], dom := .fixed 48, mark := .u, cls := .d, pair := .hi, fields := [⟨.rw, 31, 0⟩] },
  { name := "TAL_Gg_CFG", addr := 0x060088, dims := [(24, 0x400)], dom := .fixed 48, mark := .p, cls := .c, fields := [⟨.rw, 0, 0⟩] },
  { name := "TAL_Gg_OVF", addr := 0x060090, dims := [(24, 0x400)], dom := .fixed 48, mark := .p, cls := .d, fields := [⟨.w1c, 8, 8⟩, ⟨.w1c, 7, 0⟩] },
  { name := "TAL_Gg_OVF_EN", addr := 0x060094, dims := [(24, 0x400)], dom := .fixed 48, mark := .p, cls := .c, fields := [⟨.rw, 8, 0⟩] },
  { name := "TAL_CTRL", addr := 0x066000, dom := .fixed 48, mark := .p, cls := .d, fields := [⟨.sc, 2, 2⟩, ⟨.sc, 1, 1⟩, ⟨.sc, 0, 0⟩] },
  { name := "TAL_STATUS", addr := 0x066004, dom := .fixed 48, mark := .u, cls := .d, fields := [⟨.ro, 31, 31⟩, ⟨.ro, 4, 0⟩] },
  { name := "TAL_CFG", addr := 0x066008, dom := .fixed 48, mark := .p, cls := .c, fields := [⟨.rw, 0, 0⟩] },
  { name := "TAL_SNAP_VIEW", addr := 0x066010, dom := .fixed 48, mark := .u, cls := .d, fields := [⟨.rw, 0, 0⟩] },
  { name := "TAL_SNAP_VALIDn", addr := 0x066014, dims := [(2, 0x4)], dom := .fixed 48, mark := .u, cls := .d, fields := [⟨.ro, 31, 0⟩] },
  { name := "TAL_SNAP_FN", addr := 0x066028, dom := .fixed 48, mark := .u, cls := .d, pair := .lo, fields := [⟨.ro, 31, 0⟩] },
  { name := "TAL_SNAP_FN", addr := 0x06602c, dom := .fixed 48, mark := .u, cls := .d, pair := .hi, fields := [⟨.ro, 15, 0⟩] },
  { name := "TAL_SNAP_CIF", addr := 0x066020, dom := .fixed 48, mark := .u, cls := .d, fields := [⟨.ro, 17, 0⟩] },
  { name := "TAL_SMP_W0", addr := 0x066030, dom := .fixed 48, mark := .u, cls := .d, fields := [⟨.ro, 31, 31⟩, ⟨.ro, 30, 30⟩, ⟨.ro, 28, 24⟩, ⟨.ro, 22, 20⟩, ⟨.ro, 18, 16⟩, ⟨.ro, 13, 0⟩] },
  { name := "TAL_SMP_W1", addr := 0x066034, dom := .fixed 48, mark := .u, cls := .d, fields := [⟨.ro, 27, 16⟩, ⟨.ro, 12, 0⟩] },
  { name := "TAL_SMP_W2", addr := 0x066038, dom := .fixed 48, mark := .u, cls := .d, fields := [⟨.ro, 31, 24⟩, ⟨.ro, 23, 23⟩, ⟨.ro, 17, 0⟩] },
  { name := "TAL_SMP_W3", addr := 0x06603c, dom := .fixed 48, mark := .u, cls := .d, fields := [⟨.ro, 31, 0⟩] },
  { name := "TAL_ALARM", addr := 0x066040, dom := .fixed 48, mark := .p, cls := .d, fields := [⟨.w1c, 3, 3⟩, ⟨.w1c, 2, 2⟩, ⟨.w1c, 1, 1⟩, ⟨.w1c, 0, 0⟩] },
  { name := "TAL_ALARM_EN", addr := 0x066044, dom := .fixed 48, mark := .p, cls := .c, fields := [⟨.rw, 3, 0⟩] },
  { name := "TAL_BW_CFG", addr := 0x066080, dom := .fixed 48, mark := .p, cls := .c, reset := 0x00001f40, fields := [⟨.rw, 31, 31⟩, ⟨.rw, 12, 0⟩] }]

/-- Rows of the TAL block, part 2. -/
def rowsTAL2 : List RegRow := [
  { name := "TAL_BW_SEQ", addr := 0x066084, dom := .fixed 48, mark := .u, cls := .d, fields := [⟨.ro, 31, 0⟩] },
  { name := "TAL_BW_RATEp", addr := 0x070000, dims := [(152, 0x8)], dom := .fixed 48, mark := .u, cls := .d, fields := [⟨.ro, 26, 0⟩] },
  { name := "TAL_BW_FRAMESp", addr := 0x070004, dims := [(152, 0x8)], dom := .fixed 48, mark := .u, cls := .d, fields := [⟨.ro, 31, 0⟩] },
  { name := "TAL counters", addr := 0x066100, dims := [(3, 0x8)], dom := .fixed 48, mark := .u, cls := .d, pair := .lo, fields := [⟨.ro, 31, 0⟩] },
  { name := "TAL counters", addr := 0x066104, dims := [(3, 0x8)], dom := .fixed 48, mark := .u, cls := .d, pair := .hi, fields := [⟨.ro, 31, 0⟩] }]

/-- Every row of the TAL block. -/
def rowsTAL : List RegRow := rowsTAL1 ++ rowsTAL2

/-- Rows of the TWE block. -/
def rowsTWE : List RegRow := [
  { name := "TWE_CFG", addr := 0x0c0000, dom := .fixed 7, mark := .p, cls := .c, reset := 0x110a0a01, fields := [⟨.rw, 28, 24⟩, ⟨.rw, 21, 16⟩, ⟨.rw, 13, 8⟩, ⟨.rw, 5, 5⟩, ⟨.rw, 4, 4⟩, ⟨.rw, 3, 3⟩, ⟨.rw, 2, 2⟩, ⟨.rw, 1, 0⟩] },
  { name := "TWE_FLOW_IDLE", addr := 0x0c0004, dom := .fixed 7, mark := .p, cls := .c, reset := 0x00000064, fields := [⟨.rw, 9, 0⟩] },
  { name := "TWE_STATUS", addr := 0x0c0010, dom := .fixed 7, mark := .u, cls := .d, reset := 0x00000002, fields := [⟨.ro, 6, 6⟩, ⟨.ro, 5, 5⟩, ⟨.ro, 4, 4⟩, ⟨.ro, 3, 3⟩, ⟨.ro, 2, 2⟩, ⟨.ro, 1, 1⟩, ⟨.ro, 0, 0⟩] },
  { name := "TWE_TRACK_OFS", addr := 0x0c0014, dom := .fixed 7, mark := .u, cls := .d, fields := [⟨.ro, 31, 0⟩] },
  { name := "TWE_TRACK_FREQ", addr := 0x0c0018, dom := .fixed 7, mark := .u, cls := .d, fields := [⟨.ro, 15, 0⟩] },
  { name := "TWE_TM_OFS", addr := 0x0c001c, dom := .fixed 7, mark := .u, cls := .d, fields := [⟨.ro, 31, 0⟩] },
  { name := "TWE_ALARM", addr := 0x0c0020, dom := .fixed 7, mark := .p, cls := .d, fields := [⟨.w1c, 9, 9⟩, ⟨.w1c, 8, 8⟩, ⟨.w1c, 7, 7⟩, ⟨.w1c, 6, 6⟩, ⟨.w1c, 5, 5⟩, ⟨.w1c, 4, 4⟩, ⟨.w1c, 3, 3⟩, ⟨.w1c, 2, 2⟩, ⟨.w1c, 1, 1⟩, ⟨.w1c, 0, 0⟩] },
  { name := "TWE_ALARM_EN", addr := 0x0c0024, dom := .fixed 7, mark := .p, cls := .c, fields := [⟨.rw, 9, 0⟩] },
  { name := "TWE_ALARM_STATE", addr := 0x0c0028, dom := .fixed 7, mark := .u, cls := .d, reset := 0x00000008, fields := [⟨.ro, 3, 3⟩, ⟨.ro, 2, 2⟩, ⟨.ro, 1, 1⟩] },
  { name := "TWE_FLOW_ADDR", addr := 0x0c0040, dom := .fixed 7, mark := .p, cls := .d, fields := [⟨.sc, 31, 31⟩, ⟨.ro, 30, 30⟩, ⟨.rw, 11, 0⟩] },
  { name := "TWE_FLOW_STATE", addr := 0x0c0044, dom := .fixed 7, mark := .p, cls := .d, fields := [⟨.ro, 31, 31⟩, ⟨.ro, 26, 24⟩, ⟨.ro, 23, 0⟩] },
  { name := "TWE_SELn", addr := 0x0c0100, dims := [(32, 0x4)], dom := .fixed 7, mark := .p, cls := .c, fields := [⟨.rw, 31, 31⟩, ⟨.rw, 30, 30⟩, ⟨.rw, 29, 29⟩, ⟨.rw, 28, 28⟩, ⟨.rw, 27, 24⟩, ⟨.rw, 9, 5⟩, ⟨.rw, 4, 0⟩] },
  { name := "TWE_SEL_STATUSn", addr := 0x0c0180, dims := [(32, 0x4)], dom := .fixed 7, mark := .u, cls := .d, fields := [⟨.ro, 3, 3⟩, ⟨.ro, 2, 2⟩, ⟨.ro, 1, 1⟩, ⟨.ro, 0, 0⟩] },
  { name := "TWE counters", addr := 0x0c0200, dims := [(17, 0x8)], dom := .fixed 7, mark := .u, cls := .d, pair := .lo, fields := [⟨.ro, 31, 0⟩] },
  { name := "TWE counters", addr := 0x0c0204, dims := [(17, 0x8)], dom := .fixed 7, mark := .u, cls := .d, pair := .hi, fields := [⟨.ro, 31, 0⟩] }]

/-- Rows of the CAR block. -/
def rowsCAR : List RegRow := [
  { name := "CAR_CFG", addr := 0x0d0000, dom := .fixed 8, mark := .p, cls := .c, reset := 0x00000003, fields := [⟨.rw, 1, 1⟩, ⟨.rw, 0, 0⟩] },
  { name := "CAR_STATUS", addr := 0x0d0010, dom := .fixed 8, mark := .u, cls := .d, fields := [⟨.ro, 25, 16⟩, ⟨.ro, 9, 0⟩] },
  { name := "CAR_ALARM", addr := 0x0d0020, dom := .fixed 8, mark := .p, cls := .d, fields := [⟨.w1c, 16, 16⟩, ⟨.w1c, 15, 15⟩, ⟨.w1c, 14, 14⟩, ⟨.w1c, 13, 13⟩, ⟨.w1c, 12, 12⟩, ⟨.w1c, 11, 11⟩, ⟨.w1c, 10, 10⟩, ⟨.w1c, 9, 9⟩, ⟨.w1c, 7, 7⟩, ⟨.w1c, 6, 6⟩, ⟨.w1c, 5, 5⟩, ⟨.w1c, 4, 4⟩, ⟨.w1c, 3, 3⟩, ⟨.w1c, 2, 2⟩, ⟨.w1c, 1, 1⟩, ⟨.w1c, 0, 0⟩] },
  { name := "CAR_ALARM_EN", addr := 0x0d0024, dom := .fixed 8, mark := .p, cls := .c, fields := [⟨.rw, 16, 0⟩] },
  { name := "CAR_FT_ADDR", addr := 0x0d0040, dom := .fixed 8, mark := .p, cls := .d, fields := [⟨.sc, 31, 31⟩, ⟨.ro, 30, 30⟩, ⟨.rw, 29, 29⟩, ⟨.rw, 11, 0⟩] },
  { name := "CAR_FT_DATA", addr := 0x0d0044, dom := .fixed 8, mark := .p, cls := .d, fields := [⟨.rw, 31, 0⟩] },
  { name := "CAR_FT_KEYS", addr := 0x0d0048, dom := .fixed 8, mark := .p, cls := .d, fields := [⟨.ro, 3, 3⟩, ⟨.ro, 2, 2⟩, ⟨.ro, 1, 1⟩, ⟨.ro, 0, 0⟩] },
  { name := "CAR counters", addr := 0x0d0200, dims := [(2, 0x100), (23, 0x8)], dom := .fixed 8, mark := .u, cls := .d, pair := .lo, fields := [⟨.ro, 31, 0⟩] },
  { name := "CAR counters", addr := 0x0d0204, dims := [(2, 0x100), (23, 0x8)], dom := .fixed 8, mark := .u, cls := .d, pair := .hi, fields := [⟨.ro, 31, 0⟩] }]

/-- Rows of the SRT block. -/
def rowsSRT : List RegRow := [
  { name := "SRT_CFG", addr := 0x100000, dom := .fixed 11, mark := .p, cls := .c, reset := 0x12b50401, fields := [⟨.rw, 31, 16⟩, ⟨.rw, 13, 8⟩, ⟨.rw, 0, 0⟩] },
  { name := "SRT_QCFG0", addr := 0x100004, dom := .fixed 11, mark := .p, cls := .c, fields := [⟨.rw, 28, 16⟩, ⟨.rw, 12, 0⟩] },
  { name := "SRT_QCFG1", addr := 0x100008, dom := .fixed 11, mark := .p, cls := .c, fields := [⟨.rw, 12, 0⟩] },
  { name := "SRT_EPOCH_STATUS", addr := 0x100010, dom := .fixed 11, mark := .u, cls := .d, reset := 0x00000002, fields := [⟨.ro, 25, 16⟩, ⟨.ro, 1, 1⟩, ⟨.ro, 0, 0⟩] },
  { name := "SRT_FRAG_STATUS", addr := 0x100014, dom := .fixed 11, mark := .u, cls := .d, fields := [⟨.ro, 8, 0⟩] },
  { name := "SRT_ALARM", addr := 0x100020, dom := .fixed 11, mark := .p, cls := .d, fields := [⟨.w1c, 9, 9⟩, ⟨.w1c, 8, 8⟩, ⟨.w1c, 7, 7⟩, ⟨.w1c, 6, 6⟩, ⟨.w1c, 5, 5⟩, ⟨.w1c, 4, 4⟩, ⟨.w1c, 3, 3⟩, ⟨.w1c, 2, 2⟩, ⟨.w1c, 1, 1⟩, ⟨.w1c, 0, 0⟩] },
  { name := "SRT_ALARM_EN", addr := 0x100024, dom := .fixed 11, mark := .p, cls := .c, fields := [⟨.rw, 9, 0⟩] },
  { name := "SRT_PARSE_LAST", addr := 0x100028, dom := .fixed 11, mark := .u, cls := .d, fields := [⟨.ro, 12, 8⟩, ⟨.ro, 2, 0⟩] },
  { name := "SRT_PSELn", addr := 0x100100, dims := [(8, 0x4)], dom := .fixed 11, mark := .p, cls := .c, fields := [⟨.rw, 3, 0⟩, ⟨.rw, 7, 4⟩, ⟨.rw, 11, 8⟩, ⟨.rw, 15, 12⟩, ⟨.rw, 19, 16⟩, ⟨.rw, 23, 20⟩, ⟨.rw, 27, 24⟩, ⟨.rw, 31, 28⟩] },
  { name := "SRT_PORT_CFGn", addr := 0x100200, dims := [(21, 0x4)], dom := .fixed 11, mark := .p, cls := .c, reset := 0x40000000, fields := [⟨.rw, 31, 30⟩, ⟨.rw, 29, 28⟩, ⟨.rw, 27, 26⟩, ⟨.rw, 12, 0⟩] },
  { name := "SRT_PORT_CFGn", addr := 0x100260, dims := [(2, 0x4)], dom := .fixed 11, mark := .p, cls := .c, reset := 0x40000000, fields := [⟨.rw, 31, 30⟩, ⟨.rw, 29, 28⟩, ⟨.rw, 27, 26⟩, ⟨.rw, 12, 0⟩] },
  { name := "SRT_PORT_TAGn", addr := 0x100280, dims := [(20, 0x4)], dom := .fixed 11, mark := .p, cls := .c, fields := [⟨.rw, 15, 0⟩] },
  { name := "SRT_UDHu_MATCH", addr := 0x100400, dims := [(4, 0x20)], dom := .fixed 11, mark := .p, cls := .c, fields := [⟨.rw, 31, 31⟩, ⟨.rw, 17, 16⟩, ⟨.rw, 15, 0⟩] },
  { name := "SRT_UDHu_LEN", addr := 0x100404, dims := [(4, 0x20)], dom := .fixed 11, mark := .p, cls := .c, fields := [⟨.rw, 31, 31⟩, ⟨.rw, 30, 30⟩, ⟨.rw, 29, 28⟩, ⟨.rw, 27, 22⟩, ⟨.rw, 7, 0⟩] },
  { name := "SRT_UDHu_EXTe", addr := 0x100408, dims := [(4, 0x20), (4, 0x4)], dom := .fixed 11, mark := .p, cls := .c, fields := [⟨.rw, 31, 16⟩, ⟨.rw, 5, 0⟩] },
  { name := "SRT_KPROFp_w", addr := 0x101000, dims := [(16, 0x40)], dom := .fixed 11, mark := .p, cls := .c, fields := [⟨.rw, 0, 0⟩] },
  { name := "SRT_KPROFp_w", addr := 0x101004, dims := [(16, 0x40), (9, 0x4)], dom := .fixed 11, mark := .p, cls := .c, fields := [⟨.rw, 7, 0⟩, ⟨.rw, 15, 8⟩, ⟨.rw, 23, 16⟩, ⟨.rw, 31, 24⟩] },
  { name := "SRT_KPROFp_w", addr := 0x101028, dims := [(16, 0x40)], dom := .fixed 11, mark := .p, cls := .c, fields := [⟨.rw, 7, 0⟩, ⟨.rw, 15, 8⟩] },
  { name := "SRT_TBL_ADDR", addr := 0x102000, dom := .fixed 11, mark := .p, cls := .d, fields := [⟨.sc, 31, 31⟩, ⟨.ro, 30, 30⟩, ⟨.rw, 29, 29⟩, ⟨.rw, 28, 27⟩, ⟨.ro, 26, 24⟩, ⟨.rw, 13, 0⟩] },
  { name := "SRT_TBL_DATAn", addr := 0x102004, dims := [(25, 0x4)], dom := .fixed 11, mark := .p, cls := .d, fields := [⟨.rw, 31, 0⟩] },
  { name := "SRT counters", addr := 0x103000, dims := [(16, 0x8)], dom := .fixed 11, mark := .u, cls := .d, pair := .lo, fields := [⟨.ro, 31, 0⟩] },
  { name := "SRT counters", addr := 0x103004, dims := [(16, 0x8)], dom := .fixed 11, mark := .u, cls := .d, pair := .hi, fields := [⟨.ro, 31, 0⟩] }]

/-- Rows of the COP block. -/
def rowsCOP : List RegRow := [
  { name := "COP_CFG", addr := 0x140000, dom := .fixed 24, mark := .p, cls := .c, reset := 0x000000ff, fields := [⟨.rw, 7, 0⟩] },
  { name := "COP_RM_CFG", addr := 0x140004, dom := .fixed 24, mark := .p, cls := .c, reset := 0x02000200, fields := [⟨.rw, 26, 16⟩, ⟨.rw, 10, 0⟩] },
  { name := "COP_STATUS", addr := 0x140010, dom := .fixed 24, mark := .u, cls := .d, reset := 0x00030000, fields := [⟨.ro, 25, 18⟩, ⟨.ro, 17, 0⟩] },
  { name := "COP_SHARED", addr := 0x140014, dom := .fixed 24, mark := .u, cls := .d, fields := [⟨.ro, 17, 0⟩] },
  { name := "COP_ALARM", addr := 0x140020, dom := .fixed 24, mark := .p, cls := .d, fields := [⟨.w1c, 5, 5⟩, ⟨.w1c, 4, 4⟩, ⟨.w1c, 3, 3⟩, ⟨.w1c, 2, 2⟩, ⟨.w1c, 1, 1⟩, ⟨.w1c, 0, 0⟩] },
  { name := "COP_ALARM_EN", addr := 0x140024, dom := .fixed 24, mark := .p, cls := .c, fields := [⟨.rw, 5, 0⟩] },
  { name := "COP_Q_ADDR", addr := 0x140040, dom := .fixed 24, mark := .p, cls := .d, fields := [⟨.sc, 31, 31⟩, ⟨.ro, 30, 30⟩, ⟨.rw, 29, 29⟩, ⟨.rw, 28, 28⟩, ⟨.rw, 12, 0⟩] },
  { name := "COP_Q_DATAn", addr := 0x140044, dims := [(2, 0x4)], dom := .fixed 24, mark := .p, cls := .d, fields := [⟨.rw, 31, 0⟩] },
  { name := "COP_Q_DATAn", addr := 0x14004c, dims := [(4, 0x4)], dom := .fixed 24, mark := .p, cls := .d, fields := [⟨.ro, 31, 0⟩] },
  { name := "COP counters", addr := 0x140200, dims := [(15, 0x8)], dom := .fixed 24, mark := .u, cls := .d, pair := .lo, fields := [⟨.ro, 31, 0⟩] },
  { name := "COP counters", addr := 0x140204, dims := [(15, 0x8)], dom := .fixed 24, mark := .u, cls := .d, pair := .hi, fields := [⟨.ro, 31, 0⟩] }]

/-- Rows of the DRV block. -/
def rowsDRV : List RegRow := [
  { name := "DRV_CFG", addr := 0x150000, dom := .fixed 25, mark := .p, cls := .c, fields := [⟨.rw, 4, 0⟩] },
  { name := "DRV_STATUS", addr := 0x150010, dom := .fixed 25, mark := .u, cls := .d, fields := [⟨.ro, 9, 0⟩] },
  { name := "DRV_ALARM", addr := 0x150020, dom := .fixed 25, mark := .p, cls := .d, fields := [⟨.w1c, 0, 0⟩] },
  { name := "DRV_ALARM_EN", addr := 0x150024, dom := .fixed 25, mark := .p, cls := .c, fields := [⟨.rw, 0, 0⟩] },
  { name := "DRV_TBL_ADDR", addr := 0x150040, dom := .fixed 25, mark := .p, cls := .d, fields := [⟨.sc, 31, 31⟩, ⟨.ro, 30, 30⟩, ⟨.rw, 29, 29⟩, ⟨.rw, 28, 27⟩, ⟨.ro, 26, 25⟩, ⟨.rw, 12, 0⟩] },
  { name := "DRV_TBL_DATAn", addr := 0x150044, dims := [(5, 0x4)], dom := .fixed 25, mark := .p, cls := .d, fields := [⟨.rw, 31, 0⟩] },
  { name := "DRV_TBL_DATAn", addr := 0x150058, dims := [(3, 0x4)], dom := .fixed 25, mark := .p, cls := .d, fields := [⟨.ro, 31, 0⟩] },
  { name := "DRV counters", addr := 0x150200, dims := [(4, 0x8)], dom := .fixed 25, mark := .u, cls := .d, pair := .lo, fields := [⟨.ro, 31, 0⟩] },
  { name := "DRV counters", addr := 0x150204, dims := [(4, 0x8)], dom := .fixed 25, mark := .u, cls := .d, pair := .hi, fields := [⟨.ro, 31, 0⟩] }]

/-- Rows of the TOL block. -/
def rowsTOL : List RegRow := [
  { name := "TOL_CFG", addr := 0x160000, dom := .fixed 26, mark := .p, cls := .c, fields := [] },
  { name := "TOL_ALARM", addr := 0x160020, dom := .fixed 26, mark := .p, cls := .d, fields := [⟨.w1c, 1, 1⟩, ⟨.w1c, 0, 0⟩] },
  { name := "TOL_ALARM_EN", addr := 0x160024, dom := .fixed 26, mark := .p, cls := .c, fields := [⟨.rw, 1, 0⟩] },
  { name := "TOL_TBL_ADDR", addr := 0x160040, dom := .fixed 26, mark := .p, cls := .d, fields := [⟨.sc, 31, 31⟩, ⟨.ro, 30, 30⟩, ⟨.rw, 29, 29⟩, ⟨.rw, 28, 28⟩, ⟨.rw, 12, 0⟩] },
  { name := "TOL_TBL_DATAn", addr := 0x160044, dims := [(7, 0x4)], dom := .fixed 26, mark := .p, cls := .d, fields := [⟨.rw, 31, 0⟩] },
  { name := "TOL counters", addr := 0x160200, dims := [(6, 0x8)], dom := .fixed 26, mark := .u, cls := .d, pair := .lo, fields := [⟨.ro, 31, 0⟩] },
  { name := "TOL counters", addr := 0x160204, dims := [(6, 0x8)], dom := .fixed 26, mark := .u, cls := .d, pair := .hi, fields := [⟨.ro, 31, 0⟩] }]

/-- Rows of the ETH block, part 1. -/
def rowsETH1 : List RegRow := [
  { name := "ETH_MODE_Un", addr := 0x180000, dims := [(2, 0x10000), (10, 0x800)], dom := .mac, mark := .p, cls := .c, reset := 0x00000640, fields := [⟨.rw, 10, 10⟩, ⟨.rw, 9, 8⟩, ⟨.rw, 6, 6⟩, ⟨.rw, 5, 4⟩, ⟨.rw, 2, 0⟩] },
  { name := "ETH_RXF_Un", addr := 0x180004, dims := [(2, 0x10000), (10, 0x800)], dom := .mac, mark := .p, cls := .c, reset := 0x200005f2, fields := [⟨.rw, 31, 31⟩, ⟨.rw, 30, 30⟩, ⟨.rw, 29, 29⟩, ⟨.rw, 13, 0⟩] },
  { name := "ETH_PAUSE_Un", addr := 0x180008, dims := [(2, 0x10000), (10, 0x800)], dom := .mac, mark := .p, cls := .c, reset := 0x0000ffff, fields := [⟨.rw, 31, 31⟩, ⟨.rw, 30, 30⟩, ⟨.rw, 15, 0⟩] },
  { name := "ETH_PAUSE_THR_Un", addr := 0x18000c, dims := [(2, 0x10000), (10, 0x800)], dom := .mac, mark := .p, cls := .c, reset := 0x00301000, fields := [⟨.rw, 31, 24⟩, ⟨.rw, 21, 16⟩, ⟨.rw, 13, 8⟩] },
  { name := "ETH_MM_Un", addr := 0x180010, dims := [(2, 0x10000), (10, 0x800)], dom := .mac, mark := .p, cls := .c, reset := 0x00000a00, fields := [⟨.rw, 15, 8⟩, ⟨.rw, 3, 2⟩, ⟨.rw, 1, 1⟩, ⟨.rw, 0, 0⟩] },
  { name := "ETH_TS_CFG_Un", addr := 0x180014, dims := [(2, 0x10000), (10, 0x800)], dom := .mac, mark := .p, cls := .c, reset := 0x00000003, fields := [⟨.rw, 1, 1⟩, ⟨.rw, 0, 0⟩] },
  { name := "ETH_SA_LO_Un", addr := 0x180020, dims := [(2, 0x10000), (10, 0x800)], dom := .fixed 0, mark := .p, cls := .c, fields := [⟨.rw, 31, 0⟩] },
  { name := "ETH_SA_HI_Un", addr := 0x180024, dims := [(2, 0x10000), (10, 0x800)], dom := .fixed 0, mark := .p, cls := .c, fields := [⟨.rw, 15, 0⟩] },
  { name := "ETH_LANEMAP_U0", addr := 0x180030, dom := .fixed 27, mark := .p, cls := .c, reset := 0x00000001, fields := [⟨.rw, 1, 1⟩, ⟨.rw, 0, 0⟩] },
  { name := "ETH_LANESTAT_U0", addr := 0x180034, dom := .fixed 27, mark := .u, cls := .d, reset := 0x000000e4, fields := [⟨.ro, 10, 10⟩, ⟨.ro, 9, 9⟩, ⟨.ro, 8, 8⟩, ⟨.ro, 7, 0⟩] },
  { name := "ETH_STATUS_Un", addr := 0x180040, dims := [(2, 0x10000), (10, 0x800)], dom := .mac, mark := .u, cls := .d, fields := [⟨.ro, 11, 11⟩, ⟨.ro, 10, 9⟩, ⟨.ro, 8, 8⟩, ⟨.ro, 7, 7⟩, ⟨.ro, 6, 6⟩, ⟨.ro, 5, 5⟩, ⟨.ro, 4, 4⟩, ⟨.ro, 3, 2⟩, ⟨.ro, 1, 1⟩, ⟨.ro, 0, 0⟩] },
  { name := "ETH_ALARM_Un", addr := 0x180050, dims := [(2, 0x10000), (10, 0x800)], dom := .mac, mark := .p, cls := .d, fields := [⟨.w1c, 7, 7⟩, ⟨.w1c, 6, 6⟩, ⟨.w1c, 5, 5⟩, ⟨.w1c, 4, 4⟩, ⟨.w1c, 3, 3⟩, ⟨.w1c, 2, 2⟩, ⟨.w1c, 1, 1⟩, ⟨.w1c, 0, 0⟩] },
  { name := "ETH_ALARM_EN_Un", addr := 0x180054, dims := [(2, 0x10000), (10, 0x800)], dom := .mac, mark := .p, cls := .c, fields := [⟨.rw, 7, 0⟩] },
  { name := "ETH_TSQ_STATUS_Un", addr := 0x180060, dims := [(2, 0x10000), (10, 0x800)], dom := .mac, mark := .u, cls := .d, fields := [⟨.ro, 6, 0⟩] },
  { name := "ETH_TSQ_W0_Un", addr := 0x180064, dims := [(2, 0x10000), (10, 0x800)], dom := .mac, mark := .p, cls := .d, fields := [⟨.ro, 31, 31⟩, ⟨.ro, 30, 30⟩, ⟨.ro, 19, 16⟩, ⟨.ro, 15, 0⟩] },
  { name := "ETH_TSQ_W1_Un", addr := 0x180068, dims := [(2, 0x10000), (10, 0x800)], dom := .mac, mark := .p, cls := .d, fields := [⟨.ro, 29, 0⟩] },
  { name := "ETH_TSQ_W2_Un", addr := 0x18006c, dims := [(2, 0x10000), (10, 0x800)], dom := .mac, mark := .p, cls := .d, fields := [⟨.ro, 25, 8⟩, ⟨.ro, 7, 0⟩] },
  { name := "ETH_WAKE_CFG_Un", addr := 0x180080, dims := [(2, 0x10000), (10, 0x800)], dom := .fixed 0, clk := .fixed 2, mark := .p, cls := .c, fields := [⟨.pw, 8, 8⟩, ⟨.pw, 7, 0⟩] },
  { name := "ETH_WAKE_STATUS_Un", addr := 0x180084, dims := [(2, 0x10000), (10, 0x800)], dom := .fixed 0, clk := .fixed 2, mark := .u, cls := .d, fields := [⟨.ro, 31, 16⟩, ⟨.ro, 3, 0⟩] },
  { name := "ETH_EXACT_LOk_Un", addr := 0x180100, dims := [(2, 0x10000), (10, 0x800), (32, 0x8)], dom := .mac, mark := .p, cls := .c, fields := [⟨.rw, 31, 0⟩] },
  { name := "ETH_EXACT_HIk_Un", addr := 0x180104, dims := [(2, 0x10000), (10, 0x800), (32, 0x8)], dom := .mac, mark := .p, cls := .c, fields := [⟨.rw, 31, 31⟩, ⟨.rw, 15, 0⟩] },
  { name := "ETH_MCHASHj_Un", addr := 0x180200, dims := [(2, 0x10000), (10, 0x800), (128, 0x4)], dom := .mac, mark := .p, cls := .c, fields := [⟨.rw, 31, 0⟩] },
  { name := "ETH_MDIOm_CFG", addr := 0x186000, dims := [(2, 0x10)], dom := .fixed 0, mark := .p, cls := .c, reset := 0x0000004a, fields := [⟨.rw, 10, 10⟩, ⟨.rw, 9, 0⟩] },
  { name := "ETH_MDIOm_CMD", addr := 0x186004, dims := [(2, 0x10)], dom := .fixed 0, mark := .p, cls := .d, fields := [⟨.sc, 31, 31⟩, ⟨.ro, 30, 30⟩, ⟨.ro, 29, 28⟩, ⟨.rw, 27, 27⟩, ⟨.rw, 25, 24⟩, ⟨.rw, 20, 16⟩, ⟨.rw, 4, 0⟩] }]

/-- Rows of the ETH block, part 2. -/
def rowsETH2 : List RegRow := [
  { name := "ETH_MDIOm_DATA", addr := 0x186008, dims := [(2, 0x10)], dom := .fixed 0, mark := .p, cls := .d, fields := [⟨.rw, 15, 0⟩] },
  { name := "ETH_WK_ADDR", addr := 0x186040, dom := .fixed 0, clk := .fixed 2, mark := .p, cls := .d, fields := [⟨.sc, 31, 31⟩, ⟨.ro, 30, 30⟩, ⟨.rw, 29, 29⟩, ⟨.rw, 20, 16⟩, ⟨.rw, 10, 8⟩, ⟨.rw, 4, 0⟩] },
  { name := "ETH_WK_DATA", addr := 0x186044, dom := .fixed 0, clk := .fixed 2, mark := .p, cls := .d, fields := [⟨.rw, 31, 0⟩] },
  { name := "ETH_WK_PW_STATUS", addr := 0x186048, dom := .fixed 0, clk := .fixed 2, mark := .p, cls := .d, fields := [⟨.w1c, 1, 1⟩, ⟨.ro, 0, 0⟩] },
  { name := "ETH_COM_ALARM", addr := 0x186050, dom := .fixed 41, mark := .p, cls := .d, fields := [⟨.w1c, 0, 0⟩] },
  { name := "ETH_COM_ALARM_EN", addr := 0x186054, dom := .fixed 41, mark := .p, cls := .c, fields := [⟨.rw, 0, 0⟩] },
  { name := "ETHP counters", addr := 0x180400, dims := [(2, 0x10000), (10, 0x800), (23, 0x8)], dom := .mac, mark := .u, cls := .d, pair := .lo, fields := [⟨.ro, 31, 0⟩] },
  { name := "ETHP counters", addr := 0x180404, dims := [(2, 0x10000), (10, 0x800), (23, 0x8)], dom := .mac, mark := .u, cls := .d, pair := .hi, fields := [⟨.ro, 31, 0⟩] },
  { name := "ETH counters", addr := 0x186100, dims := [(3, 0x8)], dom := .fixed 41, mark := .u, cls := .d, pair := .lo, fields := [⟨.ro, 31, 0⟩] },
  { name := "ETH counters", addr := 0x186104, dims := [(3, 0x8)], dom := .fixed 41, mark := .u, cls := .d, pair := .hi, fields := [⟨.ro, 31, 0⟩] }]

/-- Every row of the ETH block. -/
def rowsETH : List RegRow := rowsETH1 ++ rowsETH2

/-- Rows of the SDS block. -/
def rowsSDS : List RegRow := [
  { name := "SDS_LANEn_CFG", addr := 0x1a0000, dims := [(24, 0x400)], dom := .quad, mark := .p, cls := .c, fields := [⟨.rw, 2, 2⟩, ⟨.rw, 1, 0⟩] },
  { name := "SDS_LANEn_TXEQ", addr := 0x1a0004, dims := [(24, 0x400)], dom := .quad, mark := .p, cls := .d, reset := 0x00003000, fields := [⟨.pw, 21, 16⟩, ⟨.pw, 13, 8⟩, ⟨.pw, 5, 0⟩] },
  { name := "SDS_LANEn_STATUS", addr := 0x1a0010, dims := [(24, 0x400)], dom := .quad, mark := .u, cls := .d, fields := [⟨.ro, 31, 16⟩, ⟨.ro, 3, 3⟩, ⟨.ro, 2, 2⟩, ⟨.ro, 1, 1⟩, ⟨.ro, 0, 0⟩] },
  { name := "SDS_LANEn_PW_STATUS", addr := 0x1a0020, dims := [(24, 0x400)], dom := .quad, mark := .p, cls := .d, fields := [⟨.w1c, 1, 1⟩, ⟨.ro, 0, 0⟩] },
  { name := "SDS_LANEn_ALARM", addr := 0x1a0030, dims := [(24, 0x400)], dom := .quad, mark := .p, cls := .d, fields := [⟨.w1c, 1, 1⟩, ⟨.w1c, 0, 0⟩] },
  { name := "SDS_LANEn_ALARM_EN", addr := 0x1a0034, dims := [(24, 0x400)], dom := .quad, mark := .p, cls := .c, fields := [⟨.rw, 2, 2⟩, ⟨.rw, 1, 0⟩] }]

/-- Rows of the TDM block. -/
def rowsTDM : List RegRow := [
  { name := "TDM_CFG_Tn", addr := 0x1c0000, dims := [(32, 0x100)], dom := .trib, clk := .fixed 19, mark := .p, cls := .c, reset := 0x00048020, fields := [⟨.rw, 31, 31⟩, ⟨.rw, 30, 29⟩, ⟨.rw, 28, 28⟩, ⟨.rw, 27, 27⟩, ⟨.rw, 26, 26⟩, ⟨.rw, 25, 21⟩, ⟨.rw, 20, 20⟩, ⟨.rw, 19, 19⟩, ⟨.rw, 18, 18⟩, ⟨.rw, 17, 14⟩, ⟨.rw, 7, 0⟩] },
  { name := "TDM_CTRL_Tn", addr := 0x1c0004, dims := [(32, 0x100)], dom := .trib, clk := .fixed 19, mark := .p, cls := .d, fields := [⟨.pw, 1, 1⟩, ⟨.pw, 0, 0⟩] },
  { name := "TDM_STATUS_Tn", addr := 0x1c0010, dims := [(32, 0x100)], dom := .trib, clk := .fixed 19, mark := .u, cls := .d, reset := 0x00000006, fields := [⟨.ro, 8, 8⟩, ⟨.ro, 7, 7⟩, ⟨.ro, 6, 6⟩, ⟨.ro, 5, 5⟩, ⟨.ro, 4, 4⟩, ⟨.ro, 3, 3⟩, ⟨.ro, 2, 2⟩, ⟨.ro, 1, 1⟩, ⟨.ro, 0, 0⟩] },
  { name := "TDM_NCO_Tn", addr := 0x1c0014, dims := [(32, 0x100)], dom := .trib, clk := .fixed 19, mark := .u, cls := .d, reset := 0x20000000, fields := [⟨.ro, 31, 24⟩, ⟨.ro, 23, 0⟩] },
  { name := "TDM_ALARM_Tn", addr := 0x1c0020, dims := [(32, 0x100)], dom := .trib, clk := .fixed 19, mark := .p, cls := .d, reset := 0x00000003, fields := [⟨.w1c, 7, 7⟩, ⟨.w1c, 6, 6⟩, ⟨.w1c, 5, 5⟩, ⟨.w1c, 4, 4⟩, ⟨.w1c, 3, 3⟩, ⟨.w1c, 2, 2⟩, ⟨.w1c, 1, 1⟩, ⟨.w1c, 0, 0⟩] },
  { name := "TDM_ALARM_EN_Tn", addr := 0x1c0024, dims := [(32, 0x100)], dom := .trib, clk := .fixed 19, mark := .p, cls := .c, fields := [⟨.rw, 7, 0⟩] },
  { name := "TDM_PW_STATUSm", addr := 0x1c3000, dims := [(2, 0x4)], dom := .plus 42, clk := .fixed 19, mark := .p, cls := .d, fields := [⟨.w1c, 1, 1⟩, ⟨.ro, 0, 0⟩] },
  { name := "TDM counters", addr := 0x1c0080, dims := [(32, 0x100), (8, 0x8)], dom := .trib, clk := .fixed 19, mark := .u, cls := .d, pair := .lo, fields := [⟨.ro, 31, 0⟩] },
  { name := "TDM counters", addr := 0x1c0084, dims := [(32, 0x100), (8, 0x8)], dom := .trib, clk := .fixed 19, mark := .u, cls := .d, pair := .hi, fields := [⟨.ro, 31, 0⟩] }]

/-- Rows of the TSI block. -/
def rowsTSI : List RegRow := [
  { name := "TSI_CTRL", addr := 0x1d0000, dom := .fixed 44, mark := .p, cls := .d, fields := [⟨.sc, 0, 0⟩] },
  { name := "TSI_STATUS", addr := 0x1d0010, dom := .fixed 44, mark := .u, cls := .d, fields := [⟨.ro, 1, 1⟩, ⟨.ro, 0, 0⟩] },
  { name := "TSI_SWAP_FN", addr := 0x1d0014, dom := .fixed 44, mark := .u, cls := .d, fields := [⟨.ro, 31, 0⟩] },
  { name := "TSI_ALARM", addr := 0x1d0020, dom := .fixed 44, mark := .p, cls := .d, fields := [⟨.w1c, 4, 4⟩, ⟨.w1c, 3, 3⟩, ⟨.w1c, 2, 2⟩, ⟨.w1c, 1, 1⟩, ⟨.w1c, 0, 0⟩] },
  { name := "TSI_ALARM_EN", addr := 0x1d0024, dom := .fixed 44, mark := .p, cls := .c, fields := [⟨.rw, 4, 0⟩] },
  { name := "TSI_CM_ADDR", addr := 0x1d0040, dom := .fixed 44, mark := .p, cls := .d, fields := [⟨.sc, 31, 31⟩, ⟨.ro, 30, 30⟩, ⟨.rw, 29, 29⟩, ⟨.rw, 28, 27⟩, ⟨.ro, 26, 24⟩, ⟨.rw, 11, 0⟩] },
  { name := "TSI_CM_DATA", addr := 0x1d0044, dom := .fixed 44, mark := .p, cls := .d, fields := [⟨.rw, 31, 30⟩, ⟨.rw, 27, 16⟩, ⟨.rw, 7, 0⟩] },
  { name := "TSI counters", addr := 0x1d0200, dims := [(4, 0x8)], dom := .fixed 44, mark := .u, cls := .d, pair := .lo, fields := [⟨.ro, 31, 0⟩] },
  { name := "TSI counters", addr := 0x1d0204, dims := [(4, 0x8)], dom := .fixed 44, mark := .u, cls := .d, pair := .hi, fields := [⟨.ro, 31, 0⟩] }]

/-- Rows of the TCM block. -/
def rowsTCM : List RegRow := [
  { name := "TCM_CFG", addr := 0x1e0000, dom := .fixed 44, mark := .p, cls := .c, reset := 0x00000202, fields := [⟨.rw, 12, 8⟩, ⟨.rw, 4, 0⟩] },
  { name := "TCM_ALARM", addr := 0x1e0020, dom := .fixed 44, mark := .p, cls := .d, fields := [⟨.w1c, 6, 6⟩, ⟨.w1c, 5, 5⟩, ⟨.w1c, 4, 4⟩, ⟨.w1c, 3, 3⟩, ⟨.w1c, 2, 2⟩, ⟨.w1c, 1, 1⟩, ⟨.w1c, 0, 0⟩] },
  { name := "TCM_ALARM_EN", addr := 0x1e0024, dom := .fixed 44, mark := .p, cls := .c, fields := [⟨.rw, 6, 0⟩] },
  { name := "TCM_LOP_MAPx", addr := 0x1e0030, dims := [(2, 0x4)], dom := .fixed 44, mark := .u, cls := .d, fields := [⟨.ro, 31, 0⟩] },
  { name := "TCM_AIS_MAPx", addr := 0x1e0038, dims := [(2, 0x4)], dom := .fixed 44, mark := .u, cls := .d, fields := [⟨.ro, 31, 0⟩] },
  { name := "TCM_DS_SLOTs", addr := 0x1e0100, dims := [(64, 0x4)], dom := .fixed 44, mark := .p, cls := .c, fields := [⟨.rw, 31, 31⟩, ⟨.rw, 11, 0⟩] },
  { name := "TCM_US_SLOTs", addr := 0x1e0200, dims := [(64, 0x4)], dom := .fixed 44, mark := .p, cls := .c, fields := [⟨.rw, 31, 31⟩, ⟨.rw, 30, 30⟩, ⟨.rw, 4, 0⟩] },
  { name := "TCM_DS_STATs", addr := 0x1e0300, dims := [(64, 0x4)], dom := .fixed 44, mark := .u, cls := .d, reset := 0x40000000, fields := [⟨.ro, 31, 30⟩, ⟨.ro, 29, 29⟩, ⟨.ro, 28, 25⟩, ⟨.ro, 24, 24⟩, ⟨.ro, 23, 22⟩, ⟨.ro, 4, 0⟩] },
  { name := "TCM counters", addr := 0x1f0000, dims := [(64, 0x80), (9, 0x8)], dom := .fixed 44, mark := .u, cls := .d, pair := .lo, fields := [⟨.ro, 31, 0⟩] },
  { name := "TCM counters", addr := 0x1f0004, dims := [(64, 0x80), (9, 0x8)], dom := .fixed 44, mark := .u, cls := .d, pair := .hi, fields := [⟨.ro, 31, 0⟩] }]

/-- Rows of the CPH block. -/
def rowsCPH : List RegRow := [
  { name := "CPH_STATUS", addr := 0x200010, dom := .fixed 10, mark := .u, cls := .d, fields := [⟨.ro, 31, 31⟩, ⟨.ro, 9, 0⟩] },
  { name := "CPH_ALARM", addr := 0x200020, dom := .fixed 10, mark := .p, cls := .d, fields := [⟨.w1c, 1, 1⟩, ⟨.w1c, 0, 0⟩] },
  { name := "CPH_ALARM_EN", addr := 0x200024, dom := .fixed 10, mark := .p, cls := .c, fields := [⟨.rw, 1, 0⟩] },
  { name := "CPH_Qn_BASE", addr := 0x200100, dims := [(16, 0x20)], dom := .fixed 10, mark := .p, cls := .d, pair := .lo, fields := [⟨.rw, 31, 0⟩] },
  { name := "CPH_Qn_BASE", addr := 0x200104, dims := [(16, 0x20)], dom := .fixed 10, mark := .p, cls := .d, pair := .hi, fields := [⟨.rw, 31, 0⟩] },
  { name := "CPH_Qn_CFG", addr := 0x200108, dims := [(16, 0x20)], dom := .fixed 10, mark := .p, cls := .d, reset := 0x00010004, fields := [⟨.rw, 31, 31⟩, ⟨.rw, 30, 30⟩, ⟨.rw, 29, 24⟩, ⟨.rw, 19, 16⟩, ⟨.rw, 13, 8⟩, ⟨.rw, 3, 0⟩] },
  { name := "CPH_Qn_SLOTS", addr := 0x20010c, dims := [(16, 0x20)], dom := .fixed 10, mark := .p, cls := .d, reset := 0x03ff0000, fields := [⟨.rw, 25, 16⟩, ⟨.rw, 9, 0⟩] },
  { name := "CPH_Qn_STATUS", addr := 0x200110, dims := [(16, 0x20)], dom := .fixed 10, mark := .p, cls := .d, fields := [⟨.ro, 31, 30⟩, ⟨.ro, 11, 0⟩] },
  { name := "CPH counters", addr := 0x200400, dims := [(5, 0x8)], dom := .fixed 10, mark := .u, cls := .d, pair := .lo, fields := [⟨.ro, 31, 0⟩] },
  { name := "CPH counters", addr := 0x200404, dims := [(5, 0x8)], dom := .fixed 10, mark := .u, cls := .d, pair := .hi, fields := [⟨.ro, 31, 0⟩] }]

/-- Rows of the KEY block. -/
def rowsKEY : List RegRow := [
  { name := "KEY_CMD", addr := 0x210000, dom := .fixed 10, mark := .p, cls := .d, fields := [⟨.sc, 31, 31⟩, ⟨.ro, 30, 30⟩, ⟨.ro, 29, 27⟩, ⟨.rw, 26, 24⟩, ⟨.rw, 9, 0⟩] },
  { name := "KEY_BUF_IDX", addr := 0x210004, dom := .fixed 10, mark := .p, cls := .d, fields := [⟨.rw, 5, 0⟩] },
  { name := "KEY_BUF_DATA", addr := 0x210008, dom := .fixed 10, mark := .p, cls := .d, fields := [⟨.rw, 31, 0⟩] },
  { name := "KEY_INFO", addr := 0x21000c, dom := .fixed 10, mark := .p, cls := .d, fields := [⟨.ro, 31, 31⟩, ⟨.ro, 5, 4⟩, ⟨.ro, 3, 0⟩] },
  { name := "KEY_STATUS", addr := 0x210010, dom := .fixed 10, mark := .u, cls := .d, fields := [⟨.ro, 31, 31⟩, ⟨.ro, 25, 11⟩, ⟨.ro, 10, 0⟩] },
  { name := "KEY_IMPORT_CNT", addr := 0x210014, dom := .fixed 0, mark := .u, cls := .d, fields := [⟨.ro, 31, 0⟩] },
  { name := "KEY_ALARM", addr := 0x210020, dom := .fixed 10, mark := .p, cls := .d, fields := [⟨.w1c, 1, 1⟩, ⟨.w1c, 0, 0⟩] },
  { name := "KEY_ALARM_EN", addr := 0x210024, dom := .fixed 10, mark := .p, cls := .c, fields := [⟨.rw, 1, 0⟩] }]

/-- Rows of the HST block. -/
def rowsHST : List RegRow := [
  { name := "HST_PRIV", addr := 0x220000, dom := .fixed 41, mark := .s, cls := .c, fields := [⟨.rw, 0, 0⟩] },
  { name := "HST_PCI_ID", addr := 0x220004, dom := .fixed 41, mark := .u, cls := .d, fields := [⟨.ro, 31, 16⟩, ⟨.ro, 15, 0⟩] },
  { name := "HST_PCI_SUB", addr := 0x220008, dom := .fixed 41, mark := .p, cls := .c, fields := [⟨.rw, 31, 16⟩, ⟨.rw, 15, 0⟩] },
  { name := "HST_LINK", addr := 0x220010, dom := .fixed 41, mark := .u, cls := .d, fields := [⟨.ro, 7, 7⟩, ⟨.ro, 6, 6⟩, ⟨.ro, 5, 3⟩, ⟨.ro, 2, 1⟩, ⟨.ro, 0, 0⟩] },
  { name := "HST_ALARM", addr := 0x220020, dom := .fixed 41, mark := .p, cls := .d, fields := [⟨.w1c, 3, 3⟩, ⟨.w1c, 2, 2⟩, ⟨.w1c, 1, 1⟩, ⟨.w1c, 0, 0⟩] },
  { name := "HST_ALARM_EN", addr := 0x220024, dom := .fixed 41, mark := .p, cls := .c, fields := [⟨.rw, 3, 0⟩] },
  { name := "HST_TDM_BASE", addr := 0x220040, dom := .fixed 41, mark := .p, cls := .d, pair := .lo, fields := [⟨.rw, 31, 0⟩] },
  { name := "HST_TDM_BASE", addr := 0x220044, dom := .fixed 41, mark := .p, cls := .d, pair := .hi, fields := [⟨.rw, 31, 0⟩] },
  { name := "HST_TDM_CFG", addr := 0x220048, dom := .fixed 41, mark := .p, cls := .d, reset := 0x00000003, fields := [⟨.rw, 31, 31⟩, ⟨.rw, 3, 0⟩] },
  { name := "HST_TDM_FN", addr := 0x22004c, dom := .fixed 41, mark := .p, cls := .d, fields := [⟨.ro, 31, 0⟩] },
  { name := "HST_TXRn_BASE", addr := 0x220100, dims := [(16, 0x20)], dom := .fixed 41, mark := .p, cls := .d, pair := .lo, fields := [⟨.rw, 31, 0⟩] },
  { name := "HST_TXRn_BASE", addr := 0x220104, dims := [(16, 0x20)], dom := .fixed 41, mark := .p, cls := .d, pair := .hi, fields := [⟨.rw, 31, 0⟩] },
  { name := "HST_TXRn_BASE", addr := 0x220300, dims := [(16, 0x20)], dom := .fixed 41, mark := .p, cls := .d, pair := .lo, fields := [⟨.rw, 31, 0⟩] },
  { name := "HST_TXRn_BASE", addr := 0x220304, dims := [(16, 0x20)], dom := .fixed 41, mark := .p, cls := .d, pair := .hi, fields := [⟨.rw, 31, 0⟩] },
  { name := "HST_TXRn_CFG", addr := 0x220108, dims := [(16, 0x20)], dom := .fixed 41, mark := .p, cls := .d, reset := 0x00000004, fields := [⟨.rw, 31, 31⟩, ⟨.rw, 23, 16⟩, ⟨.rw, 13, 8⟩, ⟨.rw, 4, 0⟩] },
  { name := "HST_TXRn_CFG", addr := 0x220308, dims := [(16, 0x20)], dom := .fixed 41, mark := .p, cls := .d, reset := 0x00000004, fields := [⟨.rw, 31, 31⟩, ⟨.rw, 23, 16⟩, ⟨.rw, 13, 8⟩, ⟨.rw, 4, 0⟩] },
  { name := "HST_TXRn_STATUS", addr := 0x22010c, dims := [(16, 0x20)], dom := .fixed 41, mark := .p, cls := .d, fields := [⟨.ro, 31, 30⟩, ⟨.ro, 15, 0⟩] },
  { name := "HST_TXRn_STATUS", addr := 0x22030c, dims := [(16, 0x20)], dom := .fixed 41, mark := .p, cls := .d, fields := [⟨.ro, 31, 30⟩, ⟨.ro, 15, 0⟩] },
  { name := "HST counters", addr := 0x220600, dims := [(9, 0x8)], dom := .fixed 41, mark := .u, cls := .d, pair := .lo, fields := [⟨.ro, 31, 0⟩] },
  { name := "HST counters", addr := 0x220604, dims := [(9, 0x8)], dom := .fixed 41, mark := .u, cls := .d, pair := .hi, fields := [⟨.ro, 31, 0⟩] }]

/-- Rows of the MBX block. -/
def rowsMBX : List RegRow := [
  { name := "MBX_STATUSp", addr := 0x230000, dims := [(2, 0x4)], dom := .plus 45, mark := .u, cls := .d, fields := [⟨.ro, 31, 31⟩, ⟨.ro, 23, 16⟩, ⟨.ro, 15, 0⟩] },
  { name := "MBX_PTP_STATUS", addr := 0x230010, dom := .fixed 46, mark := .u, cls := .d, fields := [⟨.ro, 19, 0⟩] },
  { name := "MBX_ALARM", addr := 0x230020, dom := .fixed 46, mark := .p, cls := .d, fields := [⟨.w1c, 2, 2⟩, ⟨.w1c, 1, 1⟩, ⟨.w1c, 0, 0⟩] },
  { name := "MBX_ALARM_EN", addr := 0x230024, dom := .fixed 46, mark := .p, cls := .c, fields := [⟨.rw, 2, 0⟩] }]

/-- Rows of the NVM block. -/
def rowsNVM : List RegRow := [
  { name := "NVM_STATUS", addr := 0x240000, dom := .fixed 0, clk := .fixed 21, mark := .u, cls := .d, fields := [⟨.ro, 31, 30⟩, ⟨.ro, 29, 16⟩, ⟨.ro, 13, 0⟩] },
  { name := "NVM_ADDR", addr := 0x240004, dom := .fixed 0, clk := .fixed 21, mark := .p, cls := .d, fields := [⟨.pw, 27, 0⟩] },
  { name := "NVM_DATA", addr := 0x240008, dom := .fixed 0, clk := .fixed 21, mark := .p, cls := .d, fields := [⟨.pw, 31, 0⟩] },
  { name := "NVM_CMD", addr := 0x24000c, dom := .fixed 0, clk := .fixed 21, mark := .p, cls := .d, fields := [⟨.pw, 31, 31⟩, ⟨.ro, 30, 30⟩, ⟨.ro, 29, 27⟩, ⟨.pw, 26, 24⟩] },
  { name := "NVM_PW_STATUS", addr := 0x240010, dom := .fixed 0, clk := .fixed 21, mark := .p, cls := .d, fields := [⟨.w1c, 1, 1⟩, ⟨.ro, 0, 0⟩] },
  { name := "NVM_ALARM", addr := 0x240020, dom := .fixed 0, clk := .fixed 21, mark := .p, cls := .d, fields := [⟨.w1c, 1, 1⟩, ⟨.w1c, 0, 0⟩] },
  { name := "NVM_ALARM_EN", addr := 0x240024, dom := .fixed 0, clk := .fixed 21, mark := .p, cls := .c, fields := [⟨.rw, 1, 0⟩] }]

/-- Rows of the MGT block. -/
def rowsMGT : List RegRow := [
  { name := "MGT_CFG", addr := 0x250000, dom := .fixed 0, clk := .fixed 22, mark := .s, cls := .c, fields := [⟨.rw, 0, 0⟩] },
  { name := "MGT_STATUS", addr := 0x250004, dom := .fixed 0, clk := .fixed 22, mark := .u, cls := .d, fields := [⟨.ro, 1, 1⟩, ⟨.ro, 0, 0⟩] },
  { name := "MGT_ALARM", addr := 0x250010, dom := .fixed 0, clk := .fixed 22, mark := .p, cls := .d, fields := [⟨.w1c, 1, 1⟩, ⟨.w1c, 0, 0⟩] },
  { name := "MGT_ALARM_EN", addr := 0x250014, dom := .fixed 0, clk := .fixed 22, mark := .p, cls := .c, fields := [⟨.rw, 1, 0⟩] }]

/-- Rows of the LNx block. -/
def rowsLNx : List RegRow := [
  { name := "LNx_RX_CTRL", addr := 0x080000, dims := [(2, 0x20000)], dom := .perLine 1, mark := .p, cls := .c, reset := 0x00000043, fields := [⟨.rw, 7, 4⟩, ⟨.rw, 3, 3⟩, ⟨.rw, 2, 2⟩, ⟨.rw, 1, 1⟩, ⟨.rw, 0, 0⟩] },
  { name := "LNx_RX_STATUS", addr := 0x080004, dims := [(2, 0x20000)], dom := .perLine 3, mark := .u, cls := .d, reset := 0x00000004, fields := [⟨.ro, 7, 7⟩, ⟨.ro, 6, 6⟩, ⟨.ro, 5, 4⟩, ⟨.ro, 3, 3⟩, ⟨.ro, 2, 2⟩, ⟨.ro, 1, 1⟩, ⟨.ro, 0, 0⟩] },
  { name := "LNx_FOM", addr := 0x080008, dims := [(2, 0x20000)], dom := .perLine 1, mark := .u, cls := .d, fields := [⟨.ro, 19, 16⟩, ⟨.ro, 15, 8⟩, ⟨.ro, 7, 0⟩] },
  { name := "LNx_FOM_THR", addr := 0x08000c, dims := [(2, 0x20000)], dom := .perLine 1, mark := .p, cls := .c, reset := 0x00442040, fields := [⟨.rw, 23, 20⟩, ⟨.rw, 19, 16⟩, ⟨.rw, 15, 8⟩, ⟨.rw, 7, 0⟩] },
  { name := "LNx_BER_CFG", addr := 0x080010, dims := [(2, 0x20000)], dom := .perLine 3, mark := .p, cls := .c, reset := 0x00000046, fields := [⟨.rw, 7, 4⟩, ⟨.rw, 3, 0⟩] },
  { name := "LNx_BER_WIN", addr := 0x080014, dims := [(2, 0x20000)], dom := .perLine 3, mark := .p, cls := .c, reset := 0x00501f40, fields := [⟨.rw, 31, 16⟩, ⟨.rw, 15, 0⟩] },
  { name := "LNx_ALARM", addr := 0x080020, dims := [(2, 0x20000)], dom := .perLine 3, mark := .p, cls := .d, reset := 0x00000003, fields := [⟨.w1c, 12, 12⟩, ⟨.w1c, 11, 11⟩, ⟨.w1c, 10, 10⟩, ⟨.w1c, 9, 9⟩, ⟨.w1c, 8, 8⟩, ⟨.w1c, 7, 7⟩, ⟨.w1c, 6, 6⟩, ⟨.w1c, 5, 5⟩, ⟨.w1c, 4, 4⟩, ⟨.w1c, 3, 3⟩, ⟨.w1c, 2, 2⟩, ⟨.w1c, 1, 1⟩, ⟨.w1c, 0, 0⟩] },
  { name := "LNx_ALARM_EN", addr := 0x080024, dims := [(2, 0x20000)], dom := .perLine 3, mark := .p, cls := .c, fields := [⟨.rw, 12, 0⟩] },
  { name := "LNx_ALARM_STATE", addr := 0x080028, dims := [(2, 0x20000)], dom := .perLine 3, mark := .u, cls := .d, reset := 0x00000003, fields := [⟨.ro, 5, 0⟩] },
  { name := "LNx_HUNT_STATUS", addr := 0x080030, dims := [(2, 0x20000)], dom := .perLine 3, mark := .u, cls := .d, fields := [⟨.ro, 3, 3⟩, ⟨.ro, 2, 0⟩] },
  { name := "LNx_SYNC_CIF", addr := 0x080034, dims := [(2, 0x20000)], dom := .perLine 3, mark := .u, cls := .d, fields := [⟨.ro, 17, 0⟩] },
  { name := "LNx_STUFF_MAX", addr := 0x080038, dims := [(2, 0x20000)], dom := .perLine 3, mark := .u, cls := .d, fields := [⟨.ro, 12, 0⟩] },
  { name := "LNx_TX_CTRL", addr := 0x080040, dims := [(2, 0x20000)], dom := .perLine 2, mark := .p, cls := .c, reset := 0x00081001, fields := [⟨.rw, 21, 16⟩, ⟨.rw, 13, 8⟩, ⟨.rw, 1, 1⟩, ⟨.rw, 0, 0⟩] },
  { name := "LNx_TX_STATUS", addr := 0x080044, dims := [(2, 0x20000)], dom := .fixed 0, mark := .u, cls := .d, reset := 0x00000002, fields := [⟨.ro, 2, 2⟩, ⟨.ro, 1, 1⟩, ⟨.ro, 0, 0⟩] },
  { name := "LNx_PW_STATUS", addr := 0x080050, dims := [(2, 0x20000)], dom := .perLine 1, clk := .perLine 4, mark := .p, cls := .d, fields := [⟨.w1c, 1, 1⟩, ⟨.ro, 0, 0⟩] },
  { name := "LNx_EQ_CTRL", addr := 0x080060, dims := [(2, 0x20000)], dom := .perLine 1, clk := .perLine 4, mark := .p, cls := .d, fields := [⟨.pw, 10, 10⟩, ⟨.pw, 9, 9⟩, ⟨.pw, 8, 8⟩, ⟨.pw, 3, 0⟩] },
  { name := "LNx_EQ_DFEn", addr := 0x080064, dims := [(2, 0x20000), (3, 0x4)], dom := .perLine 1, clk := .perLine 4, mark := .p, cls := .d, fields := [⟨.pw, 7, 0⟩] },
  { name := "LNx_EQ_FFEn", addr := 0x080070, dims := [(2, 0x20000), (12, 0x4)], dom := .perLine 1, clk := .perLine 4, mark := .p, cls := .d, fields := [⟨.pw, 7, 0⟩] },
  { name := "LNx counters", addr := 0x080100, dims := [(2, 0x20000), (9, 0x8)], dom := .perLine 3, mark := .u, cls := .d, pair := .lo, fields := [⟨.ro, 31, 0⟩] },
  { name := "LNx counters", addr := 0x080104, dims := [(2, 0x20000), (9, 0x8)], dom := .perLine 3, mark := .u, cls := .d, pair := .hi, fields := [⟨.ro, 31, 0⟩] },
  { name := "LNx counters", addr := 0x080148, dims := [(2, 0x20000), (1, 0x8)], dom := .perLine 2, mark := .u, cls := .d, pair := .lo, fields := [⟨.ro, 31, 0⟩] },
  { name := "LNx counters", addr := 0x08014c, dims := [(2, 0x20000), (1, 0x8)], dom := .perLine 2, mark := .u, cls := .d, pair := .hi, fields := [⟨.ro, 31, 0⟩] },
  { name := "LNx counters", addr := 0x080150, dims := [(2, 0x20000), (4, 0x8)], dom := .perLine 3, mark := .u, cls := .d, pair := .lo, fields := [⟨.ro, 31, 0⟩] },
  { name := "LNx counters", addr := 0x080154, dims := [(2, 0x20000), (4, 0x8)], dom := .perLine 3, mark := .u, cls := .d, pair := .hi, fields := [⟨.ro, 31, 0⟩] }]

/-- Rows of the LPx block, part 1. -/
def rowsLPx1 : List RegRow := [
  { name := "LPx_FRAME_CFG", addr := 0x090400, dims := [(2, 0x20000)], dom := .perLine 3, mark := .p, cls := .c, reset := 0x00000101, fields := [⟨.rw, 31, 16⟩, ⟨.rw, 15, 8⟩, ⟨.rw, 1, 1⟩, ⟨.rw, 0, 0⟩] },
  { name := "LPx_HDR_STATUS", addr := 0x090404, dims := [(2, 0x20000)], dom := .perLine 3, mark := .u, cls := .d, fields := [⟨.ro, 31, 16⟩, ⟨.ro, 7, 7⟩, ⟨.ro, 6, 6⟩, ⟨.ro, 5, 5⟩, ⟨.ro, 4, 4⟩, ⟨.ro, 3, 0⟩] },
  { name := "LPx_AREA_STATUS", addr := 0x090408, dims := [(2, 0x20000)], dom := .perLine 3, mark := .u, cls := .d, fields := [⟨.ro, 29, 20⟩, ⟨.ro, 19, 13⟩, ⟨.ro, 12, 0⟩] },
  { name := "LPx_FRM_ALARM", addr := 0x090410, dims := [(2, 0x20000)], dom := .perLine 3, mark := .p, cls := .d, fields := [⟨.w1c, 11, 11⟩, ⟨.w1c, 10, 10⟩, ⟨.w1c, 9, 9⟩, ⟨.w1c, 8, 8⟩, ⟨.w1c, 7, 7⟩, ⟨.w1c, 6, 6⟩, ⟨.w1c, 5, 5⟩, ⟨.w1c, 4, 4⟩, ⟨.w1c, 3, 3⟩, ⟨.w1c, 2, 2⟩, ⟨.w1c, 1, 1⟩, ⟨.w1c, 0, 0⟩] },
  { name := "LPx_FRM_ALARM_EN", addr := 0x090414, dims := [(2, 0x20000)], dom := .perLine 3, mark := .p, cls := .c, fields := [⟨.rw, 11, 0⟩] },
  { name := "LPx_BURST_STATUS", addr := 0x090418, dims := [(2, 0x20000)], dom := .perLine 3, mark := .u, cls := .d, fields := [⟨.ro, 21, 18⟩, ⟨.ro, 17, 17⟩, ⟨.ro, 16, 16⟩, ⟨.ro, 15, 0⟩] },
  { name := "LPx_GRANT_STATUS", addr := 0x09041c, dims := [(2, 0x20000)], dom := .perLine 3, mark := .u, cls := .d, fields := [⟨.ro, 23, 16⟩, ⟨.ro, 11, 0⟩] },
  { name := "LPx_PROF_LENn", addr := 0x090420, dims := [(2, 0x20000), (4, 0x8)], dom := .perLine 3, mark := .u, cls := .d, resets := [0x00000020, 0x00000080, 0x00000200, 0x00000400], fields := [⟨.ro, 10, 0⟩] },
  { name := "LPx_PROF_PATn", addr := 0x090424, dims := [(2, 0x20000), (4, 0x8)], dom := .perLine 3, mark := .u, cls := .d, resets := [0xaaaaaaaa, 0xaaaaaaaa, 0xcccccccc, 0xcccccccc], fields := [⟨.ro, 31, 0⟩] },
  { name := "LPx_ALLOCn", addr := 0x090480, dims := [(2, 0x20000), (64, 0x4)], dom := .fixed 0, mark := .u, cls := .d, fields := [⟨.ro, 31, 31⟩, ⟨.ro, 30, 30⟩, ⟨.ro, 29, 29⟩, ⟨.ro, 13, 0⟩] },
  { name := "LPx_ACT_CFG", addr := 0x090000, dims := [(2, 0x20000)], dom := .perLine 3, mark := .p, cls := .c, reset := 0x00000803, fields := [⟨.rw, 31, 16⟩, ⟨.rw, 15, 8⟩, ⟨.rw, 1, 1⟩, ⟨.rw, 0, 0⟩] },
  { name := "LPx_ACT_TMR0", addr := 0x090004, dims := [(2, 0x20000)], dom := .perLine 3, mark := .p, cls := .c, reset := 0x04080508, fields := [⟨.rw, 27, 24⟩, ⟨.rw, 23, 16⟩, ⟨.rw, 15, 4⟩, ⟨.rw, 3, 0⟩] },
  { name := "LPx_ACT_TMR1", addr := 0x090008, dims := [(2, 0x20000)], dom := .perLine 3, mark := .p, cls := .c, reset := 0x07d00320, fields := [⟨.rw, 31, 16⟩, ⟨.rw, 15, 0⟩] },
  { name := "LPx_ACT_TMR2", addr := 0x09000c, dims := [(2, 0x20000)], dom := .perLine 3, mark := .p, cls := .c, reset := 0x003e8064, fields := [⟨.rw, 27, 12⟩, ⟨.rw, 11, 0⟩] },
  { name := "LPx_DRIFT_CFG", addr := 0x090010, dims := [(2, 0x20000)], dom := .perLine 3, mark := .p, cls := .c, reset := 0x000005dc, fields := [⟨.rw, 21, 0⟩] },
  { name := "LPx_SLEEP_CFG", addr := 0x090014, dims := [(2, 0x20000)], dom := .perLine 3, mark := .p, cls := .c, reset := 0x00000034, fields := [⟨.rw, 5, 5⟩, ⟨.rw, 4, 4⟩, ⟨.rw, 3, 0⟩] },
  { name := "LPx_ACT_STATUS", addr := 0x090100, dims := [(2, 0x20000)], dom := .fixed 0, mark := .u, cls := .d, fields := [⟨.ro, 10, 8⟩, ⟨.ro, 7, 7⟩, ⟨.ro, 6, 6⟩, ⟨.ro, 5, 4⟩, ⟨.ro, 3, 0⟩] },
  { name := "LPx_IDENT", addr := 0x090104, dims := [(2, 0x20000)], dom := .fixed 0, mark := .u, cls := .d, reset := 0xffc00000, fields := [⟨.ro, 31, 22⟩, ⟨.ro, 21, 0⟩] },
  { name := "LPx_EQD_ACC", addr := 0x090108, dims := [(2, 0x20000)], dom := .fixed 0, mark := .u, cls := .d, fields := [⟨.ro, 23, 0⟩] },
  { name := "LPx_SLEEP_WAKE", addr := 0x090110, dims := [(2, 0x20000)], dom := .fixed 0, mark := .u, cls := .d, pair := .lo, fields := [⟨.ro, 31, 0⟩] },
  { name := "LPx_SLEEP_WAKE", addr := 0x090114, dims := [(2, 0x20000)], dom := .fixed 0, mark := .u, cls := .d, pair := .hi, fields := [⟨.ro, 15, 0⟩] },
  { name := "LPx_SERIAL", addr := 0x090118, dims := [(2, 0x20000)], dom := .fixed 0, mark := .u, cls := .d, pair := .lo, fields := [⟨.ro, 31, 0⟩] },
  { name := "LPx_SERIAL", addr := 0x09011c, dims := [(2, 0x20000)], dom := .fixed 0, mark := .u, cls := .d, pair := .hi, fields := [⟨.ro, 31, 0⟩] },
  { name := "LPx_PROVE_STATUS", addr := 0x090120, dims := [(2, 0x20000)], dom := .fixed 0, mark := .u, cls := .d, fields := [⟨.ro, 31, 16⟩, ⟨.ro, 6, 4⟩, ⟨.ro, 3, 0⟩] }]

/-- Rows of the LPx block, part 2. -/
def rowsLPx2 : List RegRow := [
  { name := "LPx_SILENCE", addr := 0x090124, dims := [(2, 0x20000)], dom := .fixed 0, mark := .u, cls := .d, fields := [⟨.ro, 1, 1⟩, ⟨.ro, 0, 0⟩] },
  { name := "LPx_SIL_COUNT", addr := 0x090128, dims := [(2, 0x20000)], dom := .fixed 0, mark := .u, cls := .d, fields := [⟨.ro, 31, 0⟩] },
  { name := "LPx_LMS_STATUS", addr := 0x090130, dims := [(2, 0x20000)], dom := .fixed 0, mark := .u, cls := .d, fields := [⟨.ro, 20, 0⟩] },
  { name := "LPx_ACT_ALARM", addr := 0x090140, dims := [(2, 0x20000)], dom := .fixed 0, mark := .p, cls := .d, fields := [⟨.w1c, 13, 13⟩, ⟨.w1c, 12, 12⟩, ⟨.w1c, 11, 11⟩, ⟨.w1c, 10, 10⟩, ⟨.w1c, 9, 9⟩, ⟨.w1c, 8, 8⟩, ⟨.w1c, 7, 7⟩, ⟨.w1c, 6, 6⟩, ⟨.w1c, 5, 5⟩, ⟨.w1c, 4, 4⟩, ⟨.w1c, 3, 3⟩, ⟨.w1c, 2, 2⟩, ⟨.w1c, 1, 1⟩, ⟨.w1c, 0, 0⟩] },
  { name := "LPx_ACT_ALARM_EN", addr := 0x090144, dims := [(2, 0x20000)], dom := .fixed 0, mark := .p, cls := .c, fields := [⟨.rw, 13, 0⟩] },
  { name := "LPx_ACT_ALARM_STATE", addr := 0x090148, dims := [(2, 0x20000)], dom := .fixed 0, mark := .u, cls := .d, fields := [⟨.ro, 4, 4⟩, ⟨.ro, 3, 3⟩, ⟨.ro, 2, 2⟩] },
  { name := "LPx_KEY_ROLL_STATUS", addr := 0x090150, dims := [(2, 0x20000)], dom := .perLine 3, mark := .u, cls := .d, fields := [⟨.ro, 25, 25⟩, ⟨.ro, 24, 24⟩, ⟨.ro, 23, 12⟩, ⟨.ro, 11, 0⟩] },
  { name := "LPx_KEY_ROLL_FN", addr := 0x090154, dims := [(2, 0x20000)], dom := .perLine 3, mark := .u, cls := .d, fields := [⟨.ro, 31, 0⟩] },
  { name := "LPx counters", addr := 0x090600, dims := [(2, 0x20000), (18, 0x8)], dom := .perLine 3, mark := .u, cls := .d, pair := .lo, fields := [⟨.ro, 31, 0⟩] },
  { name := "LPx counters", addr := 0x090604, dims := [(2, 0x20000), (18, 0x8)], dom := .perLine 3, mark := .u, cls := .d, pair := .hi, fields := [⟨.ro, 31, 0⟩] },
  { name := "LPx counters", addr := 0x090200, dims := [(2, 0x20000), (19, 0x8)], dom := .perLine 3, mark := .u, cls := .d, pair := .lo, fields := [⟨.ro, 31, 0⟩] },
  { name := "LPx counters", addr := 0x090204, dims := [(2, 0x20000), (19, 0x8)], dom := .perLine 3, mark := .u, cls := .d, pair := .hi, fields := [⟨.ro, 31, 0⟩] }]

/-- Every row of the LPx block. -/
def rowsLPx : List RegRow := rowsLPx1 ++ rowsLPx2

/-- The rows of the block that holds a privileged address (Table 1.7), by its 64 KiB page. -/
def rowsOfPage : Nat → List RegRow
  | 0 => rowsTOP
  | 1 => rowsCFG
  | 2 => rowsPWR
  | 3 => rowsCLK
  | 4 => rowsITM
  | 5 => rowsNTU
  | 6 => rowsTAL
  | 7 => rowsTAL
  | 8 => rowsLNx
  | 10 => rowsLNx
  | 9 => rowsLPx
  | 11 => rowsLPx
  | 12 => rowsTWE
  | 13 => rowsCAR
  | 16 => rowsSRT
  | 20 => rowsCOP
  | 21 => rowsDRV
  | 22 => rowsTOL
  | 24 => rowsETH
  | 25 => rowsETH
  | 26 => rowsSDS
  | 28 => rowsTDM
  | 29 => rowsTSI
  | 30 => rowsTCM
  | 31 => rowsTCM
  | 32 => rowsCPH
  | 33 => rowsKEY
  | 34 => rowsHST
  | 35 => rowsMBX
  | 36 => rowsNVM
  | 37 => rowsMGT
  | _ => []

end Sys2Proof.Machine
end

