-- ==== Sys2Proof/Machine/PacketTypes.lean ====
section
/-! DEFINITION. The data of the packet path: configuration tables, the merge, reassembly, the classifier, the
cell buffer, the meters and the scheduler (spec chapters 5 to 8). -/

namespace Sys2Proof.Machine
open Sys2Proof

/-- An open gap of a merge flow: its first sequence, how many sequences it spans, and the ccy at which it opened (R120). -/
structure Gap where
  first : Nat
  span : Nat
  opened : Nat
  deriving DecidableEq, Repr

/-- The merge state of one flow (R120, R122): h, SEEN, the open gaps, and the ccy of the last packet accepted. -/
structure MergeFlow where
  h : Nat := 0
  seen : Bool := false
  gaps : List Gap := []
  last : Nat := 0
  deriving DecidableEq, Repr

/-- A complete packet on its way to the merge (R149), with the banks of the cells it holds in transit. -/
structure MergePkt where
  line : Line
  flow : Nat
  seq : Nat
  express : Bool
  cls : Nat
  bytes : List Byte
  banks : List Nat
  arrived : Nat
  deriving DecidableEq, Repr

/-- A reassembly context (R147, R148): its packet's key, the next FIDX, the bytes so far, the banks of its cells
and the ccy at which the line's frame FN_first + 4 begins. -/
structure Reasm where
  flow : Nat
  seq : Nat
  next : Nat
  bytes : List Byte
  banks : List Nat
  express : Bool
  expires : Nat
  deriving DecidableEq, Repr

/-- What rides with a packet beside its bytes: the transmit timestamp it asks for (0 none, 1 two-step, 2 one-step, R235),
and its ingress timestamp, FN[29:0], CIF and 1/256 ccy (R234). -/
structure Ride where
  request : Nat := 0
  stamp : Option (Nat × Nat × Nat) := none
  deriving DecidableEq, Repr

/-- A packet at the classifier input (R161, R176, R177): its ingress code, class tag, bytes, the banks of the cells
it holds, its pass and its epoch stamp, and the instant its first pass began. -/
structure Packet where
  ingress : Nat
  tag : Nat
  bytes : List Byte
  banks : List Nat := []
  pass : Nat := 0
  epoch : Nat := 0
  express : Bool := false
  ride : Ride := {}
  deriving DecidableEq, Repr

/-- A frame whose action is fixed, on its way through metering to admission (R174, R175, R191): the queue, the
meter it still needs, QMODE, the pre-colour and colour (0 green, 1 yellow, 2 red), the meter it named, its
upstream flow and line mode, its trap code, and the stamp it keeps for pass 2. -/
structure Acted where
  bytes : List Byte
  inLen : Nat
  queue : Nat
  qmode : Bool := false
  meter : Option Nat := none
  metered : Bool := true
  pre : Nat := 0
  colour : Nat := 0
  uflow : Nat := 0
  lmode : Nat := 0
  trap : Option Nat := none
  ingress : Nat := 0
  tag : Nat := 0
  epoch : Nat := 0
  recirc : Bool := false
  banks : List Nat := []
  ride : Ride := {}
  deriving DecidableEq, Repr

/-- A fragment entry (R180): its slot, key, expiry and stored action record; PASS 1 only. -/
structure FragEntry where
  slot : Nat
  src : Nat
  dst : Nat
  ident : Nat
  proto : Nat
  ingress : Nat
  expires : Nat
  action : Nat
  deriving DecidableEq, Repr

/-- The classifier's state beside its registers: the rule table in the banks and the store's copy, fragment
entries, action counters, the packets at its input, the round-robin source of each group, the frames whose
action is fixed, the epoch recorded by the configuration engine and the ccy of the last swap. -/
structure Sorter where
  rules : Map Nat := []
  copy : Map Nat := []
  frags : List FragEntry := []
  packets : Map DWord := []
  bytes : Map DWord := []
  input : List Packet := []
  turn : Map Nat := []
  acted : List Acted := []
  recorded : Nat := 0
  swapAt : Nat := 0
  deriving DecidableEq, Repr

/-- One stored frame (R183, R187): its number, bytes, the banks of its cells, the shared cells it took, the pool it
is charged to (0 MIN and shared, 1 recirculation, 2 mirror), and what its egress needs of it; `qid` is the queue it left. -/
structure Frame where
  id : Nat
  bytes : List Byte
  banks : List Nat
  shared : Nat := 0
  pool : Nat := 0
  uflow : Nat := 0
  lmode : Nat := 0
  seq : Nat := 0
  trap : Option Nat := none
  ingress : Nat := 0
  tag : Nat := 0
  epoch : Nat := 0
  colour : Nat := 0
  inLen : Nat := 0
  lost : Bool := false
  ride : Ride := {}
  qid : Nat := 0
  deriving DecidableEq, Repr

/-- A reference to a frame in a queue (R125, R127, R153, R158): the frame, the ccy it was enqueued, the bytes and
fragments already fixed, whether it is placed in a grant being built, and the FN a grant must exceed to carry
it again after a stuff overrun; `waitsE` tells that an express frame waits for an E grant (R155). -/
structure QRef where
  frame : Nat
  enq : Nat
  sent : Nat := 0
  fidx : Nat := 0
  taken : Bool := false
  afterFn : Option Nat := none
  waitsE : Bool := false
  deriving DecidableEq, Repr

/-- The packet buffer's state (R183 to R190): the frames, the references per queue, the drops counted per queue,
the shared cells in use, the next bank of the rotation, the next frame number and the upstream sequence of each
flow (R124). -/
structure Cooper where
  frames : List Frame := []
  queues : Map (List QRef) := []
  drops : Map Nat := []
  cells : Map Nat := []
  shared : Nat := 0
  nextBank : Nat := 0
  nextId : Nat := 0
  seqs : Map Nat := []
  deriving DecidableEq, Repr

/-- A meter's buckets in 2^-24 bytes, the ccy to which they have accrued, and its byte counters per colour (R192 to R194). -/
structure Meter where
  c : Nat := 0
  e : Nat := 0
  seen : Nat := 0
  green : DWord := 0
  yellow : DWord := 0
  red : DWord := 0
  deriving DecidableEq, Repr

/-- A shaper's buckets in 2^-24 bytes, which may be below 0, and the ccy to which they have accrued (R198). -/
structure Shaper where
  c : Int := 0
  p : Int := 0
  seen : Nat := 0
  deriving DecidableEq, Repr

/-- The turn of a node's level in DWRR: the child it is at and whether that child's turn has begun (R200). -/
structure Turn where
  child : Nat := 0
  begun : Bool := false
  deriving DecidableEq, Repr

/-- The scheduler's state: shapers, deficits and pending costs by child key, turns by node and level, and the
frame selected for each egress that has not taken it yet. A child key is `8192 * table + index`, with
table 0 for queues, 1 for subscriber nodes, 2 for service nodes and 3 for ports. -/
structure Drover where
  shapers : Map Shaper := []
  deficits : Map Int := []
  owed : Map Nat := []
  turns : Map Turn := []
  chosen : List (Nat × Frame) := []
  deriving DecidableEq, Repr

/-- A carriage frame placed in a grant being built (R153, R155): the data byte at which it starts, the queue and
frame it comes from (a bulk item when there is no queue, idle fill when `flow` is 0xFFF), the offset, the packet bytes it
carries and its bytes as sent, its SEQ and FIDX, whether it ends its packet, and whether it is fixed (R156). -/
structure PlacedFrame where
  start : Nat
  queue : Option Nat
  frame : Nat
  offset : Nat
  len : Nat
  wire : List Byte
  flow : Nat
  fidx : Nat
  last : Bool
  fixed : Bool := false
  deriving DecidableEq, Repr

/-- A bulk packet on its way up (R150): its number, its bytes after the bulk header, whether it is a line
message (whose MIC is added for the grant that carries it), its object type, the bytes and fragments fixed,
whether it is the ATTEST object, and the FN a grant must exceed to carry it again. -/
structure BulkItem where
  id : Nat
  message : Bool
  type : Nat
  bytes : List Byte
  sent : Nat := 0
  fidx : Nat := 0
  taken : Bool := false
  attest : Bool := false
  afterFn : Option Nat := none
  deriving DecidableEq, Repr

end Sys2Proof.Machine
end

