-- ==== Sys2Proof/Machine/PortTypes.lean ====
section
/-! DEFINITION. The data of the Ethernet ports, the host interface, the cipher service and the key store (spec chapters 9 and
12). -/

namespace Sys2Proof.Machine
open Sys2Proof

/-- A frame in transmission on an Ethernet port (R219, R227): its length with FCS, where the present fragment starts in
it, the ccy at which that fragment's preamble began, whether it belongs to the express class, whether it was preempted
before, and whether it ends with an inverted FCS. -/
structure TxFrame where
  total : Nat
  base : Nat := 0
  start : Nat
  express : Bool := false
  cut : Bool := false
  bad : Bool := false
  deriving DecidableEq, Repr

/-- A transmit timestamp (R236): messageType, sequenceId, FN[29:0], CIF, 1/256 ccy, and whether entries were lost before it. -/
structure TsEntry where
  gap : Bool
  type : Nat
  seq : Nat
  fn : Nat
  cif : Nat
  frac : Nat
  deriving DecidableEq, Repr

/-- An Ethernet port's state beside its registers (R214 to R236): the frame in transmission and the preempted one, the ccy from
which the next may start, the frame being rebuilt from fragments with the next fragment count, the verifies sent, the
timestamp queue and whether an entry was lost since the last one stored. -/
structure EthPort where
  tx : Option TxFrame := none
  parked : Option TxFrame := none
  ready : Nat := 0
  rebuild : Option (List Byte × Nat) := none
  tries : Nat := 0
  stamps : List TsEntry := []
  gap : Bool := false
  deriving DecidableEq, Repr

/-- How a received frame came (R226, R228): whole, as the first fragment of a preempted frame, as a continuation fragment
with its count and whether more follow, or as a verify or respond mPacket. -/
inductive MmPart where
  | whole
  | initial
  | continuation (count : Nat) (more : Bool)
  | verify
  | respond
  deriving DecidableEq, Repr

/-- What arrives at an Ethernet port (R216): the bytes from the destination address through the FCS (of a fragment, without its
mCRC), how they came, whether the link fell during it, whether a code group or block was invalid, the fraction of
its timestamp, and the FEC codewords corrected and uncorrectable in it. -/
structure RxFrame where
  bytes : List Byte
  part : MmPart := .whole
  cutOff : Bool := false
  code : Bool := false
  frac : Nat := 0
  fecCorr : Nat := 0
  fecUnc : Nat := 0
  deriving DecidableEq, Repr

/-- What the PCS of a port reports (R213, R214): its synchronisation or lock, auto-negotiation complete, the speed an SGMII
PHY reports, the two fault levels, and for each of the port's lanes its signal detect, CDR lock and lock. -/
structure LinkReport where
  sync : Bool
  an : Bool := false
  speed : Nat := 2
  localFault : Bool := false
  remoteFault : Bool := false
  lanes : List (Bool × Bool × Bool) := []
  deriving DecidableEq, Repr

/-- A ring's or cipher queue's state beside its registers (R299 to R301, R310): the producer index, whether the present pass is
an even one counted from 0, the ccy of its last message, and whether a request for its vector waits. -/
structure Ring where
  prod : Nat := 0
  even : Bool := true
  last : Option Nat := none
  waits : Bool := false
  deriving DecidableEq, Repr

/-- The host interface's state beside its registers (R294 to R307): the rings and queues by doorbell page, the ring or queue
whose turn is next and the requests left in a queue's turn, the MSI-X table by word and the pending bits, Bus Master
Enable, the host channels read for a frame and those sent in the last two. -/
structure HostState where
  rings : Map Ring := []
  txTurn : Nat := 0
  queueTurn : Nat := 0
  left : Nat := 0
  msix : Map Word := []
  pba : Nat := 0
  busMaster : Bool := false
  tdmIn : Option (Nat × List Byte) := none
  tdmOut : List (Nat × List (Option Byte)) := []
  deriving DecidableEq, Repr

/-- A host key slot (R312): TYPE, USAGE and the key. -/
structure KeySlot where
  type : Nat
  usage : Nat
  key : List Byte
  deriving DecidableEq, Repr

/-- The key store (R312 to R314): the host slots, the 256 bytes of KEY_BUF, and the number of the import pair if there is one.
`imports` counts the XPUB commands ever issued and lies in non-volatile memory. -/
structure KeyStore where
  slots : Map (Option KeySlot) := []
  buf : Map Byte := []
  pair : Option Nat := none
  imports : Nat := 0
  deriving DecidableEq, Repr

/-- A PCIe configuration request (R294, R295): a read or a write of a configuration register. -/
structure ConfigRequest where
  write : Bool
  reg : Nat
  data : Word := 0
  deriving DecidableEq, Repr

/-- What resets the host interface (R296). -/
inductive LinkLoss where
  | linkDown | hotReset | fundamental
  deriving DecidableEq, Repr

/-- A DMA read that failed, if one did: at the descriptors or requests, or at the data (R303, R310). -/
inductive DmaFault where
  | none | fetch | data
  deriving DecidableEq, Repr

end Sys2Proof.Machine
end

