-- ==== Sys2Proof/Syntax.lean ====
section
/-! DEFINITION. The commands of the terminal: one constructor per row of spec/opcode_table.json, in its order. Each docstring
is the row's rule and summary; the operands are what the row's sub-events in spec/95_what_each_step_holds.md take from outside. -/

namespace Sys2Proof
open Sys2Proof.Machine

/-- The commands. -/
inductive Instr where
  /-- R416: PORST_N held low for at least 10 µs resets the whole terminal as at power-on. -/
  | powerOnReset
  /-- R417: VDD_AON falling below 0.60 V with PORST_N high resets the terminal in full, and it restarts when VDD_AON returns. -/
  | aonBrownout
  /-- R321: Once PORST_N has risen and HOLD_OSC and REFCLK are present, start-up runs OTP read, self-tests, firmware
  check and configuration check, then sets READY. -/
  | startup (r : BootReport)
  /-- R348: A write to a register that has no row of its own is judged for privilege, lock and off block, and then takes
  effect per its access code. -/
  | registerWrite (m : Master) (a : Nat) (v : Word)
  /-- R23: A write of 1 clears status bits, and an MSI-X message follows when an enabled bit is left set. -/
  | w1cWrite (m : Master) (a : Nat) (v : Word)
  /-- R350: A masked write changes only the bits whose mask bit is 1. -/
  | maskedWrite (m : Master) (a : Nat) (mask data : BitVec 16)
  /-- R333: A write to a class C register or its shadow is staged in the configuration store. -/
  | shadowWrite (m : Master) (a : Nat) (v : Word)
  /-- R351: A read of an LO word returns the low word and latches the high word for that master. -/
  | pairLoRead (m : Master) (a : Nat)
  /-- R351: A read of an HI word returns that master's latch, or the present high word when nothing is latched. -/
  | pairHiRead (m : Master) (a : Nat)
  /-- R351: A write of an LO word goes into the master's hold. -/
  | pairLoWrite (m : Master) (a : Nat) (v : Word)
  /-- R351: A write of an HI word writes the high word and the held low word in one ccy. -/
  | pairHiWrite (m : Master) (a : Nat) (v : Word)
  /-- R352: A write to a slow window completes at once and sets BUSY, or is discarded with WR_DROP while BUSY. -/
  | postedWrite (m : Master) (a : Nat) (v : Word)
  /-- R352: The slow domain takes a posted write, and BUSY falls. -/
  | postedWriteTaken (w : PostedWindow)
  /-- R283: An armed event slot fires in the ccy in which NT reaches its instant. -/
  | eventFire
  /-- R282: An NTU table write with ARM = 1 arms an event slot unless it is refused. -/
  | slotArm (m : Master) (i : BitVec 9) (w0 w1 w2 w3 : Word)
  /-- R282: An NTU table write with ARM = 0 frees an event slot. -/
  | slotFree (m : Master) (i : BitVec 9)
  /-- R292: An NTU table 1 write stages an express latency requirement. -/
  | requirementWrite (m : Master) (i : BitVec 9) (w : Word)
  /-- R292: An NTU table 2 write stages an express-grant expectation. -/
  | expressGrantWrite (m : Master) (i : BitVec 9) (w0 w1 : Word)
  /-- R292: An NTU table read returns a slot, requirement, grant expectation or bound entry. -/
  | ntuTableRead (m : Master) (t : BitVec 2) (i : BitVec 9)
  /-- R291: NTU_CAP captures NT and ToD in one ccy. -/
  | ntCapture (m : Master)
  /-- R334: A write of CFG_COMMIT_HI freezes the staged values into a pending commit and starts its checks, or refuses it
  at once. -/
  | commitRequest (m : Master) (fn : BitVec 48) (next : Bool)
  /-- R285: The feasibility checks end, and the commit becomes pending or is refused. -/
  | commitCheckEnd
  /-- R335: A pending commit writes its frozen values into every powered block in one ccy and arms its schedule. -/
  | commitApply
  /-- R336: CFG_CTRL.CANCEL cancels every pending commit. -/
  | commitCancel (m : Master)
  /-- R333: CFG_CTRL.DISCARD sets every shadow and staged entry back to its post-commit value. -/
  | stagedDiscard (m : Master)
  /-- R331: A CFG_ROOT_BIND GO from the management SPI binds the operator root hashes into OTP. -/
  | rootBind (m : Master) (programmed : Bool)
  /-- R337: CFG_OBJ_CTRL.START begins a host-delivered object and discards one in progress. -/
  | objectStart (m : Master) (type : BitVec 8) (size : BitVec 24)
  /-- R337: CFG_OBJ_CTRL.END completes a host-delivered object and starts its checks. -/
  | objectEnd (m : Master)
  /-- R338: A completed full configuration image that passes is written to the unused slot, and it may become a commit. -/
  | configImageDelivered (src : Option Line) (otpFails : Bool)
  /-- R337: A completed delta that passes becomes a commit at APPLY_FN. -/
  | configDeltaDelivered (src : Option Line)
  /-- R337: A completed firmware image that passes is written to the unused firmware slot. -/
  | firmwareDelivered (src : Option Line) (otpFails : Bool)
  /-- R339: CFG_SAVE.PREPARE builds an image of the committed configuration in staging. -/
  | savePrepare (m : Master) (rollback : BitVec 6) (version : Word)
  /-- R339: Preparation ends, the digest is shown, and STATE becomes 2. -/
  | saveReady
  /-- R339: A delivered save signature is checked, and the prepared image is written to the unused slot. -/
  | saveSignature (src : Option Line) (otpFails : Bool)
  /-- R343: NVM_CMD op 1 reads a flash word. -/
  | nvmReadWord (m : Master) (a : BitVec 28)
  /-- R343: NVM_CMD op 2 programs a flash word, unless the region is protected. -/
  | nvmProgramWord (m : Master) (a : BitVec 28) (v : Word)
  /-- R343: NVM_CMD op 3 erases a 64 KiB sector, unless the region is protected. -/
  | nvmEraseSector (m : Master) (a : BitVec 28)
  /-- R343: A flash command completes, and DONE and ERR are set. -/
  | nvmCmdDone (failed : Bool)
  /-- R340: Management SPI command 0x02 writes a register. -/
  | mgtWrite (a : BitVec 24) (v : Word)
  /-- R340: Management SPI command 0x0B reads a register. -/
  | mgtRead (a : BitVec 24)
  /-- R340: Management SPI command 0x05 returns the status byte. -/
  | mgtStatus
  /-- R340: An unlisted command byte ends the transfer with 0xFF and sets CMD_ERR. -/
  | mgtBadCommand (cmd : BitVec 8)
  /-- R344: Each pair increments BEAT every 1 ms and updates LOAD. -/
  | fwHeartbeat (load0 load1 : Nat)
  /-- R402: Pair 1 copies new log entries to flash within 100 ms. -/
  | faultLogCopy (failed : Bool)
  /-- R35: No transitions, or SD showing no signal, for 2 µs raises LOS, clears RX_READY and FN_VALID, and enters Hunt. -/
  | losRise (x : Line) (bySd : Bool)
  /-- R35: 125 µs of signal from every source in use clears LOS. -/
  | losClear (x : Line) (sd : Bool)
  /-- R32: The receiver locks the CDR, tries the 16 CTLE codes, keeps the best and sets RX_READY. -/
  | acquisition (x : Line) (foms : List (BitVec 8)) (taps : List (BitVec 8))
  /-- R32: The CDR has not locked 1.5 ms after LOS cleared, and acquisition starts again. -/
  | acquisitionRestart (x : Line)
  /-- R33: LOF lasting 4 frames without a new candidate starts a new acquisition. -/
  | lofReacquire (x : Line)
  /-- R31: A new background FOM value enters LNx_FOM every 4 frames. -/
  | fomUpdate (x : Line) (fom : BitVec 8)
  /-- R33: A posted equaliser write holds its stage at the written values. -/
  | eqOverrideWrite (m : Master) (x : Line) (k : BitVec 4) (v : Word)
  /-- R42: A sync-field match, or the field at an expected position, drives the frame delineation machine. -/
  | syncField (x : Line) (pos : Nat) (inv : Bool) (errors : BitVec 7) (hdr : List Byte) (cif : Nat)
  /-- R46: At a deep-sleep wake FN, one candidate opens at the predicted position, and Sync is declared or REACQ_FAIL is set. -/
  | directedReacq (x : Line) (e0 : BitVec 7) (h0 : List Byte) (e1 : BitVec 7) (h1 : List Byte)
  /-- R57: A downstream frame is destuffed, descrambled, decoded and split into header, BWmap, messages, containers and
  packet area. -/
  | downstreamFrame (x : Line) (r : FrameRx)
  /-- R48: At the end of an SD or SF window, the alarm clears when the window's errors are low enough. -/
  | berWindowEnd (x : Line) (sf : Bool)
  /-- R74: A PROFILE message sets the preamble profiles. -/
  | profile (x : Line) (m : Msg) (ps : List Profile)
  /-- R93: A TID_ASSIGN carrying the serial number gives the line a TID and enters or stays in Ranging. -/
  | tidAssign (x : Line) (m : Msg) (serial tid : Nat)
  /-- R98: An EQD_ASSIGN sets EqD from its effective FN and moves Ranging to Proving. -/
  | eqdAssign (x : Line) (m : Msg) (eqd fn : Nat)
  /-- R98: An EQD_ADJUST adds a signed delta to EqD at its effective FN, or is refused. -/
  | eqdAdjust (x : Line) (m : Msg) (delta : BitVec 32) (fn : Nat)
  /-- R78: A new EqD governs grants from frames at and after its effective FN. -/
  | eqdTakeEffect (x : Line)
  /-- R74: An ALLOC_ASSIGN binds or unbinds alloc IDs to allocation ports. -/
  | allocAssign (x : Line) (m : Msg) (n : Nat) (es : List AllocEntry)
  /-- R100: A NONCE in Proving starts the proof: ephemeral key, attestation and signing. -/
  | nonce (x : Line) (m : Msg) (nonce : List Byte)
  /-- R100: Signing ends, the leaf is recorded, and the ATTEST object is sent in default-allocation grants. -/
  | attestSigned (x : Line) (recorded : Bool)
  /-- R101: A completed head-end proof object is checked; on success, keys are derived and ACK is sent. -/
  | headEndProof (x : Line)
  /-- R151: A BULK_ANNOUNCE starts a new downstream object on the line, or is refused. -/
  | bulkAnnounce (x : Line) (m : Msg) (type size : Nat) (hash : List Byte)
  /-- R110: A KEY_ROLL derives the next generation's keys for a flow range, or is refused. -/
  | keyRoll (x : Line) (m : Msg) (first last gen fn : Nat)
  /-- R110: At CIF 0 of FN A + 16, the old generation's keys are erased and K advances. -/
  | keyRollOverlapEnd (x : Line)
  /-- R111: A SLEEP_GRANT schedules a doze or deep sleep, or is refused. -/
  | sleepGrant (x : Line) (m : Msg) (mode start wake : Nat)
  /-- R112: At the start FN, the line stops taking grants and its sleep domains go down. -/
  | sleepStart (x : Line)
  /-- R272: A TOD message sets or corrects ToD, is used for comparison, or is ignored. -/
  | tod (x : Line) (m : Msg) (fn sec ns : Nat)
  /-- R106: An EMERGENCY_STOP naming the serial number silences the line. -/
  | emergencyStop (x : Line) (m : Msg) (serial : Nat) (written : Bool)
  /-- R106: At the end of any burst in progress, the line enters Silenced, clears its identity and writes a silence record. -/
  | silenceEntry (x : Line) (written : Bool)
  /-- R106: A failed silence-record write is retried every 100 ms, 8 times. -/
  | silenceRecordRetry (x : Line) (written : Bool)
  /-- R108: A SILENCE_RELEASE starts a 100 ms wait for the release object. -/
  | silenceRelease (x : Line) (m : Msg) (serial size : Nat)
  /-- R108: A completed release object is verified, and on success the silence record is deleted. -/
  | silenceReleaseObject (x : Line)
  /-- R108: No release object within 800 frames counts a release failure. -/
  | silenceReleaseTimeout (x : Line)
  /-- R93: A DEACTIVATE naming the serial number clears the identity and returns to Listening. -/
  | deactivate (x : Line) (m : Msg) (serial : Nat)
  /-- R346: A REG_ACCESS message is queued for pair 1, or ignored when the queue is full. -/
  | regAccess (x : Line) (m : Msg) (n : Nat) (es : List RegEntry)
  /-- R346: Pair 1 runs the entries under master code 3 or 4 and sends REG_REPLY. -/
  | regAccessRun (x : Line)
  /-- R109: No accepted unicast message for LOM_TO seconds raises LOM. -/
  | lomTimeout (x : Line)
  /-- R93: ANN_WAIT expires without TID_ASSIGN, and the backoff grows. -/
  | annWaitExpiry (x : Line)
  /-- R93: RANGE_TO expires, and the line clears its identity and returns to Listening. -/
  | rangeToExpiry (x : Line)
  /-- R101: PROVE_TO expires, and the proof fails with RESULT 8. -/
  | proveToExpiry (x : Line)
  /-- R93: HOLD expires in Holding, and the identity is cleared. -/
  | holdExpiry (x : Line)
  /-- R93: The announce hold-off ends, allowing Announcing. -/
  | announceHoldoffEnd (x : Line)
  /-- R95: In an accepted announce grant, the terminal sends ANNOUNCE at a random delay, or skips. -/
  | announce (x : Line)
  /-- R97: In a default-allocation grant in Ranging, the terminal sends RANGING_RESP. -/
  | rangingResp (x : Line)
  /-- R79: At a grant's transmit instant, the burst is sent: preamble, delimiter, codeword groups and terminator. -/
  | upstreamBurst (x : Line)
  /-- R118: At the next CIF 0, the active line changes to the fit line or reverts. -/
  | activeLineSwitch
  /-- R118: The preferred line fit for WTR seconds triggers a revert of the active line. -/
  | actWtrExpiry
  /-- R120: A complete packet is accepted or discarded as duplicate by sequence and gaps. -/
  | mergePacket
  /-- R120: TWE_FLOW_ADDR.GO reads a flow's merge state. -/
  | mergeStateRead (m : Master) (flow : BitVec 12)
  /-- R121: A gap open for 2 ms closes. -/
  | gapExpiry (flow : Nat)
  /-- R122: A flow idle for TWE_FLOW_IDLE ms has SEEN cleared. -/
  | flowIdleExpiry (flow : Nat)
  /-- R127: At CIF 0, references older than AGE_LIMIT at the queue heads are released. -/
  | referenceAgeing
  /-- R129: Each frame updates D and the frequency of the other line, and raises or clears SKEW and FREQ. -/
  | trackUpdate (d ppb : Int) (paired : Bool)
  /-- R130: On loss of the master line, the core relocks to the other line, or enters holdover. -/
  | tmSwitch
  /-- R131: TM_LINE qualifying for WTR seconds switches the time master back. -/
  | tmRevert
  /-- R133: A container pair switches side after HOLDOFF, or reverts after WTR. -/
  | selSwitch (k : Nat)
  /-- R251: At CIF 0 of n + DLY, or n + SEL_DLY, the slot payload of FN n is delivered to the TSI. -/
  | containerDelivery
  /-- R141: A carriage frame's header is checked, its flow filtered, its tag verified, and its fragment reassembled. -/
  | carriageFrame (x : Line) (hdr : List Byte) (hdrErrored : Bool) (body : List Byte) (bodyErrored : Bool)
  /-- R148: A context incomplete at frame FN_first + 4 is discarded. -/
  | reasmTimeout (x : Line)
  /-- R151: A bulk segment is accepted into the object in progress, or discarded. -/
  | bulkSegment (x : Line)
  /-- R143: CAR_FT_ADDR GO with WRITE stages a flow-table entry. -/
  | flowTableWrite (m : Master) (flow : BitVec 12) (entry : Word)
  /-- R143: CAR_FT_ADDR GO without WRITE reads the active entry and key presence. -/
  | flowTableRead (m : Master) (flow : BitVec 12)
  /-- R156: A rebuild of an open codeword completes and places staged frames. -/
  | codewordRebuild (x : Line) (k : CellCheck)
  /-- R156: At 960 ccy before its first word, a codeword's contents become final and the frames' costs are charged. -/
  | codewordCommit (x : Line)
  /-- R157: An express frame is staged for the next E grant and triggers a rebuild. -/
  | expressStage (x : Line) (p : Nat)
  /-- R163: A packet's parse starts in its rotation turn, its key is built and looked up, and its action is fixed. -/
  | classify (ecc : Bool)
  /-- R180: A fragment entry whose lifetime ends is freed. -/
  | fragEntryAged
  /-- R178: An SRT table write of a rule entry is applied or refused by epoch. -/
  | ruleEntryWrite (m : Master) (i : BitVec 14) (ws : List Word)
  /-- R181: An SRT table read returns a rule entry. -/
  | ruleEntryRead (m : Master) (i : BitVec 14)
  /-- R181: An SRT table read returns a fragment entry. -/
  | fragEntryRead (m : Master) (i : BitVec 14)
  /-- R182: An SRT table read returns an action counter. -/
  | actionCounterRead (m : Master) (i : BitVec 14)
  /-- R181: An SRT table write to an action counter clears it. -/
  | actionCounterClear (m : Master) (i : BitVec 14)
  /-- R193: A frame is coloured by its meter, which takes tokens and applies ACT_G, ACT_Y or ACT_R. -/
  | meterUpdate
  /-- R187: A complete frame is admitted to its queues, or refused, against MIN, MAX and the shared pool. -/
  | admission
  /-- R200: An egress asking for a frame gets one by express priority, shaping, priority and DWRR. -/
  | schedulerSelect (p : Nat)
  /-- R207: COP_Q_ADDR GO with WRITE stages a queue admission entry. -/
  | queueEntryWrite (m : Master) (q : BitVec 13) (ws : List Word)
  /-- R207: COP_Q_ADDR GO without WRITE reads a queue entry and may clear its drop count. -/
  | queueEntryRead (m : Master) (q : BitVec 13) (clr : Bool)
  /-- R207: TOL_TBL_ADDR GO with WRITE stages a meter entry. -/
  | meterEntryWrite (m : Master) (i : BitVec 13) (ws : List Word)
  /-- R207: TOL_TBL_ADDR GO reads a meter entry with its buckets. -/
  | meterEntryRead (m : Master) (i : BitVec 13)
  /-- R207: TOL_TBL_ADDR GO reads a meter's byte counters. -/
  | meterCounterRead (m : Master) (i : BitVec 13)
  /-- R207: A write to a meter's byte counters clears them. -/
  | meterCounterClear (m : Master) (i : BitVec 13)
  /-- R197: DRV_TBL_ADDR GO with WRITE stages a queue, node or port entry. -/
  | schedEntryWrite (m : Master) (t : BitVec 2) (i : BitVec 13) (ws : List Word)
  /-- R207: DRV_TBL_ADDR GO reads a scheduler entry with its dynamic state. -/
  | schedEntryRead (m : Master) (t : BitVec 2) (i : BitVec 13)
  /-- R216: A received frame is checked, filtered, consumed as MAC control, or queued in the FIFO. -/
  | ethRxFrame (n : Nat) (r : RxFrame)
  /-- R223: The pause timer ends, and PAUSED clears. -/
  | pauseTimerExpiry (n : Nat)
  /-- R225: The port enters or leaves XOFF and sends a pause frame. -/
  | xoffChange (n : Nat)
  /-- R225: In XOFF, another pause frame is sent each QUANTA × 256 bit times. -/
  | xoffRefresh (n : Nat)
  /-- R219: At the end of the previous frame, the port takes a frame and sends it, or discards it when the link is down. -/
  | ethTxFrame (n : Nat) (k : CellCheck) (frac : Nat)
  /-- R227: An express frame preempts a preemptable frame at the first permitted point. -/
  | preemption (n : Nat) (k : CellCheck) (frac : Nat)
  /-- R226: A verify mPacket is sent each VERIFY_TIME, and verification succeeds or fails. -/
  | mmVerify (n : Nat) (responded : Bool)
  /-- R213: LINK rises or falls, or the fault level changes. -/
  | linkChange (n : Nat) (r : LinkReport)
  /-- R214: A lane not locked after 2 ms inverts its receive polarity. -/
  | polarityTryExpiry (l : Nat)
  /-- R215: 100 Gb/s alignment lock is gained, and the transmit lane order may change. -/
  | laneAlignmentLock (map : Nat)
  /-- R229: A host large send is cut into segments, or discarded. -/
  | largeSend (hd payload : List Byte) (mss tag : Nat)
  /-- R233: A frame received in listen is matched against wake patterns and magic. -/
  | listenFrame (n : Nat) (bs : List Byte)
  /-- R236: A read of ETH_TSQ_W0 removes the oldest timestamp entry and latches W1 and W2. -/
  | tsqRead (m : Master) (n : Nat)
  /-- R237: GO starts a Clause 22 write frame. -/
  | mdioC22Write (m : Master) (k : Nat) (phy reg : BitVec 5) (data : BitVec 16)
  /-- R237: GO starts a Clause 22 read frame. -/
  | mdioC22Read (m : Master) (k : Nat) (phy reg : BitVec 5)
  /-- R237: GO starts a Clause 45 address frame. -/
  | mdioC45Address (m : Master) (k : Nat) (port dev : BitVec 5) (addr : BitVec 16)
  /-- R237: GO starts a Clause 45 write frame. -/
  | mdioC45Write (m : Master) (k : Nat) (port dev : BitVec 5) (data : BitVec 16)
  /-- R237: GO starts a Clause 45 read-increment frame. -/
  | mdioC45ReadInc (m : Master) (k : Nat) (port dev : BitVec 5)
  /-- R237: GO starts a Clause 45 read frame. -/
  | mdioC45Read (m : Master) (k : Nat) (port dev : BitVec 5)
  /-- R237: An MDIO frame ends; DONE rises, and read data or ERR is set. -/
  | mdioFrameEnd (k : Nat) (ack : Bool) (data : BitVec 16)
  /-- R238: ETH_WK_ADDR GO with WRITE writes a pattern or mask word. -/
  | wakePatternWrite (m : Master) (port : BitVec 5) (pat : BitVec 3) (word : BitVec 5) (v : Word)
  /-- R238: ETH_WK_ADDR GO reads a pattern or mask word. -/
  | wakePatternRead (m : Master) (port : BitVec 5) (pat : BitVec 3) (word : BitVec 5)
  /-- R242: A received E1 frame advances framing, CRC-4, AIS and RAI detection and the receive aligner. -/
  | tribE1Frame (n : Nat) (row : List Byte)
  /-- R245: No TRIB_RXC edge for 4 µs raises LOS. -/
  | tribClockLoss (n : Nat)
  /-- R244: No multiframe in 8 ms bars the position and restarts the search. -/
  | mfSearchExpiry (n : Nat)
  /-- R244: 400 ms of basic alignment without multiframe declares CRC-4 interworking. -/
  | intwkDeclare (n : Nat)
  /-- R253: Each NT frame, every mapped upstream slot is built with pointer, RDI, REI and BIP8. -/
  | usContainerBuild
  /-- R260: Each NT frame, every output channel sends per the active page and the monitors check. -/
  | tsiFrame (ecc : List (Nat × Bool))
  /-- R261: A TSI_CM write to the standby page updates the entry and the store copy. -/
  | cmStandbyWrite (m : Master) (i : BitVec 12) (v : Word)
  /-- R261: A TSI_CM write aimed at the active page is refused. -/
  | cmActiveWrite (m : Master) (i : BitVec 12) (v : Word)
  /-- R264: A TSI_CM read returns a standby or active page entry. -/
  | cmRead (m : Master) (active : Bool) (i : BitVec 12)
  /-- R259: A TSI_CM table 2 read returns a monitor's error count. -/
  | monitorCountRead (m : Master) (i : BitVec 12)
  /-- R259: A TSI_CM table 2 write clears a monitor's count. -/
  | monitorCountClear (m : Master) (i : BitVec 12)
  /-- R261: TSI_CTRL.COPY starts copying the active page over the standby page. -/
  | cmCopy (m : Master)
  /-- R261: The page copy ends, and COPY_BUSY falls. -/
  | cmCopyDone
  /-- R268: A line qualifying in FREE, or a holdover exit step, sets NT and marks skipped slots and commits MISSED. -/
  | ntSet (x : Line)
  /-- R267: After 8 consecutive frames within ±2 ns, ACQUIRING becomes LOCKED. -/
  | ntLock
  /-- R267: With no qualifying line, the core is referenced to the corrected HOLD_OSC. -/
  | holdoverEntry
  /-- R267: HO_LIMIT seconds in holdover sets HO_AGED. -/
  | holdoverAged
  /-- R271: A line qualifies in holdover; NT stays continuous or is stepped. -/
  | holdoverExit (x : Line) (e : Int)
  /-- R270: Each 1 s window updates the learnt HOLD_OSC frequency. -/
  | hoWindowEnd (measured : BitVec 32)
  /-- R275: 1PPS_OUT rises at each whole TAI second, or its rise is suppressed. -/
  | ppsOutPulse
  /-- R277: A 1PPS_IN edge is timestamped and compared with ToD. -/
  | ppsInEdge (frac : Nat)
  /-- R277: No 1PPS_IN edge for 1.5 s clears PPSIN_OK. -/
  | ppsInLoss
  /-- R278: The PTP master sends Sync on an enabled port. -/
  | ptpSync (n : Nat)
  /-- R279: The PTP master sends Announce with the clock quality of its time state. -/
  | ptpAnnounce (n : Nat)
  /-- R278: A received Delay_Req or peer delay request is answered. -/
  | ptpDelayReq (n : Nat) (peer : Bool) (seq : Nat)
  /-- R382: 375 µs before a wake FN's predicted sync, the line receive domains start waking. -/
  | lineWakeStart (x : Line)
  /-- R290: A kind-1 port with link up and preemption inactive loses its guarantee. -/
  | boundLost (n : Nat)
  /-- R295: A PCIe configuration request before start-up is completed with Retry Status. -/
  | configRequest (r : ConfigRequest)
  /-- R296: PCIe link down or hot reset resets the host interface's rings, queues and D registers. -/
  | hostLinkDown (how : LinkLoss)
  /-- R296: A Function Level Reset resets the host interface and sets HST_ALARM.FLR. -/
  | flr
  /-- R296: Clearing Bus Master Enable stops every DMA at its next request. -/
  | busMasterDisable
  /-- R299: A doorbell write sets a ring's or queue's producer index. -/
  | doorbellWrite (off : Nat) (v : Word)
  /-- R301: Setting EN from 0 to 1 zeroes PI and CI. -/
  | ringEnable (m : Master) (p : Nat) (w : Word)
  /-- R302: A transmit frame is read from a ring and handed to the classifier, or the ring stops. -/
  | txRingFrame (descs : List (List Byte × List Byte)) (bad : DmaFault)
  /-- R305: A frame sent on port 20 is written into its receive ring, or discarded. -/
  | rxRingDeliver (descs : List (List Byte)) (bad : DmaFault) (k : CellCheck)
  /-- R300: A vector's message is sent once MOD µs have passed, merging requests. -/
  | msixSend (p : Nat)
  /-- R300: Unmasking a vector with a pending bit sends one message. -/
  | msixUnmask (v : Nat)
  /-- R306: During frame k − 1, the input half of frame k's entry is read, or counted late. -/
  | hostTdmRead (half : Option (List Byte))
  /-- R306: During frame k + 1, the output half of frame k's entry is written. -/
  | hostTdmWrite
  /-- R308: A request with OP 1 encrypts data units with XTS and writes a completion. -/
  | xtsEncrypt (req data : List Byte) (bad : DmaFault)
  /-- R308: A request with OP 2 decrypts data units with XTS and writes a completion. -/
  | xtsDecrypt (req data : List Byte) (bad : DmaFault)
  /-- R308: A request with OP 3 writes ciphertext and tag, then a completion. -/
  | gcmEncrypt (req data aad : List Byte) (bad : DmaFault)
  /-- R309: A request with OP 4, once scratch room is free, decrypts and writes plaintext only when the tag verifies. -/
  | gcmDecrypt (req data aad : List Byte) (bad : DmaFault)
  /-- R308: A request with OP 5 writes the 48-byte digest. -/
  | sha384 (req data : List Byte) (bad : DmaFault)
  /-- R313: KEY_CMD LOAD unwraps a DKEK blob into a host slot, or fails. -/
  | keyLoad (m : Master) (slot : BitVec 10)
  /-- R311: KEY_CMD ERASE empties a host slot. -/
  | keyErase (m : Master) (slot : BitVec 10)
  /-- R314: KEY_CMD XPUB makes an import pair and places Qi with its signature in KEY_BUF. -/
  | keyXpub (m : Master)
  /-- R314: KEY_CMD IMPORT unwraps the imported blob, loads the slot and returns a DKEK blob. -/
  | keyImport (m : Master) (slot : BitVec 10)
  /-- R312: KEY_CMD INFO reports whether a slot holds a key, and its TYPE and USAGE. -/
  | keyInfo (m : Master) (slot : BitVec 10)
  /-- R316: A KEY_BUF_DATA access reads or writes a buffer word and advances the index. -/
  | keyBufAccess (m : Master) (v : Option Word)
  /-- R363: TAL_CTRL.SNAP copies every counter of the terminal in one ccy. -/
  | counterSnapshot (m : Master)
  /-- R362: TAL_CTRL.FREEZE stops every Tallyman counter. -/
  | counterFreeze (m : Master)
  /-- R362: TAL_CTRL.RELEASE restarts the Tallyman counters. -/
  | counterRelease (m : Master)
  /-- R361: A counter carrying out of bit 63 wraps, sets its overflow bit and may write a sample record. -/
  | counterOverflow (g k n : Nat) (attr : Option PacketAttr)
  /-- R364: A read of TAL_SMP_W0 removes the oldest sample record and latches W1 to W3. -/
  | sampleRead (m : Master)
  /-- R366: At a bandwidth window's end, every port's frames and rate are written. -/
  | bwWindowEnd
  /-- R375: PWR_REQ KIND 0 requests a domain state and is judged by Table 15.3. -/
  | powerRequestDomain (m : Master) (d : BitVec 6) (t : BitVec 2)
  /-- R377: PWR_REQ KIND 1 takes a port group's MAC and lane domains off into listen. -/
  | listenEnter (m : Master) (g : BitVec 3)
  /-- R377: PWR_REQ KIND 2 wakes a port group out of listen. -/
  | listenLeave (m : Master) (g : BitVec 3)
  /-- R376: A domain's drain ends, and it is isolated and goes to its target. -/
  | quiesceEnd (d : Nat)
  /-- R376: The drain limit passes, and the domain resumes with DRAIN_TIMEOUT. -/
  | drainTimeout (d : Nat)
  /-- R376: At each CIF 0, a committed lowering whose quiesce failed is tried again. -/
  | drainRetry
  /-- R380: A wake step's ready signal arrives, and the next step begins. -/
  | wakeStepReady (d : Nat) (bist : Bool)
  /-- R380: A wake step times out, and the domain is left OFF with PWR_FAIL. -/
  | wakeStepTimeout (d : Nat)
  /-- R381: Re-application and scrubbing end, and the domain becomes ON. -/
  | wakeComplete (d : Nat) (bad : List Nat)
  /-- R383: A wake source ends listen, ends sleeps or restores held domains per its action. -/
  | wakeEvent (k : Nat)
  /-- R388: A mechanism reports a fault, which is logged and gets its class's reaction. -/
  | faultDetected (reports : List FaultReport)
  /-- R392: ITM_SAFE.EXIT leaves the safe state when no reaction-2 class is active. -/
  | safeExit (m : Master)
  /-- R387: A pair's 1 ms watchdog expires, and fault class 10 follows. -/
  | watchdogExpiry (p : Nat)
  /-- R405: ITM_WDOG_KICK restarts a pair's watchdog. -/
  | watchdogKick (m : Master) (pairs : BitVec 2)
  /-- R394: A missed monitor heartbeat is class 17, and PD00 drives the safe state. -/
  | monitorHeartbeatMiss
  /-- R387: Each 1 ms sensor cycle updates the temperatures and may raise class 9. -/
  | tempSample (t0 t1 t2 t3 : BitVec 9)
  /-- R387: The sweep compares active class C registers and pin mux with the store, and repairs mismatches. -/
  | cregSweep (regs : List (Nat × Word)) (tabs : List (Nat × Nat))
  /-- R179: The sweep compares the rule table with its copy, and repairs entries. -/
  | ruleSweep (upsets : List (Nat × Nat))
  /-- R400: Every PERIOD, faults are injected into each checking mechanism. -/
  | periodicSelftest (reported : Nat) (failed : List Nat)
  /-- R395: A Porter detects a violation, forces BEN low, closes windows and releases LDOFF. -/
  | porterViolation (x : Line) (kinds : BitVec 6)
  /-- R397: ITM_PTRx_CTRL.CLR from a local master clears a violation, or is refused. -/
  | porterClear (m : Master) (x : Line) (pinIdle checkOk : Bool)
  /-- R401: ITM_LOG_ADDR GO reads a fault-log entry. -/
  | logRead (m : Master) (i : BitVec 8)
  /-- R423: TOP_I2Cm_CMD GO with RD = 0 starts a write transaction. -/
  | i2cWrite (m : Master) (k : Nat) (dev : BitVec 7) (reg : BitVec 8) (len : BitVec 3) (data : Word)
  /-- R423: TOP_I2Cm_CMD GO with RD = 1 starts a read transaction. -/
  | i2cRead (m : Master) (k : Nat) (dev : BitVec 7) (reg : BitVec 8) (len : BitVec 3)
  /-- R423: A transaction ends with DONE, and ERR on a NACK. -/
  | i2cTransactionEnd (k : Nat) (how : I2cEnd) (data : Word)
  /-- R423: SCL held low for 25 ms, or SDA low at START, sends 9 clocks and STOP with ERR 3. -/
  | i2cBusHeld (k : Nat)
  /-- R398: Loading a test instruction other than BYPASS, IDCODE or SAMPLE releases LDOFF and holds BEN low. -/
  | jtagInstruction (i : JtagInstr)
  /-- R430: TRST_N low, or five TCK cycles with TMS high, resets the TAP. -/
  | tapReset
  /-- R112: At CIF 0 of a doze's wake FN, the line leaves doze, its transmitter domain is woken and it takes grants again. -/
  | dozeWake (x : Line)
  /-- R255: Each E1 frame sent on a tributary regenerates time slot 0 with A, Sa and E bits, or sends AIS, and reads the
  direct transmit store, re-centring it on a slip. -/
  | tribTxE1Frame (n : Nat)
  /-- R295: The PCIe link trains and the data link comes up, setting HST_LINK.DL_UP with the speed and width found. -/
  | hostLinkUp (speed width : Nat) (rev : Bool)
  /-- R419: REFCLK, HOLD_OSC or PCIE_REFCLK appears or disappears after start-up, updating CLK_STATUS and CLK_ALARM and
  bringing PCIE_REFCLK's effect on the PCIe link. -/
  | clockInputChange (i : ClockInput) (present : Bool)
  /-- R387: A supply rail that had left its limits returns within them, clearing its ITM_VMON_STATUS bit and the class 8
  ITM_FAULT_ACTIVE bit that R392 tests. -/
  | railReturn (rail : Nat)
  deriving DecidableEq, Repr

end Sys2Proof
end

