-- ==== Sys2Proof/Decode.lean ====
section
/-! DEFINITION. The commands that words spell. The terminal is a block: no row of spec/opcode_table.json gives bits, so no word
spells a command. -/

namespace Sys2Proof

/-- The command that the low bits of a word spell; the table gives none. -/
def decodeTableWord (_nbits _w : Nat) : Option Instr := none

end Sys2Proof
end

