-- ==== Sys2Proof/Config.lean ====
section
/-! DEFINITION. What an implementation or a part fixes, and the free values: functions without a body, so
that nothing in Lean can evaluate them or lean on a value of theirs. The cryptographic primitives and the
error-correcting codes are here too: the spec fixes what goes into them and what is done with the answer. -/

namespace Sys2Proof.Config
open Sys2Proof

/-- The terminal's random source, one value for each draw (R95, Table 4.2). A free value. -/
opaque freeNat : Nat → Nat

/-- The learnt HOLD_OSC offset after a window: the one before, the window's measurement and HO_TC (R270). A free value. -/
opaque averagedOffset : BitVec 32 → BitVec 32 → Nat → BitVec 32

/-- The external level of the GPIO balls that are inputs, at a ccy (R422). A free value. -/
opaque gpioLevel : Nat → Nat

/-- A word of an array whose contents the spec calls undefined (R373), by domain, position and time. -/
opaque undefinedWord : Nat → Nat → Nat → BitVec 32

/-- AES-CMAC of a message under a key, 16 bytes (R71). -/
opaque cmac : List Byte → List Byte → List Byte

/-- HKDF-Extract with SHA-384: salt, input key material (R102). -/
opaque hkdfExtract : List Byte → List Byte → List Byte

/-- HKDF-Expand with SHA-384: pseudorandom key, info, length (R102). -/
opaque hkdfExpand : List Byte → List Byte → Nat → List Byte

/-- SHA-384, 48 bytes. -/
opaque sha384 : List Byte → List Byte

/-- ECDSA P-384 verification: public key (X then Y), SHA-384 digest, signature (r then s). -/
opaque ecdsaVerify : List Byte → List Byte → List Byte → Bool

/-- HSS/LMS verification: public key, digest, signature. -/
opaque hssVerify : List Byte → List Byte → List Byte → Bool

/-- ECDSA P-384 signature of a digest under the device key (R100). -/
opaque devEcSign : List Byte → List Byte

/-- HSS signature of a digest with one leaf of the device key (R104). -/
opaque devHssSign : Nat → List Byte → List Byte

/-- The public half of the ephemeral key pair with a number, X then Y (R100). -/
opaque ephemeralPub : Nat → List Byte

/-- The X coordinate of the ephemeral private key with a number times a point (R102). -/
opaque ecdhX : Nat → List Byte → List Byte

/-- Whether 96 bytes are a valid P-384 point. -/
opaque validPoint : List Byte → Bool

/-- The terminal's identity record of Table 4.4, signed at manufacture. -/
opaque identityRecord : List Byte

/-- AES-256-GCM encryption: key, IV, additional data, plaintext; the ciphertext and the 16-byte tag. -/
opaque gcmEncrypt : List Byte → List Byte → List Byte → List Byte → List Byte × List Byte

/-- AES-256-GCM decryption: key, IV, additional data, ciphertext, tag; the plaintext when the tag verifies. -/
opaque gcmDecrypt : List Byte → List Byte → List Byte → List Byte → List Byte → Option (List Byte)

/-- AES-XTS encryption of one data unit: key, tweak, plaintext (R308). -/
opaque xtsEncrypt : List Byte → List Byte → List Byte → List Byte

/-- AES-XTS decryption of one data unit. -/
opaque xtsDecrypt : List Byte → List Byte → List Byte → List Byte

/-- AES key wrap of a blob: key, plaintext (R313). -/
opaque kwWrap : List Byte → List Byte → List Byte

/-- AES key unwrap: key, blob; the plaintext when the integrity check passes (R313). -/
opaque kwUnwrap : List Byte → List Byte → Option (List Byte)

/-- A key derived from the part's OTP seeds, by label (R311, R313). -/
opaque seedKey : Nat → List Byte

/-- The bytes of a codeword of RS(544,514) corrected, with the symbols and the bits corrected, or none when
it cannot be (R47). -/
opaque rs544Decode : List Nat → Option (List Nat × Nat × Nat)

/-- The 16 parity bytes of RS(248,232), or of its shortened form (R81). -/
opaque rs248Parity : List Byte → List Byte

end Sys2Proof.Config
end

