-- ==== Sys2Proof/Machine/LineTypes.lean ====
section
/-! DEFINITION. The data of the two lines and of the two-ended merge: grants, messages, proofs and timers (spec
chapters 2 to 6). -/

namespace Sys2Proof.Machine
open Sys2Proof

/-- One symbol-position candidate of the frame hunt (R41): the stream position of its last sync field, its
polarity, the checks passed, the FN of its last header and the ccy at which that sync field was found. -/
structure Cand where
  pos : Nat
  found : Nat
  inv : Bool
  checks : Nat
  fn : Nat
  deriving DecidableEq, Repr

/-- What an accepted grant may carry (R64, R82). -/
inductive GrantKind where
  | announce
  | default
  | port (p : Nat)
  deriving DecidableEq, Repr

/-- An accepted grant that has not been sent (R65 to R68): the BWmap entry, the FN that carried it, the EqD
and the preamble in force for it, and the carriage bytes placed in it so far. `start` already holds the
random delay of an announce grant. `hdr` is the header region fixed at the commit of codeword 0, `placed`
the carriage frames placed, and `committed` how many codewords are final; `deferred` and `held` tell that an express
frame or a 16th fragment waits for a later grant. -/
structure Grant where
  kind : GrantKind
  alloc : Nat
  start : Nat
  len : Nat
  b : Bool
  q : Bool
  c : Bool
  e : Bool
  prof : Nat
  fn : Nat
  eqd : Nat
  plen : Nat
  pat : Word
  hdr : Option (List Byte) := none
  placed : List PlacedFrame := []
  committed : Nat := 0
  deferred : Bool := false
  held : Bool := false
  deriving DecidableEq, Repr

/-- A transmit window of a Porter: the ccy of NT, counted from FN 0, at which it opens and closes (R66). -/
structure PorterWindow where
  opens : Nat
  closes : Nat
  deriving DecidableEq, Repr

/-- A sleep granted and not ended (R111): 1 doze or 2 deep sleep, its start FN and its wake FN. -/
structure SleepPlan where
  mode : Nat
  start : Nat
  wake : Nat
  deriving DecidableEq, Repr

/-- A REG_ACCESS message that waits for pair 1 (R346). -/
structure RegMsg where
  seq : Nat
  entries : List RegEntry
  deriving DecidableEq, Repr

/-- A key roll inside its overlap (R110). -/
structure KeyRoll where
  first : Nat
  last : Nat
  fn : Nat
  deriving DecidableEq, Repr

/-- The proof of identity in progress (R100): the nonce, the SEQ of the NONCE message, the ephemeral key's number,
the HE_ID and TID attested, whether the attestation is signed, and whether it has all been sent. -/
structure Proof where
  nonce : List Byte
  seq : Nat
  key : Nat
  heId : Nat
  tid : Nat
  signed : Bool := false
  sent : Bool := false
  deriving DecidableEq, Repr

/-- A bulk object on its way down (R151): its type, size, hash prefix and the segments received, each with its
offset; `ack` is the SEQ to answer once the object has been judged (R337). -/
structure BulkIn where
  type : Nat
  size : Nat
  hash : List Byte
  ack : Option Nat := none
  parts : List (Nat × List Byte) := []
  deriving DecidableEq, Repr

/-- A completed object that has not been judged. -/
structure BulkObj where
  type : Nat
  hash : List Byte
  ack : Option Nat := none
  data : List Byte
  deriving DecidableEq, Repr

/-- A change of EqD that waits for its effective FN (R98): the new EqD, or, when `adjust` is set, a signed delta. -/
structure EqdChange where
  fn : Nat
  value : Int
  adjust : Bool
  deriving DecidableEq, Repr

/-- What a line holds for a deep sleep (R46): the equaliser words, PINV and the sync CIF. -/
structure SavedLine where
  eq : List (Nat × Word) := []
  pinv : Bool := false
  cif : Nat := 0
  deriving DecidableEq, Repr

/-- A line's state beside its registers (spec chapters 2 to 4). -/
structure LineState where
  cands : List Cand := []
  badRun : Nat := 0
  syncPos : Nat := 0
  fn : Nat := 0
  recalled : Option Nat := none
  heSeen : Option Nat := none
  usableRun : Nat := 0
  esaRun : Nat := 0
  skip : Nat := 0
  holdoff : Bool := false
  warnLow : Nat := 0
  warnHigh : Nat := 0
  failLow : Nat := 0
  failHigh : Nat := 0
  sdBits : Nat := 0
  sfBits : Nat := 0
  sdFrames : Nat := 0
  sfFrames : Nat := 0
  grants : List Grant := []
  windows : List PorterWindow := []
  burstEnd : Option Nat := none
  eqds : List EqdChange := []
  micKey : Option (List Byte) := none
  lineKey : Option (List Byte) := none
  lastSeq : Option Nat := none
  micRun : Nat := 0
  txSeq : Nat := 0
  rolls : List KeyRoll := []
  rollCount : Map Nat := []
  sleep : Option SleepPlan := none
  proof : Option Proof := none
  proofs : Nat := 0
  bulkIn : Option BulkIn := none
  bulkDone : Option BulkObj := none
  bulkRx : List (List Byte) := []
  bulkOut : List BulkItem := []
  bulkSeq : Nat := 0
  area : Option Nat := none
  reportFrom : Nat := 0
  burstSeq : Nat := 0
  contexts : List Reasm := []
  regQueue : List RegMsg := []
  stopSrc : Option Nat := none
  silTries : Nat := 0
  rdiUntil : Nat := 0
  saved : SavedLine := {}
  eqWritten : Map Word := []
  deriving DecidableEq, Repr

/-- The trust region of the flash (R91, R104, R106): the silence records and counts of the two lines, and
the HSS signing state: the reserved block, the leaves marked used in it and the next leaf. -/
structure TrustRegion where
  silA : Bool := false
  silB : Bool := false
  cntA : Nat := 0
  cntB : Nat := 0
  block : Nat := 0
  reserved : Bool := false
  used : Nat := 0
  mapBad : Bool := false
  nextLeaf : Nat := 0
  readable : Bool := true
  deriving DecidableEq, Repr

/-- The timers of one line. -/
inductive LineTimer where
  | lofAcq | acquire | annWait | rangeTo | proveTo | hold | holdoff | lom | roll | silRetry | release
  deriving DecidableEq, Repr

/-- The two-ended merge's state beside its registers (chapter 5): the merge state of each flow, the packets waiting
at the merge, how many frames SKEW and FREQ have been clear, the sides of each container pair that missed
their last output instant, whether a revert to the preferred line is due, and whether a commit asked for the preferred line. -/
structure TwoEnded where
  flows : Map MergeFlow := []
  waiting : List MergePkt := []
  skewClear : Nat := 0
  freqClear : Nat := 0
  lateA : Nat := 0
  lateB : Nat := 0
  revertDue : Bool := false
  prefDue : Bool := false
  deriving DecidableEq, Repr

end Sys2Proof.Machine
end

