-- ==== Sys2Proof/Machine/TdmTypes.lean ====
section
/-! DEFINITION. The data of the tributaries, the container slots and the time-slot interchange (spec chapter 10). -/

namespace Sys2Proof.Machine
open Sys2Proof

/-- A tributary's receiver, mapper and transmitter beside its registers (R242 to R246, R253 to R257). `prev` is the
last 256 bits received; `cands` the positions past step 1 with their step; `at_` the aligned position; `fas` that the
next completed frame holds a FAS; `barred` the barred positions with the searches left; `held` the ccy of basic
alignment without a multiframe up to `heldFrom`; `mfas` the frames, counted by `frames`, at which a multiframe alignment
signal ended, with the NFAS bits of `nfas`; `mf` the index of the next frame in its multiframe; `crc`, `crcWant` and
`crcGot` the CRC-4 check, with its window; `ebits` the errored submultiframes to report; `fifo` the receive aligner
and `last` the frame it put out last; `store`, `head` and `adj` the mapper's elastic store, the offset of the next E1
frame in it and the frames since its last adjustment; `tx` the direct transmit store and `txLast` the bytes it sent last; the rest the transmit multiframe. -/
structure Trib where
  prev : List Byte := []
  zeros : Nat := 0
  aisHalf : Option Nat := none
  aisLow : Option Bool := none
  cands : List (Nat × Nat) := []
  at_ : Option Nat := none
  fas : Bool := false
  badFas : Nat := 0
  barred : List (Nat × Nat) := []
  raiRun : Nat := 0
  raiClear : Nat := 0
  held : Nat := 0
  heldFrom : Option Nat := none
  frames : Nat := 0
  nfas : Nat := 0
  mfas : List Nat := []
  mf : Option Nat := none
  crc : Nat := 0
  crcWant : Option Nat := none
  crcGot : Nat := 0
  smf : Nat := 0
  smfBad : Nat := 0
  ebits : Nat := 0
  fifo : List (List Byte) := []
  last : List Byte := []
  store : List Byte := []
  head : Nat := 0
  adj : Nat := 3
  tx : List Byte := []
  txLast : List Byte := []
  txIdx : Nat := 0
  txCrc : Nat := 0
  txCrcWas : Nat := 0
  deriving DecidableEq, Repr

/-- A downstream slot's interpreter beside TCM_DS_STATs (R249 to R252): the runs of Table 10.2, the frames since the
last adjustment, the parity of the last container that came well, the bytes left in the aligner, the bytes put out
last, the outputs that wait by FN (none where the container was absent), the FN interpreted last, the REI found,
and whether the slot's RDI is due in the next container built (R253). -/
structure SlotRx where
  inv : Nat := 0
  ais : Nat := 0
  newVal : Nat := 0
  newRun : Nat := 0
  sameVal : Nat := 0
  sameRun : Nat := 0
  sinceAdj : Nat := 3
  parity : Option Nat := none
  align : List Byte := []
  out : List Byte := []
  frames : List (Nat × Option (List Byte) × Bool) := []
  seen : Option Nat := none
  rei : Nat := 0
  rdiNext : Bool := false
  bip : Nat := 0
  deriving DecidableEq, Repr

/-- A PRBS monitor (R259): its register, the bits matched in a row up to 16, and the errored bytes in a row. -/
structure Monitor where
  reg : Nat := 0
  matched : Nat := 0
  badBytes : Nat := 0
  count : Nat := 0
  armed : Bool := true
  deriving DecidableEq, Repr

/-- The time-slot interchange's state beside its registers (R258 to R262): both pages by `4096 * page + channel`, the
configuration store's copy of them and of the active page, whether a swap is scheduled is told by the slots; the
input channels written in the NT frame `inFn` and in the one before; the output channels of the present frame; the
pattern generators' register; the monitors; the upstream containers built, each with its FN and slot. Channels that are
not listed carry 0xFF. -/
structure Weaver where
  pages : Map Nat := []
  copy : Map Nat := []
  active : Nat := 0
  inFn : Nat := 0
  inputs : Map Nat := []
  before : Map Nat := []
  outputs : Map Nat := []
  prbs : Nat := 0x7FFF
  monitors : Map Monitor := []
  built : List (Nat × Nat × List Byte) := []
  deriving DecidableEq, Repr

end Sys2Proof.Machine
end

