-- ==== Sys2Proof/Machine/TimeTypes.lean ====
section
/-! DEFINITION. The data of network time and of the configuration engine (spec chapters 11 and 13). -/

namespace Sys2Proof.Machine
open Sys2Proof

/-- An event slot (R281): its instant, action, argument, REPEAT and state (0 free, 1 armed, 2 fired, 3 missed). -/
structure EvSlot where
  fn : Nat := 0
  cif : Nat := 0
  action : Nat := 0
  arg : Nat := 0
  rep : Nat := 0
  state : Nat := 0
  deriving DecidableEq, Repr

/-- The Horologer's state beside its registers (R266 to R290). `tod` is three times ToD in ns less twice the terminal's ccy;
`slew` the ns still to be slewed from `slewFrom` on, 1 ns each ms; `step` a step of ToD that waits for its ccy; `window`
the last complete HOLD_OSC measurement and `locked` the seconds of LOCKED without a break; `bounds` the bound table;
`lastE` the instant of the last E grant of a port; `ppsIn` the last 1PPS_IN edge and `ppsRun` the edges 1 s apart;
`ppsOut` the last rise of 1PPS_OUT and `stepped` that ToD stepped since; `ptpSeq` the sequence of each port; `ptpId` the
clock identity, priorities, accuracy and variance of the image's time records. -/
structure Horologer where
  tod : Option Int := none
  slew : Int := 0
  slewFrom : Nat := 0
  step : Option (Nat × Int) := none
  window : Option (BitVec 32) := none
  locked : Nat := 0
  slots : Map EvSlot := []
  bounds : List (Nat × Nat) := []
  lastE : Map Nat := []
  ppsIn : Option Nat := none
  ppsRun : Nat := 0
  ppsOut : Option Nat := none
  stepped : Bool := false
  ptpSeq : Map Nat := []
  ptpId : List Byte := []
  deriving DecidableEq, Repr

/-- A commit whose values are frozen (R334, R338): its FN (the next frame where `next`), whether it replaces the whole
configuration, the registers and table entries, and of an image what else it holds: the event-schedule entries, each
with whether its FN counts from the apply, the version, the rule entries and connection-memory entries with the index
of their record, the page that is active at start-up, the wrapped keys by slot, the operator certificate and the
time settings; and the configuration region it was written to. -/
structure Commit where
  fn : Nat
  next : Bool := false
  full : Bool := false
  regs : Map Word := []
  tabs : Map Nat := []
  events : List (Bool × EvSlot) := []
  version : Option Nat := none
  rules : List (Nat × Nat × Nat) := []
  pages : List (Nat × Nat × Nat) := []
  activePage : Option Nat := none
  keys : Map (List Byte) := []
  cert : Option (List Byte) := none
  ptpId : Option (List Byte) := none
  region : Option Nat := none
  deriving DecidableEq, Repr

/-- An object in delivery or delivered through CFG_OBJ: its type, size and bytes (R337). -/
structure HostObj where
  type : Nat
  size : Nat
  data : List Byte := []
  deriving DecidableEq, Repr

/-- The configuration engine's state beside its registers (R318 to R343): the three copies of the slot map, each with FW_MAP
and CFG_MAP, and the FW_MAP of the next power-on reset where firmware was delivered; the commit in check and those pending; the ccy of the last apply; the object in delivery and the one delivered;
the image prepared for a save, and the deadline of its preparation; the delegate keys in force; the wrapped keys that
came from images, by slot; the flash command that runs. -/
structure Scrivener where
  maps : List (Bool × Bool) := [(false, false), (false, false), (false, false)]
  checking : Option Commit := none
  pending : List Commit := []
  applied : Option Nat := none
  object : Option HostObj := none
  delivered : Option HostObj := none
  save : List Byte := []
  delegate : Option (List Byte) := none
  keys : Map (List Byte) := []
  nextFw : Option Bool := none
  flashCmd : Option Nat := none
  deriving DecidableEq, Repr

end Sys2Proof.Machine
end

