-- ==== Sys2Proof/Machine/Chip.lean ====
section
/-! DEFINITION. The state of the terminal's blocks as plain data. Everything the spec shows in a register
or a counter is held in the register and counter tables under its own address; the structures below
hold the rest. -/

namespace Sys2Proof.Machine
open Sys2Proof

/-- Network time: frame number and cycle in frame (R6). -/
structure NetTime where
  fn : Nat := 0
  cif : Nat := 0
  deriving DecidableEq, Repr

/-- The timers that a command's expiry row ends (R31 to R423). -/
inductive TimerKey where
  | line (x : Line) (t : LineTimer)
  | watchdog (p : Nat)
  | wake (d : Nat)
  | drain (d : Nat)
  | actWtr
  | tmWtr
  | selHold (n : Nat)
  | selWtr (n : Nat)
  | mfSearch (n : Nat)
  | cmCopy
  | tmRevert
  | hoAged
  | ppsIn
  | savePrep
  | pause (n : Nat)
  | xoff (n : Nat)
  | verify (n : Nat)
  | polarity (n : Nat)
  deriving DecidableEq, Repr

/-- A PTP message that pair 1 sends (R278 to R280): its type (0 Sync, 1 Announce, 2 Follow_Up, 3 Delay_Resp, 4 Pdelay_Resp),
its transport, domain and sequence, its log interval, the instant it carries in units of 1/30 ns of ToD, and for an
Announce the clock class, the two traceable flags, the time source and currentUtcOffset. -/
structure PtpMessage where
  type : Nat
  transport : Nat
  domain : Nat
  seq : Nat
  logInterval : Int := 0
  time : Option Int := none
  oneStep : Bool := false
  clockClass : Nat := 0
  timeTraceable : Bool := false
  freqTraceable : Bool := false
  timeSource : Nat := 0
  utcOffset : Nat := 0
  identity : List Byte := []
  deriving DecidableEq, Repr

/-- What the terminal puts out at its balls, to a master or to the host, in the order it does so. -/
inductive Output where
  | readData (m : Nat) (addr : Nat) (data : Word)
  | msix (addr : Nat) (data : Word)
  | burst (x : Line) (grantFn : Nat) (start : Nat) (words : List Word)
  | e1 (n : Nat) (frame : List Byte)
  | pps (width : Nat)
  | ptp (n : Nat) (message : PtpMessage)
  | frame (n : Nat) (bytes : List Byte)
  | mPacket (n : Nat) (respond : Bool)
  | dma (addr : Nat) (data : List (Option Byte))
  | completion (reg : Nat) (data : Option Word)
  | spi (bytes : List Byte)
  | accessError (m : Nat) (addr : Nat)
  | i2c (k : Nat) (bytes : List Byte)
  | mdio (k : Nat) (command data : Word)
  deriving DecidableEq, Repr

/-- Where a power request comes from (R374, R375); `retry` is a commit's lowering tried again (R376). -/
inductive ReqSource where
  | register | event | commit | lineSleep | retry | wake
  deriving DecidableEq, Repr

/-- One domain asked to go to one state: 0 OFF, 1 RET, 2 ON. -/
structure PowerMove where
  dom : Nat
  target : Nat
  deriving DecidableEq, Repr

/-- A power request being carried out: the moves still to make, each with its target state, the listen group it
enters or leaves, which PWR_REQ write it is, the domain it ends with, and whether its result has been given. -/
structure PowerJob where
  src : ReqSource
  todo : List PowerMove
  group : Option Nat := none
  enter : Bool := false
  id : Nat := 0
  dom : Nat := 0
  told : Bool := false
  deriving DecidableEq, Repr

/-- A power request as it is made: its source, the moves asked for, whether IN_USE is waived (R377), its listen group,
which PWR_REQ write it is, and the domain in transition whose end it waits for, when it waits (R378). -/
structure PowerReq where
  src : ReqSource
  moves : List PowerMove
  exempt : Bool := false
  group : Option Nat := none
  enter : Bool := false
  id : Nat := 0
  dom : Nat := 0
  deriving DecidableEq, Repr

/-- The power sequencer's state beside its registers (R373 to R382). `queued` holds requests that wait
for a transition to end, `waiting` domains that wait for one of the four wake slots, `retained` the
domains whose arrays hold retained contents, `woken` the domains woken since power-on reset,
`retry` the committed lowerings to try again, `reqs` the PWR_REQ writes so far. -/
structure PowerState where
  jobs : List PowerJob := []
  queued : List PowerReq := []
  waiting : List Nat := []
  retained : List Nat := []
  woken : List Nat := [0]
  retry : List PowerMove := []
  reqs : Nat := 0
  deriving DecidableEq, Repr

/-- One fault-log entry (Table 16.4). -/
structure LogEntry where
  w0 : Word := 0
  w1 : Word := 0
  w2 : Word := 0
  w3 : Word := 0
  deriving DecidableEq, Repr

/-- The integrity monitor's state beside its registers (R387 to R402). `copied` is what the fault-log region of the flash
holds, the oldest first; `resets` holds the instants of the
reset reactions, `eccSeen` the last instant at which a
class 0 entry for a location was logged, `faultLow` the FAULT_N ball, `monitorLost` that class 17 has struck,
`wdog` that the reset just taken came from the watchdog. -/
structure ItmState where
  log : Map LogEntry := []
  seq : Nat := 0
  next : Nat := 0
  uncopied : Nat := 0
  copied : List LogEntry := []
  resets : List Nat := []
  eccSeen : List (Nat × Nat) := []
  faultLow : Bool := true
  monitorLost : Bool := false
  wdog : Bool := false
  deriving DecidableEq, Repr

/-- Whether a loaded instruction drives the pins: every one but BYPASS, IDCODE and SAMPLE (R398). -/
def JtagInstr.drivesPins : JtagInstr → Bool
  | .test _ => true
  | _ => false

/-- The pins that have state of their own: the JTAG instruction loaded (R398), and whether REFCLK, HOLD_OSC and
PCIE_REFCLK are present (R419). -/
structure PinState where
  tap : JtagInstr := .idcode
  refclk : Bool := true
  holdOsc : Bool := true
  pcieRef : Bool := true
  deriving DecidableEq, Repr

/-- A sample record of the Tallyman: its four words as TAL_SMP_W0 to W3 show them (R364). -/
structure SampleRec where
  w0 : Word := 0
  w1 : Word := 0
  w2 : Word := 0
  w3 : Word := 0
  deriving DecidableEq, Repr

/-- The Tallyman's state beside its registers (R359 to R367): the sample queue and the records latched
per master, the overflow that waits for a packet event, the last level each counter saw, the VIEW bits
and the bytes and frames of the bandwidth window in progress. -/
structure TalState where
  samples : List SampleRec := []
  latched : Map SampleRec := []
  gap : Bool := false
  await : List (Nat × Nat) := []
  level : Map Nat := []
  views : Nat := 0
  frozen : Bool := false
  bwBytes : Map Nat := []
  bwFrames : Map Nat := []
  bwRun : Bool := false
  deriving DecidableEq, Repr

/-- A posted write in transfer (R352): the window, the master, the address, the word and the bits of it that are written. -/
structure Posted where
  window : PostedWindow
  master : Master
  addr : Nat
  data : Word
  bits : Nat
  deriving DecidableEq, Repr

/-- How far start-up has come (R321, R393): the step it runs from, whether the fuses have been read, whether it has
ended, and whether it ended in recovery mode, with no firmware (R322); the firmware and configuration regions in use. -/
structure BootState where
  fromStep : Nat := 1
  otpRead : Bool := false
  started : Bool := false
  recovery : Bool := false
  fwRegion : Option Nat := none
  cfgRegion : Option Nat := none
  deriving DecidableEq, Repr

/-- The one-time-programmable fuses (R318, R331, R332): what is written at manufacture, whether the operator roots
are bound and their hashes, and the two rollback floors. -/
structure Otp where
  serial : Nat
  vendorId : Nat
  grade : Nat
  hcs : Bool
  vendorEc : List Byte
  vendorHss : List Byte
  lifecycle : Nat
  bound : Bool
  ecRoot : List Byte
  hssRoot : List Byte
  fwFloor : Nat
  cfgFloor : Nat
  deriving DecidableEq, Repr

/-- The whole state of the terminal but its fuses. Its default is the state right after power-on reset. -/
structure Chip where
  now : Nat := 0
  nt : NetTime := {}
  regs : Map Word := []
  store : Map Word := []
  staged : Map (Option Word) := []
  tables : Map Nat := []
  tableStore : Map Nat := []
  tableStaged : Map (Option Nat) := []
  everCommitted : Bool := false
  counters : Map DWord := []
  copies : Map DWord := []
  latch : Map (Option Word) := []
  hold : Map (Option Word) := []
  posted : List Posted := []
  timers : List (TimerKey × Nat) := []
  lastFrame : Map Nat := []
  freeCtr : Nat := 0
  emitted : List Output := []
  power : PowerState := {}
  itm : ItmState := {}
  pins : PinState := {}
  tal : TalState := {}
  lineA : LineState := {}
  lineB : LineState := {}
  trust : TrustRegion := {}
  twoEnded : TwoEnded := {}
  sorter : Sorter := {}
  cooper : Cooper := {}
  meters : Map Meter := []
  drover : Drover := {}
  boot : BootState := {}
  flash : Map Byte := []
  tribs : Map Trib := []
  conts : Map SlotRx := []
  tsi : Weaver := {}
  time : Horologer := {}
  cfg : Scrivener := {}
  ports : Map EthPort := []
  mdio : Map (Option Bool) := []
  stampLatch : Map TsEntry := []
  host : HostState := {}
  keys : KeyStore := {}
  i2c : Map Nat := []
  mgtWrote : Bool := false
  lockWritten : Bool := false
  deriving DecidableEq, Repr

end Sys2Proof.Machine
end

