-- ==== Sys2Proof/Machine/Ops.lean ====
section
/-! DEFINITION. The named operations over registers, counters, timers and time that every command is
written with. -/

namespace Sys2Proof.Machine
open Sys2Proof

/-! ## The register map -/

/-- Whether an address is an instance of a row with the given dimensions, and its indexes. -/
def matchDims : List (Nat × Nat) → Nat → Option (List Nat)
  | [], off => if off = 0 then some [] else none
  | (n, stride) :: r, off =>
    let i := off / stride
    if i < n then (matchDims r (off - i * stride)).map (i :: ·) else none

/-- The indexes of a privileged address within a row, if the row holds it. -/
def RegRow.indexes (r : RegRow) (a : Nat) : Option (List Nat) :=
  if r.addr ≤ a then matchDims r.dims (a - r.addr) else none

/-- The first row of a list that holds an address, with the indexes. -/
def findIn (a : Nat) : List RegRow → Option (RegRow × List Nat)
  | [] => none
  | r :: rs => match r.indexes a with
    | some is => some (r, is)
    | none => findIn a rs

/-- The register row at a privileged active address, with the indexes of the instance. -/
def findReg (a : Nat) : Option (RegRow × List Nat) := findIn a (rowsOfPage (a / 65536))

/-- The value a register takes at a power-on reset and at a wake of its domain (R10). -/
def resetWord (a : Nat) : Word :=
  match findReg a with
  | some (r, is) => r.resets.getD (is.getLastD 0) r.reset
  | none => 0

/-- The power domain of a register instance (Table 9.1, R238, R263). -/
def DomSpec.of (d : DomSpec) (is : List Nat) : Nat :=
  let i0 := is.headD 0
  match d with
  | .fixed n => n
  | .perLine n => n + 3 * i0
  | .mac => let p := 10 * i0 + (is.getD 1 0); if p < 4 then 27 + p else 31 + (p - 4) / 4
  | .quad => 35 + i0 / 4
  | .trib => 42 + i0 / 16
  | .plus n => n + is.getLastD 0

/-- The clock domain of a register instance. -/
def ClkSpec.of (k : ClkSpec) (is : List Nat) : Nat :=
  match k with
  | .fixed n => n
  | .perLine n => n + 2 * is.headD 0

/-- The bits of a register whose fields have an access code. -/
def RegRow.mask (r : RegRow) (p : Acc → Bool) : Nat :=
  r.fields.foldl (fun m f => if p f.acc then m ||| ((2 ^ (f.hi - f.lo + 1) - 1) <<< f.lo) else m) 0

/-! ## Registers and their fields -/

/-- The present value of an active register. -/
def Chip.reg (c : Chip) (a : Nat) : Word := Map.get (resetWord a) c.regs a

/-- The chip with an active register replaced. -/
def Chip.setReg (c : Chip) (a : Nat) (w : Word) : Chip := { c with regs := Map.set (resetWord a) c.regs a w }

/-- A field of a register. -/
def Chip.f (c : Chip) (x : Fld) : Nat := wordBits (c.reg x.addr) x.lo x.width

/-- The chip with a field of a register replaced. -/
def Chip.put (c : Chip) (x : Fld) (v : Nat) : Chip := c.setReg x.addr (wordPut (c.reg x.addr) x.lo x.width v)

/-- Whether a one-bit field is 1. -/
def Chip.flag (c : Chip) (x : Fld) : Bool := c.f x == 1

/-- The chip with a status or alarm bit set. -/
def Chip.raise (c : Chip) (x : Fld) : Chip := c.put x 1

/-- The chip with a bit cleared. -/
def Chip.lower (c : Chip) (x : Fld) : Chip := c.put x 0

/-- The chip with a bit given by a condition. -/
def Chip.putB (c : Chip) (x : Fld) (b : Bool) : Chip := c.put x (b2n b)

/-- The chip with bit `k` of a field set. -/
def Chip.raiseBit (c : Chip) (x : Fld) (k : Nat) : Chip := c.put x (c.f x ||| 2 ^ k)

/-- The chip with bit `k` of a field cleared. -/
def Chip.lowerBit (c : Chip) (x : Fld) (k : Nat) : Chip := c.put x (natPut (c.f x) k 1 0)

/-- The committed value of a class C register, held in the configuration store (R9). -/
def Chip.stored (c : Chip) (a : Nat) : Word := Map.get (resetWord a) c.store a

/-- The value a shadow reads: the staged value, or the committed one (R333). -/
def Chip.shadow (c : Chip) (a : Nat) : Word := (Map.get none c.staged a).getD (c.stored a)

/-- The value of a 64-bit pair, by its LO address. -/
def Chip.pair (c : Chip) (a : Nat) : Nat := (c.reg (a + 4)).toNat * 2 ^ 32 + (c.reg a).toNat

/-- The chip with a 64-bit pair replaced, by its LO address. -/
def Chip.setPair (c : Chip) (a v : Nat) : Chip := (c.setReg a (BitVec.ofNat 32 v)).setReg (a + 4) (BitVec.ofNat 32 (v / 2 ^ 32))

/-! ## Domains and clocks -/

/-- Whether a power domain is ON. -/
def Chip.isOn (c : Chip) (d : Nat) : Bool := c.f (PWR_STATE_PRESENT d) == 2

/-- The power domains each clock domain serves (Table 15.1). CK00 to CK02 never stop (R384). -/
def clockServes : Nat → List Nat
  | 4 => [1] | 5 => [2] | 6 => [4] | 7 => [5]
  | 8 => [27, 35] | 9 => [28, 35] | 10 => [29, 35] | 11 => [30, 35]
  | 12 => [27, 28, 29, 30, 35]
  | 13 => [31, 36] | 14 => [32, 37] | 15 => [33, 38] | 16 => [34, 39]
  | 17 => [31, 32, 33, 34, 36, 37, 38, 39]
  | 18 => [40, 41] | 19 => [42, 43] | 20 => [42, 43]
  | 21 => [0] | 22 => [0] | 23 => [47]
  | _ => []

/-- Whether a clock domain runs: it restarts in step 2 of the first wake of a domain it serves (R384). -/
def Chip.clockRuns (c : Chip) (k : Nat) : Bool :=
  k ≤ 2 || !(wordBits (c.reg CLK_GATE) k 1 == 1) || (clockServes k).any fun d => c.isOn d || decide (3 ≤ c.f (PWR_STATE_PHASE d))

/-- CLK_RUN brought in line with the domains that are ON. -/
def Chip.refreshClocks (c : Chip) : Chip :=
  c.setReg CLK_RUN (BitVec.ofNat 32 ((List.range 25).foldl (fun v k => if c.clockRuns k then v + 2 ^ k else v) 0))

/-! ## Counters and the Tallyman -/

/-- A block counter or Tallyman counter. -/
def Chip.ctr (c : Chip) (a : Nat) : DWord := Map.get 0 c.counters a

/-- The chip with a counter replaced. -/
def Chip.setCtr (c : Chip) (a : Nat) (v : DWord) : Chip := { c with counters := Map.set 0 c.counters a v }

/-- The counter group, event code and instance of a block counter (Table 14.5). -/
def talSource (a : Nat) : Option (Nat × Nat × Option Nat) :=
  let off := a % 65536
  match a / 65536 with
  | 8 => some (0, (off - 0x100) / 8, none)
  | 10 => some (1, (off - 0x100) / 8, none)
  | 9 => some (2, if off < 0x600 then (off - 0x200) / 8 else 0x20 + (off - 0x600) / 8, none)
  | 11 => some (3, if off < 0x600 then (off - 0x200) / 8 else 0x20 + (off - 0x600) / 8, none)
  | 12 => some (4, (off - 0x200) / 8, none)
  | 13 => some (5, if off < 0x300 then (off - 0x200) / 8 else 0x20 + (off - 0x300) / 8, none)
  | 16 => some (6, (off - 0x3000) / 8, none)
  | 20 => some (7, (off - 0x200) / 8, none)
  | 21 => some (8, (off - 0x200) / 8, none)
  | 22 => some (8, 0x10 + (off - 0x200) / 8, none)
  | 24 => if 0x6000 ≤ off then some (12, (off - 0x6100) / 8, none)
          else let p := off / 0x800; some (if p < 4 then 9 else 10, (off % 0x800 - 0x400) / 8, some p)
  | 25 => let p := 10 + off / 0x800; some (if p < 12 then 10 else 11, (off % 0x800 - 0x400) / 8, some p)
  | 34 => some (12, 0x10 + (off - 0x600) / 8, none)
  | 32 => some (13, (off - 0x400) / 8, none)
  | 28 => let t := off / 0x100; some (14 + t / 16, (off % 0x100 - 0x80) / 8, some t)
  | 31 => some (16, off % 0x80 / 8, some (off / 0x80))
  | 29 => some (17, (off - 0x200) / 8, none)
  | 5 => some (18, (off - 0x200) / 8, none)
  | 1 => some (19, (off - 0x200) / 8, none)
  | 4 => some (20, (off - 0x200) / 8, none)
  | _ => none

/-- The amount a programmable counter adds for `n` pulses, or for a level `n` held for one ccy (Table 14.6). -/
def talAmount (mode thr n : Nat) : Nat :=
  match mode with
  | 1 => if 0 < n then 1 else 0
  | 2 => if thr < n then 1 else 0
  | _ => n

/-- A sample record of counter `k` of group `g` for a packet event, `skid` events after the overflow (R364). -/
def Chip.sampleRec (c : Chip) (g k skid : Nat) (at_ : PacketAttr) : SampleRec :=
  { w0 := BitVec.ofNat 32 (2 ^ 31 + (b2n c.tal.gap) * 2 ^ 30 + g * 2 ^ 24 + k * 2 ^ 20 + skid * 2 ^ 16 + at_.len % 2 ^ 14)
    w1 := BitVec.ofNat 32 (at_.flow % 2 ^ 12 * 2 ^ 16 + at_.queue % 2 ^ 13)
    w2 := BitVec.ofNat 32 (at_.port % 2 ^ 8 * 2 ^ 24 + (b2n at_.egress) * 2 ^ 23 + c.nt.cif)
    w3 := BitVec.ofNat 32 c.nt.fn }

/-- A sample record stored, or lost when 16 are held (R364). -/
def Chip.storeSample (c : Chip) (g k skid : Nat) (at_ : PacketAttr) : Chip :=
  if c.tal.samples.length < 16 then
    let r := c.sampleRec g k skid at_
    let c := { c with tal := { c.tal with samples := c.tal.samples ++ [r], gap := false } }
    (c.put TAL_STATUS_SMP_COUNT c.tal.samples.length).raise TAL_ALARM_SMP
  else
    let c := { c with tal := { c.tal with gap := true } }
    (c.setCtr N_TAL_SMP_LOST (c.ctr N_TAL_SMP_LOST + 1)).raise TAL_ALARM_SMP_LOST

/-- One Tallyman counter adds `n`; a carry out of bit 63 wraps it and sets its overflow bit (R361). -/
def Chip.talAdd (c : Chip) (addr ovf : Nat) (g : Nat) (n : Nat) : Chip × Bool :=
  let v := (c.ctr addr).toNat + n
  let c := c.setCtr addr (BitVec.ofNat 64 v)
  if v < 2 ^ 64 then (c, false) else (c.setReg (TAL_G_OVF g) (c.reg (TAL_G_OVF g) ||| BitVec.ofNat 32 (2 ^ ovf)), true)

/-- A packet event of a counter whose overflow still waits for one (R364): it completes the record when it
has attributes, and the fourth event without any ends the wait. -/
def Chip.awaitSample (c : Chip) (g k : Nat) (attr : Option PacketAttr) : Chip :=
  let key := g * 8 + k
  match c.tal.await.find? (fun e => e.1 == key) with
  | none => c
  | some (_, seen) =>
    let rest := c.tal.await.filter (fun e => e.1 != key)
    match attr with
    | some at_ => Chip.storeSample { c with tal := { c.tal with await := rest } } g k (seen + 1) at_
    | none =>
      if seen + 1 < 4 then { c with tal := { c.tal with await := (key, seen + 1) :: rest } }
      else Chip.storeSample { c with tal := { c.tal with await := rest } } g k 7 {}

/-- Programmable counter `k` of group `g` takes `n` pulses of one ccy (R360, R361, R364). -/
def Chip.talCount (c : Chip) (g k n : Nat) (attr : Option PacketAttr) : Chip :=
  let w := Map.get 0 c.regs (TAL_G_CTL g k)
  let c := c.awaitSample g k attr
  let amt := talAmount (wordBits w 24 3) (c.f (TAL_G_THR_THR g k)) n
  let r := c.talAdd (TAL_G_CNT_LO g k) k g amt
  if r.2 && wordBits w 30 1 == 1 then
    match attr with
    | some at_ => r.1.storeSample g k 0 at_
    | none => { r.1 with tal := { r.1.tal with await := (g * 8 + k, 0) :: r.1.tal.await } }
  else r.1

/-- The pulses of one event source reach every counter that selects it (R359, R360). -/
def Chip.pulse (c : Chip) (g e : Nat) (sel : Option Nat) (n : Nat) (attr : Option PacketAttr := none) : Chip :=
  if c.tal.frozen || !c.isOn 48 then c else
  (List.range 8).foldl (fun c k =>
    let w := Map.get 0 c.regs (TAL_G_CTL g k)
    if wordBits w 31 1 == 1 && wordBits w 0 8 == e && (sel.isNone || sel == some (wordBits w 8 13))
    then c.talCount g k n attr else c) c

/-- A block counter adds `n`, and its pulses reach the Tallyman. -/
def Chip.count (c : Chip) (a : Nat) (n : Nat := 1) (attr : Option PacketAttr := none) : Chip :=
  let c := c.setCtr a (c.ctr a + BitVec.ofNat 64 n)
  match talSource a with
  | some (g, e, sel) => if n = 0 then c else c.pulse g e sel n attr
  | none => c

/-! ## Configuration tables

Entries of the tables that are configuration state, by table and index: 0 carriage flows, 1 queue admission,
2 meters, 3 scheduler queues, 4 subscriber nodes, 5 service nodes, 6 ports, 7 express requirements, 8 express
grants. Word `i` of an entry is its bits `32 i + 31` down to `32 i`. -/

/-- An entry's key in the tables. -/
def tableKey (t i : Nat) : Nat := t * 65536 + i % 65536

/-- The reset value of a table entry: the fixed flow entries of Table 6.2, and OVERHEAD of R199. -/
def tableReset (t i : Nat) : Nat :=
  if t = 0 then (if i = 0xFFE then 0xF0000000 else 0)
  else if t = 6 then (if i < 20 then 24 else if 24 ≤ i then 26 else 0) else 0

/-- The entry in force. -/
def Chip.tab (c : Chip) (t i : Nat) : Nat := Map.get (tableReset t i) c.tables (tableKey t i)

/-- Word `w` of an entry. -/
def entryWord (v w : Nat) : Nat := natBits v (32 * w) 32

/-- An entry of a table staged for the next commit (R143). -/
def Chip.stageTab (c : Chip) (t i v : Nat) : Chip := { c with tableStaged := Map.set none c.tableStaged (tableKey t i) (some v) }

/-- The indexes of a table that are listed, ascending. -/
def Chip.tabKeys (c : Chip) (t : Nat) : List Nat := (c.tables.filter fun e => e.1 / 65536 == t).map fun e => e.1 % 65536

/-- Whether an entry's word 0 has VALID, its bit 31. -/
def entryValid (v : Nat) : Bool := v.testBit 31

/-! ## Outputs and free values -/

/-- The chip with one more thing sent at its balls or to a master, the newest first. -/
def Chip.emit (c : Chip) (o : Output) : Chip := { c with emitted := o :: c.emitted }

/-- A value the spec leaves free, with a fresh one each time (R95). -/
def Chip.free (c : Chip) : Chip × Nat := ({ c with freeCtr := c.freeCtr + 1 }, Config.freeNat c.freeCtr)

/-! ## Time -/

/-- One frame in ccy (R5). -/
def frameCcy : Nat := 187500

/-- One millisecond in ccy. -/
def msCcy : Nat := 1500000

/-- One second in ccy. -/
def secCcy : Nat := 1500000000

/-- One microsecond in ccy. -/
def usCcy : Nat := 1500

/-- An instant `n` ccy later; FN counts modulo 2^48 (R6). -/
def NetTime.add (t : NetTime) (n : Nat) : NetTime :=
  let s := t.cif + n
  { fn := (t.fn + s / frameCcy) % 2 ^ 48, cif := s % frameCcy }

/-- Whether one instant is earlier than another (R6). -/
def NetTime.before (a b : NetTime) : Bool := decide (a.fn < b.fn) || (a.fn == b.fn && decide (a.cif < b.cif))

/-- An instant as a count of ccy from FN 0. -/
def NetTime.ccy (t : NetTime) : Nat := t.fn * frameCcy + t.cif

/-- The ccy from one instant to a later one; 0 when it is not later. -/
def NetTime.until (a b : NetTime) : Nat := b.ccy - a.ccy

/-- The banks in which cells may be allocated (R183). -/
def Chip.enabledBanks (c : Chip) : List Nat := (List.range 8).filter fun b => bitOf (c.f COP_CFG_BANK_EN) b

/-- The free cells of the enabled banks. -/
def Chip.freeCells (c : Chip) : Nat := c.enabledBanks.foldl (fun n b => n + (24576 - Map.get 0 c.cooper.cells b)) 0

/-- The sum of MIN over the valid queues (R186). -/
def Chip.sumMin (c : Chip) : Nat :=
  (c.tabKeys 3).foldl (fun n q => if entryValid (c.tab 3 q) then n + natBits (c.tab 1 q) 0 18 else n) 0

/-- The shared pool S (R186). -/
def Chip.sharedPool (c : Chip) : Nat := 24576 * c.enabledBanks.length - 1024 - c.sumMin

/-- The free shared count F; 0 until the first commit (R186). -/
def Chip.freeShared (c : Chip) : Nat := if c.everCommitted then c.sharedPool - c.cooper.shared else 0

/-- What the occupancy source `e` of a counter group shows (Table 14.5). -/
def Chip.occupancy (c : Chip) (g e sel : Nat) : Nat :=
  let frameCells := fun (f : Nat) => ((c.cooper.frames.find? fun r => r.id == f).map fun r => r.banks.length).getD 0
  match g, e with
  | 2, 0x80 => c.lineA.grants.length
  | 3, 0x80 => c.lineB.grants.length
  | 5, 0x80 => c.lineA.contexts.length
  | 5, 0x81 => c.lineB.contexts.length
  | 6, 0x80 => c.sorter.frags.length
  | 6, 0x81 => (c.sorter.acted.filter fun a => a.recirc).length + (c.sorter.input.filter fun p => p.pass == 1).length
  | 7, 0x80 => c.freeCells
  | 7, 0x81 => c.freeShared
  | 7, 0x82 => ((Map.get [] c.cooper.queues sel).map fun r => frameCells r.frame).foldl (· + ·) 0
  | 7, 0x83 => (c.lineA.contexts ++ c.lineB.contexts).foldl (fun n x => n + x.banks.length) 0 + c.twoEnded.waiting.foldl (fun n x => n + x.banks.length) 0
  | _, _ => 0

/-- A pulse source that fires once in each of `k` separate ccy. -/
def Chip.pulses (c : Chip) (g e k : Nat) : Chip :=
  if k = 0 || c.tal.frozen || !c.isOn 48 then c else
  (List.range 8).foldl (fun c j =>
    let w := Map.get 0 c.regs (TAL_G_CTL g j)
    if wordBits w 31 1 == 1 && wordBits w 0 8 == e
    then (c.talAdd (TAL_G_CNT_LO g j) j g (k * talAmount (wordBits w 24 3) (c.f (TAL_G_THR_THR g j)) 1)).1 else c) c

/-- The Tallyman over `n` ccy in which nothing else changes (R360): cycle counters, and the counters that
count a level. -/
def Chip.talElapse (c : Chip) (n : Nat) : Chip :=
  if c.tal.frozen || !c.isOn 48 then c else
  (List.range 24).foldl (fun c g =>
    let c := if Map.get 0 c.regs (TAL_G_CFG g) == 1 then (c.talAdd (TAL_G_CYC_LO g) 8 g n).1 else c
    (List.range 8).foldl (fun c j =>
      let w := Map.get 0 c.regs (TAL_G_CTL g j)
      if wordBits w 31 1 == 1 && 0x80 ≤ wordBits w 0 8 then
        let v := c.occupancy g (wordBits w 0 8) (wordBits w 8 13)
        let m := wordBits w 24 3
        let amt := if m = 1 then (if 0 < v then n else 0) else if m = 2 then (if c.f (TAL_G_THR_THR g j) < v then n else 0)
          else if m = 3 then v * n else (if 0 < v && Map.get 0 c.tal.level (8 * g + j) == 0 then 1 else 0)
        let c := { c with tal := { c.tal with level := Map.set 0 c.tal.level (8 * g + j) v } }
        (c.talAdd (TAL_G_CNT_LO g j) j g amt).1
      else c) c) c

/-- One line. -/
def Chip.line (c : Chip) : Line → LineState
  | .a => c.lineA
  | .b => c.lineB

/-- The chip with a line replaced. -/
def Chip.setLine (c : Chip) (x : Line) (l : LineState) : Chip :=
  match x with
  | .a => { c with lineA := l }
  | .b => { c with lineB := l }

/-- The chip with a line changed. -/
def Chip.modLine (c : Chip) (x : Line) (g : LineState → LineState) : Chip := c.setLine x (g (c.line x))

/-- A burst whose last ccy has passed is no longer on the fibre. -/
def Chip.endBurst (c : Chip) (x : Line) : Chip :=
  match (c.line x).burstEnd with
  | some e => if e ≤ c.now then
      ((c.lower (LNx_TX_STATUS_IN_BURST x)).lower (LNx_TX_STATUS_BEN x)).modLine x fun l => { l with burstEnd := none }
    else c
  | none => c

/-- The packets stamped with the draining epoch that have not passed their pass-2 lookup (R177). -/
def Chip.inFlight (c : Chip) : Nat :=
  let d := 1 - c.f SRT_EPOCH_STATUS_ACTIVE
  (c.sorter.acted.filter fun a => a.recirc && a.epoch == d).length + (c.sorter.input.filter fun p => p.pass == 1 && p.epoch == d).length +
    (c.cooper.frames.filter fun f => f.pool == 1 && f.epoch == d).length

/-- DRAINED rises in the ccy after the last packet of the draining epoch finished its lookup (R177). -/
def Chip.judgeDrained (c : Chip) : Chip :=
  if c.flag SRT_EPOCH_STATUS_DRAINED then c
  else if c.inFlight = 0 || c.sorter.swapAt + 3000 ≤ c.now then
    ((c.raise SRT_EPOCH_STATUS_DRAINED).raise SRT_ALARM_EPOCH_DRAINED).put SRT_EPOCH_STATUS_IN_FLIGHT 0
  else c.put SRT_EPOCH_STATUS_IN_FLIGHT c.inFlight

/-- The data rate of an Ethernet port in Mb/s: that of its mode, and of an SGMII port that of its speed (Table 9.2). -/
def Chip.ethRate (c : Chip) (n : Nat) : Nat :=
  match c.f (ETH_MODE_MODE n) with
  | 1 => match c.f (ETH_STATUS_SPEED n) with
    | 0 => 10 | 1 => 100 | _ => 1000
  | 3 => 2500 | 4 => 10000 | 5 => 25000 | 6 => 100000 | _ => 1000

/-- The ccy that `k` bytes take on an Ethernet port. -/
def Chip.byteCcy (c : Chip) (n k : Nat) : Nat := (12000 * k + c.ethRate n - 1) / c.ethRate n

/-- The ccy at which the fragment in transmission ends: eight bytes of preamble, then its data. -/
def Chip.txEnds (c : Chip) (n : Nat) (t : TxFrame) : Nat := t.start + c.byteCcy n (8 + t.total - t.base)

/-- A frame whose last byte has left its port is counted (R219). -/
def Chip.finishFrame (c : Chip) (n : Nat) (e : EthPort) : Chip :=
  match e.tx with
  | none => c
  | some t =>
    if c.txEnds n t ≤ c.now then
      let c := { c with ports := Map.set {} c.ports n { e with tx := none } }
      if t.bad then c.count (N_ETHP_TX_BAD_FCS n) else (c.count (N_ETHP_TX_FRAMES n)).count (N_ETHP_TX_BYTES n) t.total
    else c

/-- `n` ccy pass: the terminal's clock, NT, the Tallyman, the end of bursts and of Ethernet frames, and DRAINED. -/
def Chip.elapse (c : Chip) (n : Nat) : Chip :=
  if n = 0 then c else
  let c := c.talElapse n
  let frames := (c.nt.cif + n) / frameCcy
  let c := { c with now := c.now + n, nt := c.nt.add n }
  let c := (((c.pulses 23 0 frames).endBurst .a).endBurst .b).judgeDrained
  c.ports.foldl (fun c e => c.finishFrame e.1 e.2) c

/-- The chip at an instant of NT, if that is still to come. -/
def Chip.toInstant (c : Chip) (t : NetTime) : Chip := c.elapse (c.nt.until t)

/-- The chip at the next instant of NT with a CIF, this one included. -/
def Chip.reachCif (c : Chip) (cif : Nat) : Chip :=
  c.elapse (if c.nt.cif ≤ cif then cif - c.nt.cif else frameCcy - c.nt.cif + cif)

/-- The chip at the next instant of NT with a CIF, for an event that comes once each frame: in this frame unless
that instant has passed or the event has come in this frame already. -/
def Chip.toCif (c : Chip) (key cif : Nat) : Chip :=
  let again := decide (c.nt.fn < Map.get 0 c.lastFrame key)
  let c := c.elapse (if c.nt.cif ≤ cif && !again then cif - c.nt.cif else frameCcy - c.nt.cif + cif)
  { c with lastFrame := Map.set 0 c.lastFrame key (c.nt.fn + 1) }

/-- The chip at the next CIF 0 for an event that comes once each frame. -/
def Chip.nextFrame (c : Chip) (key : Nat) : Chip := c.toCif key 0

/-! ## Timers -/

/-- A timer stopped. -/
def Chip.stop (c : Chip) (k : TimerKey) : Chip := { c with timers := c.timers.filter fun e => e.1 != k }

/-- A timer started, or started again, to end in `n` ccy. -/
def Chip.start (c : Chip) (k : TimerKey) (n : Nat) : Chip :=
  let c := c.stop k
  { c with timers := (k, c.now + n) :: c.timers }

/-- When a timer ends, if it runs. -/
def Chip.deadline (c : Chip) (k : TimerKey) : Option Nat := (c.timers.find? fun e => e.1 == k).map (·.2)

/-- Whether a timer runs. -/
def Chip.running (c : Chip) (k : TimerKey) : Bool := (c.deadline k).isSome

/-- The end of a timer: time passes up to its deadline, and what it leads to comes about. Without the timer
nothing does. -/
def Chip.expire (c : Chip) (k : TimerKey) (act : Chip → Chip) : Chip :=
  match c.deadline k with
  | some d => act ((c.elapse (d - c.now)).stop k)
  | none => c

/-! ## Lines -/

/-- The line receive domain of a line: PD01 or PD04. -/
def rxDom (x : Line) : Nat := 1 + 3 * x.idx

/-- The line transmit domain: PD02 or PD05. -/
def txDom (x : Line) : Nat := 2 + 3 * x.idx

/-- The line protocol domain: PD03 or PD06. -/
def protoDom (x : Line) : Nat := 3 + 3 * x.idx

/-- The MAC and PCS domain of an Ethernet port (Table 9.1). -/
def macDom (n : Nat) : Nat := if n < 4 then 27 + n else 31 + (n - 4) / 4

/-- The lane domain of an Ethernet port. -/
def laneDom (n : Nat) : Nat := if n < 4 then 35 else 36 + (n - 4) / 4

/-- The power domain of a tributary. -/
def tribDom (n : Nat) : Nat := 42 + n / 16

/-! The activation states of Table 4.1. -/
def stDark : Nat := 0
def stListening : Nat := 1
def stAnnouncing : Nat := 2
def stRanging : Nat := 3
def stProving : Nat := 4
def stWorking : Nat := 5
def stHolding : Nat := 6
def stSilenced : Nat := 7

/-- A line's activation state. -/
def Chip.actState (c : Chip) (x : Line) : Nat := c.f (LPx_ACT_STATUS_STATE x)

/-- Whether a line is in Sync (Table 2.4). -/
def Chip.inSync (c : Chip) (x : Line) : Bool := c.f (LNx_RX_STATUS_FRAME_STATE x) == 2

/-- Whether a line has LOS or LOF raised. -/
def Chip.lineLost (c : Chip) (x : Line) : Bool :=
  bitOf (c.f (LNx_ALARM_STATE_LEVEL x)) 0 || bitOf (c.f (LNx_ALARM_STATE_LEVEL x)) 1

/-- Whether a line is fit (R118). -/
def Chip.fit (c : Chip) (x : Line) : Bool :=
  c.actState x == stWorking && c.f (LPx_ACT_STATUS_SLEEP x) == 0 && !c.lineLost x && !bitOf (c.f (LNx_ALARM_STATE_LEVEL x)) 3

/-- The LOM timer starts again from 0 while the line holds a message key (R109). -/
def Chip.startLom (c : Chip) (x : Line) : Chip :=
  let t := c.f (LPx_ACT_CFG_LOM_TO x)
  if t = 0 then c.stop (.line x .lom) else c.start (.line x .lom) (t * secCcy)

/-- The trust region replaced. -/
def Chip.setTrust (c : Chip) (t : TrustRegion) : Chip := { c with trust := t }

/-- The trust region with a line's silence record written or deleted, and its count. -/
def TrustRegion.silenced (t : TrustRegion) (x : Line) (rec : Bool) (n : Nat) : TrustRegion :=
  match x with
  | .a => { t with silA := rec, cntA := n }
  | .b => { t with silB := rec, cntB := n }

/-- The terminal mode in force (R116). -/
def Chip.mode (c : Chip) : Nat := let m := c.f TWE_CFG_MODE; if m = 3 then 0 else m

end Sys2Proof.Machine
end

