-- ==== Sys2Proof/Machine/Buffer.lean ====
section
/-! DEFINITION. The packet buffer's shared operations: cells, pools, references and the occupancy of queues (R183 to
R190, R127). -/

namespace Sys2Proof.Machine
open Sys2Proof

/-- The cells of a frame of `n` stored bytes (R183). -/
def cellsOf (n : Nat) : Nat := max 1 (ceilDiv n 256)

/-- The chip with the packet buffer's state changed. -/
def Chip.modCooper (c : Chip) (g : Cooper → Cooper) : Chip := { c with cooper := g c.cooper }

/-- The enabled bank that takes the next cell: the first with a free cell in the rotation. -/
def Chip.nextCellBank (c : Chip) : Option Nat :=
  let es := c.enabledBanks
  let order := es.filter (fun b => decide (c.cooper.nextBank ≤ b)) ++ es.filter (fun b => decide (b < c.cooper.nextBank))
  order.find? fun b => decide (Map.get 0 c.cooper.cells b < 24576)

/-- `n` cells allocated in successive enabled banks, with their banks (R183). -/
def Chip.takeCells : Nat → Chip → List Nat → Chip × List Nat
  | 0, c, acc => (c, acc)
  | n + 1, c, acc =>
    match c.nextCellBank with
    | some b => Chip.takeCells n (c.modCooper fun k => { k with cells := Map.set 0 k.cells b (Map.get 0 k.cells b + 1), nextBank := (b + 1) % 8 }) (acc ++ [b])
    | none => (c, acc)

/-- Cells freed, by their banks. -/
def Chip.giveCells (c : Chip) (banks : List Nat) : Chip :=
  banks.foldl (fun c b => c.modCooper fun k => { k with cells := Map.set 0 k.cells b (Map.get 0 k.cells b - 1) }) c

/-- Cells for a packet in transit, taken from the shared pool (R188); none when it is exhausted. -/
def Chip.takeTransit (c : Chip) (n : Nat) : Option (Chip × List Nat) :=
  if c.freeShared < n || c.freeCells < n then none
  else
    let r := Chip.takeCells n c []
    some (r.1.modCooper fun k => { k with shared := k.shared + n }, r.2)

/-- The cells of a packet in transit freed. -/
def Chip.giveTransit (c : Chip) (banks : List Nat) : Chip :=
  (c.giveCells banks).modCooper fun k => { k with shared := k.shared - banks.length }

/-- A packet in transit that found no cell (R188). -/
def Chip.noCell (c : Chip) (banks : List Nat) : Chip := ((c.giveTransit banks).count N_COP_NOCELL).raise COP_ALARM_NOCELL

/-- A stored frame by its number. -/
def Chip.frame? (c : Chip) (id : Nat) : Option Frame := c.cooper.frames.find? fun f => f.id == id

/-- The references of a queue, oldest first. -/
def Chip.queue (c : Chip) (q : Nat) : List QRef := Map.get [] c.cooper.queues q

/-- The references of a queue replaced. -/
def Chip.setQueue (c : Chip) (q : Nat) (rs : List QRef) : Chip := c.modCooper fun k => { k with queues := Map.set [] k.queues q rs }

/-- A queue's occupancy in cells (R187). -/
def Chip.queueCells (c : Chip) (q : Nat) : Nat :=
  (c.queue q).foldl (fun n r => n + ((c.frame? r.frame).map fun f => f.banks.length).getD 0) 0

/-- The bytes referenced in a queue. -/
def Chip.queueBytes (c : Chip) (q : Nat) : Nat :=
  (c.queue q).foldl (fun n r => n + ((c.frame? r.frame).map fun f => f.bytes.length).getD 0) 0

/-- Whether any queue references a frame. -/
def Chip.referenced (c : Chip) (id : Nat) : Bool := c.cooper.queues.any fun e => e.2.any fun r => r.frame == id

/-- The cells of a frame with no reference left are freed (R127). -/
def Chip.freeFrame (c : Chip) (id : Nat) : Chip :=
  match c.frame? id with
  | none => c
  | some f =>
    if c.referenced id then c
    else ((c.giveCells f.banks).modCooper fun k => { k with frames := k.frames.filter (fun g => g.id != id), shared := k.shared - f.shared }).count N_COP_FRAMES_OUT

/-- One reference of a queue released. -/
def Chip.release (c : Chip) (q id : Nat) : Chip := (c.setQueue q ((c.queue q).filter fun r => r.frame != id)).freeFrame id

/-! ## The scheduler's tree -/

/-- The port at the root of a queue's tree, if its entries lead to one (R197). -/
def Chip.portOf (c : Chip) (q : Nat) : Option Nat :=
  let e := c.tab 3 q
  if !entryValid e then none
  else if natBits e 30 1 = 1 then some (natBits e 0 10)
  else
    let s := c.tab 4 (natBits e 0 10)
    let v := c.tab 5 (natBits s 0 10)
    if entryValid s && entryValid v then some (natBits v 0 10) else none

/-- Whether a queue is an express queue. -/
def Chip.isExpress (c : Chip) (q : Nat) : Bool := natBits (c.tab 3 q) 30 1 == 1

/-- The valid queues of a port, ascending. -/
def Chip.queuesOf (c : Chip) (p : Nat) : List Nat := (c.tabKeys 3).filter fun q => c.portOf q == some p

/-- The line whose allocation ports a port belongs to. -/
def portLine (p : Nat) : Option Line := if 24 ≤ p && p ≤ 87 then some .a else if 88 ≤ p && p ≤ 151 then some .b else none

/-- The scheduler port of allocation port `k` of a line (Table 8.3). -/
def allocPort (x : Line) (k : Nat) : Nat := 24 + 64 * x.idx + k

/-- The line that a queue serves, if it serves one. -/
def Chip.queueLine (c : Chip) (q : Nat) : Option Line := (c.portOf q).bind portLine

/-- Every reference of a line released and counted (R127 case 3). -/
def Chip.releaseRefs (c : Chip) (x : Line) : Chip :=
  (c.cooper.queues.map (·.1)).foldl (fun c q =>
    if c.queueLine q = some x then (c.queue q).foldl (fun c r => (c.release q r.frame).count (N_TWE_UP_REL_A + 8 * x.idx)) c else c) c

/-- The references at the head of a line queue whose age exceeds the limit, in ccy, released (R127 case 2). -/
def Chip.ageQueue (limit : Nat) : Nat → Chip → Line → Nat → Chip
  | 0, c, _, _ => c
  | n + 1, c, x, q =>
    match c.queue q with
    | r :: _ =>
      if limit < c.now - r.enq then Chip.ageQueue limit n (((c.release q r.frame).count (N_TWE_UP_AGED_A + 8 * x.idx)).raise TWE_ALARM_UP_AGED) x q
      else c
    | [] => c

/-- A packet's reassembly context discarded with its cells. -/
def Chip.dropContext (c : Chip) (x : Line) (k : Reasm) : Chip :=
  (c.modLine x fun l => { l with contexts := l.contexts.filter fun j => !(j.flow == k.flow && j.seq == k.seq) }).giveTransit k.banks

/-- Every reassembly context of a line discarded without a count (R148). -/
def Chip.dropContexts (c : Chip) (x : Line) : Chip := (c.line x).contexts.foldl (fun c k => c.dropContext x k) c

end Sys2Proof.Machine
end

