-- ==== Sys2Proof/Machine/Scheduler.lean ====
section
/-! DEFINITION. The scheduler: rates, shapers, DWRR, selection and charging (spec/08_queues_meters_scheduler.md,
R192, R196 to R201). -/

namespace Sys2Proof.Machine
open Sys2Proof

/-- A rate word in kb/s (R192). -/
def rateKbps (w : Nat) : Nat :=
  let r := natBits w 0 21
  if r = 0 then 0
  else if natBits w 31 1 = 1 then 64 * max 15626 (min 1562500 r) else 8 * min 125000 r

/-- What a bucket gains in one ccy, in 2^-24 bytes, truncated (R192). -/
def rateStep (w : Nat) : Nat := rateKbps w * 1000 * 2 ^ 24 / 12000000000

/-- A burst size in 2^-24 bytes (R192). -/
def burstUnits (w : Nat) : Nat := min 16777216 (natBits w 0 25) * 2 ^ 24

/-- A child key of the scheduler. -/
def childKey (t i : Nat) : Nat := 8192 * t + i

/-- The table words that hold an entry's committed and peak rates and bursts: nodes have both, ports a peak only. -/
def Chip.shaperWords (c : Chip) (t i : Nat) : Nat × Nat × Nat × Nat :=
  let e := c.tab (3 + t) i
  if t = 3 then (0, 0, entryWord e 3, entryWord e 4) else (entryWord e 1, entryWord e 2, entryWord e 3, entryWord e 4)

/-- A shaper's buckets brought up to the present ccy (R192, R198). -/
def Chip.shaperNow (c : Chip) (t i : Nat) : Shaper :=
  let s := Map.get {} c.drover.shapers (childKey t i)
  let w := c.shaperWords t i
  let n := c.now - s.seen
  { c := min (burstUnits w.2.1 : Int) (s.c + n * rateStep w.1), p := min (burstUnits w.2.2.2 : Int) (s.p + n * rateStep w.2.2.1), seen := c.now }

/-- The chip with the scheduler's state changed. -/
def Chip.modDrover (c : Chip) (g : Drover → Drover) : Chip := { c with drover := g c.drover }

/-- A shaper's buckets replaced. -/
def Chip.setShaper (c : Chip) (t i : Nat) (s : Shaper) : Chip :=
  c.modDrover fun d => { d with shapers := Map.set {} d.shapers (childKey t i) s }

/-- Whether the peak bucket is open; a PIR of 0 has no limit (R198). -/
def Chip.peakOpen (c : Chip) (t i : Nat) : Bool :=
  let w := c.shaperWords t i
  rateKbps w.2.2.1 == 0 || decide (0 ≤ (c.shaperNow t i).p)

/-- Whether committed shaping is on and its bucket open. -/
def Chip.committedOpen (c : Chip) (t i : Nat) : Bool :=
  let w := c.shaperWords t i
  rateKbps w.1 != 0 && decide (0 ≤ (c.shaperNow t i).c)

/-- OVERHEAD of a port (R199). -/
def Chip.overhead (c : Chip) (p : Nat) : Nat := natBits (c.tab 6 p) 0 6

/-- The bytes of a reference not yet fixed in a grant. -/
def Chip.restBytes (c : Chip) (r : QRef) : Nat := ((c.frame? r.frame).map fun f => f.bytes.length).getD 0 - r.sent

/-- The first reference of a queue that is not placed in a grant being built. -/
def Chip.headRef (c : Chip) (q : Nat) : Option QRef := (c.queue q).find? fun r => !r.taken

/-- Whether a queue's head can be offered: nothing of a queue passes a frame that waits for a later FN (R158). -/
def Chip.offered (c : Chip) (q : Nat) (fn : Option Nat) : Bool :=
  match c.headRef q with
  | none => false
  | some r => match r.afterFn, fn with
    | some a, some f => decide (a < f)
    | some _, none => false
    | none, _ => true

/-- The cost of a queue's head frame on a port (R199). -/
def Chip.headCost (c : Chip) (q p : Nat) : Nat :=
  ((c.headRef q).map fun r => c.restBytes r).getD 0 + c.overhead p

/-- A child's deficit less the cost pending against it (R200). -/
def Chip.afford (c : Chip) (k : Nat) : Int := Map.get 0 c.drover.deficits k - Map.get 0 c.drover.owed k

/-- A child's weight, from word 0 of its entry (R197). -/
def weightOf (e : Nat) : Nat := let w := natBits e 16 11; if w = 0 then 1 else min 1024 w

/-- A child's priority. -/
def prioOf (e : Nat) : Nat := natBits e 27 3

/-- The entry of a child key. -/
def Chip.childEntry (c : Chip) (k : Nat) : Nat := c.tab (3 + k / 8192) (k % 8192)

/-- A child's turn begins: it gains 64 B for each unit of weight. -/
def Chip.beginTurn (c : Chip) (tk k : Nat) : Chip :=
  c.modDrover fun d => { d with
    deficits := Map.set 0 d.deficits k (Map.get 0 d.deficits k + 64 * weightOf (c.childEntry k))
    turns := Map.set {} d.turns tk { child := k, begun := true } }

/-- The member after `k` in ascending order, the first one after the last. -/
def nextMember (ms : List Nat) (k : Nat) : Nat :=
  match ms.find? fun m => decide (k < m) with
  | some m => m
  | none => ms.headD 0

/-- DWRR over the members of one level (R200): the child in turn keeps it while it can afford its next frame;
else the turn passes on. `head` answers a member's choice and its cost. `tk` names the node and level. -/
def Chip.dwrr (head : Chip → Nat → Option (Chip × Nat × Nat)) : Nat → Chip → Nat → List Nat → Option (Chip × Nat × Nat)
  | 0, _, _, _ => none
  | n + 1, c, tk, ms =>
    if ms = [] then none else
    let t := Map.get {} c.drover.turns tk
    let k := if t.begun && ms.contains t.child then t.child else if t.begun then nextMember ms t.child else if ms.contains t.child then t.child else nextMember ms t.child
    let c' := if t.begun && ms.contains t.child then c else c.beginTurn tk k
    match head c' k with
    | some (c2, q, cost) =>
      if (cost : Int) ≤ c'.afford k then some (c2, q, cost)
      else
        let nxt := nextMember ms k
        Chip.dwrr head n (c'.modDrover fun d => { d with turns := Map.set {} d.turns tk { child := nxt, begun := false } }) tk ms
    | none => none

/-- The rounds DWRR may need before a child affords the largest frame. -/
def dwrrFuel (ms : List Nat) : Nat := 600 * (ms.length + 1)

/-- Whether a child key holds an eligible frame (R200). -/
def Chip.eligible (c : Chip) (fn : Option Nat) (k : Nat) : Bool :=
  let i := k % 8192
  match k / 8192 with
  | 0 => c.offered i fn
  | 1 => c.peakOpen 1 i && (c.tabKeys 3).any fun q => entryValid (c.tab 3 q) && !c.isExpress q && natBits (c.tab 3 q) 0 10 == i && c.offered q fn
  | 2 => c.peakOpen 2 i && (c.tabKeys 4).any fun s => entryValid (c.tab 4 s) && natBits (c.tab 4 s) 0 10 == i && c.peakOpen 1 s &&
      (c.tabKeys 3).any fun q => entryValid (c.tab 3 q) && !c.isExpress q && natBits (c.tab 3 q) 0 10 == s && c.offered q fn
  | _ => false

/-- The members that pick considers: those with their committed bucket open, else all, at their highest
priority, with that priority (R200). -/
def Chip.candidates (c : Chip) (es : List Nat) : List Nat × Nat :=
  let cs := es.filter fun k => k / 8192 != 0 && c.committedOpen (k / 8192) (k % 8192)
  let s := if cs = [] then es else cs
  let l := s.foldl (fun m k => max m (prioOf (c.childEntry k))) 0
  (s.filter fun k => prioOf (c.childEntry k) == l, l)

/-- A queue's own choice: its head frame and its cost. -/
def queueHead (p : Nat) (c : Chip) (k : Nat) : Option (Chip × Nat × Nat) := some (c, k, c.headCost k p)

/-- pick of a subscriber node (R200). -/
def Chip.pickSub (fn : Option Nat) (p : Nat) (c : Chip) (k : Nat) : Option (Chip × Nat × Nat) :=
  let es := ((c.tabKeys 3).filter fun q => entryValid (c.tab 3 q) && !c.isExpress q && natBits (c.tab 3 q) 0 10 == k % 8192 && c.offered q fn)
  let s := c.candidates es
  Chip.dwrr (queueHead p) (dwrrFuel s.1) c (8 * k + s.2) s.1

/-- pick of a service node. -/
def Chip.pickService (fn : Option Nat) (p : Nat) (c : Chip) (k : Nat) : Option (Chip × Nat × Nat) :=
  let es := ((c.tabKeys 4).filter fun s => entryValid (c.tab 4 s) && natBits (c.tab 4 s) 0 10 == k % 8192).map (childKey 1) |>.filter fun j => c.eligible fn j
  let s := c.candidates es
  Chip.dwrr (Chip.pickSub fn p) (dwrrFuel s.1) c (8 * k + s.2) s.1

/-- pick of a port's service nodes. -/
def Chip.pickPort (fn : Option Nat) (p : Nat) (c : Chip) : Option (Chip × Nat × Nat) :=
  let es := ((c.tabKeys 5).filter fun s => entryValid (c.tab 5 s) && natBits (c.tab 5 s) 0 10 == p).map (childKey 2) |>.filter fun j => c.eligible fn j
  let s := c.candidates es
  Chip.dwrr (Chip.pickService fn p) (dwrrFuel s.1) c (8 * childKey 3 p + s.2) s.1

/-- The child keys on a queue's path that have a deficit: the queue, and its nodes (R199). -/
def Chip.pathKeys (c : Chip) (q : Nat) : List Nat :=
  if c.isExpress q then [q]
  else
    let s := natBits (c.tab 3 q) 0 10
    [q, childKey 1 s, childKey 2 (natBits (c.tab 4 s) 0 10)]

/-- A selection counted (R210): from an express queue, from the committed sets of every choice among nodes, or otherwise. -/
def Chip.countSelection (c : Chip) (q : Nat) : Chip :=
  let ks := (c.pathKeys q).filter fun k => k / 8192 != 0
  (c.count N_DRV_SEL).count (if c.isExpress q then N_DRV_SEL_EXP
    else if ks.all fun k => c.committedOpen (k / 8192) (k % 8192) then N_DRV_SEL_COMMIT else N_DRV_SEL_EXCESS)

/-- A choice with its selection counted. -/
def counted (r : Option (Chip × Nat × Nat)) : Option (Chip × Nat × Nat) := r.map fun t => (t.1.countSelection t.2.1, t.2)

/-- The express queues of a port with a frame to offer, ascending. Where `e` is false, a queue whose head waits for an E grant
offers none (R155). -/
def Chip.expressQueues (c : Chip) (p : Nat) (fn : Option Nat) (e : Bool := true) : List Nat :=
  (c.tabKeys 3).filter fun q => entryValid (c.tab 3 q) && c.isExpress q && natBits (c.tab 3 q) 0 10 == p && c.offered q fn &&
    (e || !(c.headRef q).any (·.waitsE))

/-- The express choice of a port: DWRR at the highest level (R200). -/
def Chip.selectExpress (c : Chip) (p : Nat) (fn : Option Nat) (e : Bool := true) : Option (Chip × Nat × Nat) :=
  let es := c.expressQueues p fn e
  let l := es.foldl (fun m q => max m (prioOf (c.tab 3 q))) 0
  let ms := es.filter fun q => prioOf (c.tab 3 q) == l
  counted (Chip.dwrr (queueHead p) (dwrrFuel ms) c (8 * childKey 3 p + 2 ^ 20 + l) ms)

/-- The choice of a port among its hierarchy (R200). -/
def Chip.selectOther (c : Chip) (p : Nat) (fn : Option Nat) : Option (Chip × Nat × Nat) :=
  if c.peakOpen 3 p then counted (c.pickPort fn p) else none

/-- select (R200): the queue chosen for a port and the cost of its head frame. -/
def Chip.select (c : Chip) (p : Nat) (fn : Option Nat) : Option (Chip × Nat × Nat) :=
  if c.expressQueues p fn = [] then c.selectOther p fn else c.selectExpress p fn

/-- A cost taken from one shaper's buckets. -/
def Chip.chargeShaper (c : Chip) (t i cost : Nat) : Chip :=
  let s := c.shaperNow t i
  c.setShaper t i { s with c := s.c - cost * 2 ^ 24, p := s.p - cost * 2 ^ 24 }

/-- A selected frame's cost stands against its path until it is charged (R199). -/
def Chip.owe (c : Chip) (q cost : Nat) : Chip :=
  (c.pathKeys q).foldl (fun c k => c.modDrover fun d => { d with owed := Map.set 0 d.owed k (Map.get 0 d.owed k + cost) }) c

/-- A pending cost released without a charge (R199). -/
def Chip.forgive (c : Chip) (q cost : Nat) : Chip :=
  (c.pathKeys q).foldl (fun c k => c.modDrover fun d => { d with owed := Map.set 0 d.owed k (Map.get 0 d.owed k - cost) }) c

/-- The stored bytes that left a scheduler port in the bandwidth window (R366). -/
def Chip.bwLeave (c : Chip) (p bytes frames : Nat) : Chip :=
  if c.flag TAL_BW_CFG_EN && c.tal.bwRun then
    { c with tal := { c.tal with bwBytes := Map.set 0 c.tal.bwBytes p (Map.get 0 c.tal.bwBytes p + bytes), bwFrames := Map.set 0 c.tal.bwFrames p (Map.get 0 c.tal.bwFrames p + frames) } }
  else c

/-- A cost charged to a queue's path: deficits, shapers and the port's peak bucket (R198 to R200). -/
def Chip.charge (c : Chip) (q p cost : Nat) : Chip :=
  let c := (c.pathKeys q).foldl (fun c k => c.modDrover fun d => { d with deficits := Map.set 0 d.deficits k (Map.get 0 d.deficits k - cost) }) c
  let c := (c.pathKeys q).foldl (fun c k => if k / 8192 = 0 then c else c.chargeShaper (k / 8192) (k % 8192) cost) c
  c.chargeShaper 3 p cost

/-- Whether a child of a DWRR list still has a frame: a queue of its own, a scheduler queue or a scheduler node (R200). -/
def Chip.childHolds (c : Chip) (k : Nat) : Bool :=
  match k / 8192 with
  | 0 => c.queue k != []
  | 1 => (c.tabKeys 3).any fun j => natBits (c.tab 3 j) 0 10 == k % 8192 && !c.isExpress j && c.queue j != []
  | _ => (c.tabKeys 3).any fun j =>
      !c.isExpress j && natBits (c.tab 4 (natBits (c.tab 3 j) 0 10)) 0 10 == k % 8192 && c.queue j != []

/-- A child left with no frame has its deficit set to 0 (R200). -/
def Chip.emptied (c : Chip) (q : Nat) : Chip :=
  (c.pathKeys q).foldl (fun (c : Chip) k =>
    if c.childHolds k then c else c.modDrover fun d => { d with deficits := Map.set 0 d.deficits k 0 }) c

/-- Whether the scheduler works: its domain, the buffer manager's and the meters' are ON (R206, Table 1.8). -/
def Chip.schedulerWorks (c : Chip) : Bool := c.isOn 25 && c.isOn 24 && c.isOn 26

/-- Whether a stored frame can be read: no cell of it lies in a bank that is or was lost (Table 1.8). -/
def Chip.readable (c : Chip) (f : Frame) : Bool := !f.lost && f.banks.all fun b => c.isOn (16 + b)

/-- Every reference to a frame released, and its cells with them (R184). -/
def Chip.dropFrame (c : Chip) (id : Nat) : Chip :=
  (c.cooper.queues.map (·.1)).foldl (fun c q => if (c.queue q).any (fun r => r.frame == id) then (c.release q id).emptied q else c) c

/-- A frame with cells in a lost bank discarded whole at read (Table 1.8). -/
def Chip.bankLoss (c : Chip) (id : Nat) : Chip :=
  ((c.dropFrame id).count N_COP_BANK_LOSS_DROP).raise COP_ALARM_BANK_LOSS

/-- A frame taken for a port other than an allocation port: selected, charged and out of its queue (R199). A frame
that cannot be read is discarded, and the scheduler selects again. -/
def Chip.takeFrom : Nat → Chip → Nat → Chip × Option Frame
  | 0, c, _ => (c, none)
  | n + 1, c, p =>
    match c.select p none with
    | none => (c, none)
    | some (c, q, cost) =>
      match c.headRef q with
      | none => (c, none)
      | some r => match c.frame? r.frame with
        | none => (c, none)
        | some f =>
          if c.readable f then ((((c.charge q p cost).bwLeave p f.bytes.length 1).release q r.frame).emptied q, some { f with qid := q })
          else Chip.takeFrom n (c.bankLoss r.frame) p

/-- The frame that an egress other than an allocation port takes. -/
def Chip.takeFrame (c : Chip) (p : Nat) : Chip × Option Frame :=
  if c.schedulerWorks then Chip.takeFrom (c.cooper.frames.length + 1) c p else (c, none)

end Sys2Proof.Machine
end

