-- ==== Sys2Proof/Machine/LineOps.lean ====
section
/-! DEFINITION. The shared operations of a line: delineation state, grants, identity, the activation state
machine's transitions and the check of a downstream message (spec chapters 2 to 4). -/

namespace Sys2Proof.Machine
open Sys2Proof

/-! ## The laser and the grants -/

/-- Whether a line's LDOFF is released: the laser is held dark (R28, R398). -/
def Chip.ldoff (c : Chip) (x : Line) : Bool :=
  !c.isOn (txDom x) || !c.flag (LNx_TX_CTRL_TX_EN x) || c.flag (ITM_PTR_STATUS_HELD x) || c.flag ITM_SAFE_ACTIVE ||
    c.actState x == stSilenced || c.pins.tap.drivesPins || !c.boot.started

/-- A line's pending grants replaced; LPx_GRANT_STATUS.PENDING follows. -/
def Chip.setGrants (c : Chip) (x : Line) (gs : List Grant) : Chip :=
  (c.modLine x fun l => { l with grants := gs }).put (LPx_GRANT_STATUS_PENDING x) gs.length

/-- A reference of a queue changed. -/
def Chip.modRef (c : Chip) (q id : Nat) (f : QRef → QRef) : Chip :=
  c.setQueue q ((c.queue q).map fun r => if r.frame = id then f r else r)

/-- A bulk item of a line changed. -/
def Chip.modBulk (c : Chip) (x : Line) (id : Nat) (f : BulkItem → BulkItem) : Chip :=
  c.modLine x fun l => { l with bulkOut := l.bulkOut.map fun b => if b.id = id then f b else b }

/-- A carriage frame that is not fixed displaced: its frame returns to the head of its queue untouched, and its pending
cost is released (R156, R199). -/
def Chip.displace (c : Chip) (x : Line) (p : PlacedFrame) : Chip :=
  match p.queue with
  | some q => (c.modRef q p.frame fun r => { r with sent := p.offset, fidx := p.fidx, taken := false }).forgive q (p.len + c.overhead ((c.portOf q).getD 0))
  | none => c.modBulk x p.frame fun b => { b with sent := p.offset, fidx := p.fidx, taken := false }

/-- A carriage frame that does not leave in its grant: its packet goes on from that frame's first byte (R69, R158). What was
charged for a fixed frame stays charged. -/
def Chip.unplace (c : Chip) (x : Line) (p : PlacedFrame) : Chip :=
  if p.flow = 0xFFF then c else
  match p.queue with
  | some q =>
    let c := if p.fixed then c else c.forgive q (p.len + c.overhead ((c.portOf q).getD 0))
    c.modRef q p.frame fun r => if p.offset ≤ r.sent then { r with sent := p.offset, fidx := p.fidx, taken := false } else { r with taken := false }
  | none => c.modBulk x p.frame fun b => if p.offset ≤ b.sent then { b with sent := p.offset, fidx := p.fidx, taken := false } else { b with taken := false }

/-- The carriage frames of discarded grants return to their queues. -/
def Chip.unplaceGrants (c : Chip) (x : Line) (gs : List Grant) : Chip := gs.foldl (fun c g => g.placed.foldl (fun c p => c.unplace x p) c) c

/-- Every pending grant of a line discarded and counted, and its Porter windows closed (R69). -/
def Chip.dropGrants (c : Chip) (x : Line) : Chip :=
  let n := (c.line x).grants.length
  let c := (c.unplaceGrants x (c.line x).grants).setGrants x []
  (c.modLine x fun l => { l with windows := [] }).count (N_LPx_GRANT_LOST x) n

/-- A burst on the fibre cut in this ccy: BEN low (R391, R395). -/
def Chip.cutBurst (c : Chip) (x : Line) : Chip :=
  ((c.lower (LNx_TX_STATUS_IN_BURST x)).lower (LNx_TX_STATUS_BEN x)).modLine x fun l => { l with burstEnd := none }

/-- The safe state on a line: the burst cut and counted with the pending grants (R391). -/
def Chip.darken (c : Chip) (x : Line) : Chip :=
  let cut := (c.line x).burstEnd.isSome
  let c := (c.cutBurst x).dropGrants x
  if cut then c.count (N_LPx_GRANT_LOST x) else c

/-! ## Identity and states -/

/-- The EqD that a change makes of the one before it (R98); an adjustment that would leave 0 to 4,194,303 changes nothing. -/
def eqdAfter (q : Nat) (e : EqdChange) : Nat :=
  let v := if e.adjust then (q : Int) + e.value else e.value
  if v < 0 || 4194303 < v then q else v.toNat

/-- The EqD in force for grants of a frame (R78): the present one after every change whose effective FN has come by then. -/
def Chip.eqdFor (c : Chip) (x : Line) (fn : Nat) : Nat :=
  ((c.line x).eqds.filter fun e => decide (e.fn ≤ fn)).foldl eqdAfter (c.f (LPx_IDENT_EQD x))

/-- The changes of EqD in the order of their effective FNs, with one more that was accepted last. -/
def addEqd (es : List EqdChange) (e : EqdChange) : List EqdChange :=
  es.filter (fun k => decide (k.fn ≤ e.fn)) ++ e :: es.filter fun k => decide (e.fn < k.fn)

/-- The line's timers of the activation states (Table 4.2). -/
def Chip.stopStateTimers (c : Chip) (x : Line) : Chip :=
  (((c.stop (.line x .annWait)).stop (.line x .rangeTo)).stop (.line x .proveTo)).stop (.line x .hold)

/-- A change of activation state: STATE, STATE_CHG, the timers of the state left, and the REG_ACCESS
messages that wait when the line leaves Working (R90, R346). -/
def Chip.setState (c : Chip) (x : Line) (st : Nat) : Chip :=
  if c.actState x = st then c else
  let c := if c.actState x = stWorking then c.modLine x fun l => { l with regQueue := [] } else c
  ((c.stopStateTimers x).put (LPx_ACT_STATUS_STATE x) st).raise (LPx_ACT_ALARM_STATE_CHG x)

/-- The alloc bindings of a line cleared (R74). -/
def Chip.clearBindings (c : Chip) (x : Line) : Chip :=
  { c with regs := c.regs.filter fun e => !(decide (LPx_ALLOC x 0 ≤ e.1) && decide (e.1 < LPx_ALLOC x 64)) }

/-- The line's identity cleared (R93): TID, EqD, bindings, keys and pending grants; the references and
contexts that hang on it go too (R127, R148). -/
def Chip.clearIdentity (c : Chip) (x : Line) : Chip :=
  let c := (c.dropGrants x).clearBindings x
  let c := c.setReg (LPx_IDENT x) 0xFFC00000
  let c := (c.lower (LPx_ACT_STATUS_KEYED x)).put (LPx_ACT_STATUS_SLEEP x) 0
  let c := (c.stop (.line x .lom)).stop (.line x .roll)
  let c := c.modLine x fun l => { l with micKey := none, lineKey := none, lastSeq := none, micRun := 0, eqds := [], rolls := [], rollCount := [], sleep := none, proof := none, bulkIn := none, bulkOut := [] }
  let c := c.lower (LPx_KEY_ROLL_STATUS_OVERLAP x)
  (c.releaseRefs x).dropContexts x

/-- Listening when the line is in Sync, else Dark (Table 4.2). -/
def Chip.toListening (c : Chip) (x : Line) : Chip :=
  let c := c.modLine x fun l => { l with usableRun := 0 }
  c.setState x (if c.inSync x && !c.flag (LPx_ACT_STATUS_DISABLED x) then stListening else stDark)

/-- The announce hold-off starts (Table 4.2). -/
def Chip.startHoldoff (c : Chip) (x : Line) : Chip :=
  (c.modLine x fun l => { l with holdoff := true }).start (.line x .holdoff) (c.f (LPx_ACT_TMR2_ANN_HOLDOFF x) * msCcy)

/-- A Porter violation on the line (Table 4.2): identity cleared, ROGUE set, Listening or Dark. -/
def Chip.rogue (c : Chip) (x : Line) : Chip :=
  let c := c.raise (LPx_ACT_ALARM_STATE_ROGUE x)
  if c.actState x = stSilenced then c
  else ((c.clearIdentity x).raise (LPx_ACT_ALARM_ROGUE x)).toListening x

/-- The Porter's gate forced low and its windows closed by a violation (R395). -/
def Chip.shutGate (c : Chip) (x : Line) : Chip := (c.cutBurst x).modLine x fun l => { l with windows := [] }

/-- LOS or LOF in the activation state machine (Table 4.2). In a deep sleep neither is judged (R112). -/
def Chip.lossOfLine (c : Chip) (x : Line) : Chip :=
  let c := c.dropGrants x
  let st := c.actState x
  if st = stWorking then
    if 2 ≤ c.f (LPx_ACT_STATUS_SLEEP x) then c else
    let h := c.f (LPx_ACT_TMR2_HOLD x)
    let c := (c.setState x stHolding).count (N_LPx_HOLD_ENTRY x)
    let c := (c.modLine x fun l => { l with sleep := none }).put (LPx_ACT_STATUS_SLEEP x) 0
    c.start (.line x .hold) ((if h = 0 then 1 else min h 4000) * msCcy)
  else if st = stListening then c.setState x stDark
  else if st = stAnnouncing || st = stRanging || st = stProving then (c.clearIdentity x).setState x stDark
  else c

/-- Sync gained (Tables 2.4 and 4.2): LOF clears, RDI is held, Dark leads to Listening and Holding to Working. -/
def Chip.syncGained (c : Chip) (x : Line) : Chip :=
  let hold := c.f (LPx_FRAME_CFG_RDI_HOLD x)
  let c := c.lowerBit (LNx_ALARM_STATE_LEVEL x) 1
  let c := c.modLine x fun l => { l with rdiUntil := c.now + 16 * (if hold = 0 then 1 else hold) * frameCcy, sdBits := 0, sfBits := 0, sdFrames := 0, sfFrames := 0 }
  let c := c.stop (.line x .lofAcq)
  let st := c.actState x
  if st = stDark && !c.flag (LPx_ACT_STATUS_DISABLED x) then (c.modLine x fun l => { l with usableRun := 0 }).setState x stListening
  else if st = stHolding then c.setState x stWorking
  else c

/-- LOF rises (R42, R53): the alarm and its level, Hunt, FN_VALID clear. -/
def Chip.lofRise (c : Chip) (x : Line) : Chip :=
  let was := c.f (LNx_RX_STATUS_FRAME_STATE x)
  let c := if bitOf (c.f (LNx_ALARM_STATE_LEVEL x)) 1 then c else
    (c.raise (LNx_ALARM_LOF x)).raiseBit (LNx_ALARM_STATE_LEVEL x) 1
  let c := if was = 2 then c.count (N_LNx_LOF_EVT x) else c
  let c := (c.put (LNx_RX_STATUS_FRAME_STATE x) 0).lower (LNx_RX_STATUS_FN_VALID x)
  let c := c.setReg (LNx_HUNT_STATUS x) 0
  (c.modLine x fun l => { l with cands := [], badRun := 0, recalled := none }).lossOfLine x

/-- LOS rises (R35). -/
def Chip.losRise (c : Chip) (x : Line) : Chip :=
  let c := ((c.raise (LNx_ALARM_LOS x)).raiseBit (LNx_ALARM_STATE_LEVEL x) 0).raise (LNx_RX_STATUS_LOS x)
  let c := ((c.lower (LNx_RX_STATUS_RX_READY x)).lower (LNx_RX_STATUS_CDR_LOCK x)).put (LNx_FOM_FOM x) 0
  (((c.put (LNx_FOM_FOM_Q x) 0).stop (.line x .lofAcq)).stop (.line x .acquire)).lofRise x

/-- Announcing begins when a Listening line meets every condition of Table 4.2. -/
def Chip.tryAnnounce (c : Chip) (x : Line) : Chip :=
  let lim := c.f (LPx_ACT_TMR0_LISTEN_MIN x)
  if c.actState x = stListening && decide ((if lim = 0 then 1 else lim) ≤ (c.line x).usableRun) && c.flag (LPx_ACT_CFG_ANN_EN x) &&
      !(c.line x).holdoff && !c.flag (ITM_PTR_STATUS_HELD x) then
    ((c.setState x stAnnouncing).put (LPx_ACT_STATUS_BACKOFF x) 0).modLine x fun l => { l with skip := 0 }
  else c

/-- Entry to Silenced (R106, R107): the identity cleared, the silence count advanced, a silence record
written; a failed write is retried. -/
def Chip.silence (c : Chip) (x : Line) (src : Nat) (written : Bool) : Chip :=
  let c := (c.clearIdentity x).setState x stSilenced
  let c := (c.raise (LPx_ACT_ALARM_SILENCED x)).count (N_LPx_ESTOP x)
  let n := (c.f (LPx_SIL_COUNT_COUNT x) + 1) % 2 ^ 32
  let c := (c.put (LPx_SIL_COUNT_COUNT x) n).put (LPx_SILENCE_SRC x) src
  let c := c.modLine x fun l => { l with stopSrc := none, silTries := 0 }
  if written then (c.setTrust (c.trust.silenced x true n)).raise (LPx_SILENCE_SIL_NVM x)
  else c.start (.line x .silRetry) (100 * msCcy)

/-- The end of the announce: the line left Proving without a proof (Table 4.2). -/
def Chip.proofFails (c : Chip) (x : Line) (result : Nat) : Chip :=
  let c := (c.clearIdentity x).put (LPx_PROVE_STATUS_RESULT x) result
  let c := (c.count (N_LPx_PROVE_FAIL x)).raise (LPx_ACT_ALARM_PROVE_FAIL x)
  (c.startHoldoff x).toListening x

/-- LOM rises (R109): the alarm, its level, and Listening when LOM_DEACT is 1. -/
def Chip.lomRise (c : Chip) (x : Line) : Chip :=
  if c.flag (LPx_ACT_ALARM_STATE_LOM x) then c else
  let c := ((c.raise (LPx_ACT_ALARM_LOM x)).raise (LPx_ACT_ALARM_STATE_LOM x)).count (N_LPx_LOM_EVT x)
  if c.actState x = stWorking && c.flag (LPx_ACT_CFG_LOM_DEACT x) then ((c.clearIdentity x).startHoldoff x).toListening x
  else c

/-! ## Messages -/

/-- The first 56 bytes of a line message (Table 3.4). -/
def msgBytes (tid type : Nat) (ackreq : Bool) (seq : Nat) (content : List Byte) : List Byte :=
  beBytes 2 (tid % 1024 * 64) ++ beBytes 1 type ++ beBytes 1 (b2n ackreq) ++ beBytes 4 seq ++ slice content 0 48

/-- The MIC of a message under a key: AES-CMAC over FN, direction and line, and the message (R71). -/
def micOf (key : List Byte) (fn : Nat) (up : Bool) (x : Line) (msg : List Byte) : List Byte :=
  (Config.cmac key (beBytes 6 fn ++ beBytes 1 (2 * b2n up + x.idx) ++ msg)).take 8

/-- A packet that waits for the line's bulk channel, with the next number of the bulk sequence (R150). -/
def Chip.sendBulk (c : Chip) (x : Line) (message : Bool) (type : Nat) (bytes : List Byte) (attest : Bool) : Chip :=
  c.modLine x fun l => { l with
    bulkSeq := l.bulkSeq + 1
    bulkOut := l.bulkOut ++ [{ id := l.bulkSeq, message := message, type := type, bytes := bytes, attest := attest }] }

/-- An ACK, or another message of Table 3.6, waits for the line's bulk channel. -/
def Chip.sendMessage (c : Chip) (x : Line) (type : Nat) (content : List Byte) : Chip :=
  let n := (c.line x).txSeq
  let c := c.modLine x fun l => { l with txSeq := (n + 1) % 2 ^ 32 }
  c.sendBulk x true 0 (msgBytes (c.f (LPx_IDENT_TID x)) type false n content) false

/-- An object waits for the line's bulk channel (R151). DESIGN CHOICE (assumption 21): it goes up as one segment. -/
def Chip.sendObject (c : Chip) (x : Line) (type : Nat) (obj : List Byte) (attest : Bool) : Chip := c.sendBulk x false type obj attest

/-- An ACK of a message (Table 3.6): the type and SEQ answered, and the result. -/
def Chip.ack (c : Chip) (x : Line) (type seq result : Nat) : Chip :=
  c.sendMessage x 0x83 (beBytes 1 type ++ beBytes 4 seq ++ beBytes 1 result)

/-- The answer to a message that asks for one, on a line that holds a TID (R94). -/
def Chip.answer (c : Chip) (x : Line) (m : Msg) (type result : Nat) : Chip :=
  if m.ackreq && c.f (LPx_IDENT_TID x) != 0x3FF then c.ack x type m.seq result else c

/-- The roll count K of a flow of the line (R110). -/
def LineState.rolled (l : LineState) (f : Nat) : Nat := Map.get 0 l.rollCount f

/-- A refusal at step 4 or 5 of R72; one that hits a unicast message adds to the LOM run (R109). -/
def Chip.micRefused (c : Chip) (x : Line) (ctr : Nat) (unicast : Bool) : Chip :=
  let c := (c.count ctr).raise (LPx_FRM_ALARM_MSG_MIC x)
  if unicast then
    let n := (c.line x).micRun + 1
    let lim := c.f (LPx_ACT_CFG_LOM_MIC_LIM x)
    let c := c.modLine x fun l => { l with micRun := n }
    if (if lim = 0 then 1 else lim) ≤ n then c.lomRise x else c
  else c

/-- Whether a line receives messages: in Sync and not in a deep sleep (R112). -/
def Chip.hearsMessages (c : Chip) (x : Line) : Bool :=
  c.inSync x && c.isOn (protoDom x) && decide (c.f (LPx_ACT_STATUS_SLEEP x) < 2)

/-- A unicast message accepted under the key: SEQ, the LOM run and timer, and the way into Working (R72,
R109, Table 4.2). -/
def Chip.unicastAccepted (c : Chip) (x : Line) (m : Msg) : Chip :=
  let c := c.modLine x fun l => { l with lastSeq := some m.seq, micRun := 0 }
  let c := (c.lower (LPx_ACT_ALARM_STATE_LOM x)).startLom x
  if c.actState x = stProving then
    ((c.setState x stWorking).count (N_LPx_PROVE_OK x)).put (LPx_PROVE_STATUS_STEP x) 5
  else c

/-- The check of a downstream message (R72), with what its type gives: the code, whether it may be
broadcast and whether it is accepted without a key. The answer says whether the message is accepted. -/
def Chip.checkMessage (c : Chip) (x : Line) (m : Msg) (type : Nat) (bcast noKey : Bool) (content : List Byte) : Chip × Bool :=
  let own := c.f (LPx_IDENT_TID x)
  if !c.hearsMessages x || (m.tid != own && m.tid != 0x3FF) then (c, false)
  else if m.errored then (c.count (N_LPx_MSG_ERRD x), false)
  else
    let unicast := m.tid != 0x3FF
    match (c.line x).micKey with
    | none =>
      if m.mic.any (· != 0) || !noKey then ((c.count (N_LPx_MSG_MIC x)).raise (LPx_FRM_ALARM_MSG_MIC x), false)
      else
        let c := c.count (N_LPx_MSG_RX x)
        (if unicast then (c.modLine x fun l => { l with micRun := 0 }).lower (LPx_ACT_ALARM_STATE_LOM x) else c, true)
    | some key =>
      if !unicast then
        if bcast then (c.count (N_LPx_MSG_RX x), true) else (c.micRefused x (N_LPx_MSG_MIC x) false, false)
      else if micOf key m.fn false x (msgBytes m.tid type m.ackreq m.seq content) != m.mic then
        (c.micRefused x (N_LPx_MSG_MIC x) true, false)
      else if (c.line x).lastSeq.any (fun s => decide (m.seq ≤ s)) then (c.micRefused x (N_LPx_MSG_REPLAY x) true, false)
      else ((c.count (N_LPx_MSG_RX x)).unicastAccepted x m, true)

/-- A message row of Table 3.5 carried out: checked by R72, passed over when it is not for this terminal,
ignored and counted in a state that bars its type (R94, Table 4.3), and otherwise acted on. -/
def Chip.message (o : Otp) (c : Chip) (x : Line) (m : Msg) (type : Nat) (bcast noKey : Bool) (content : List Byte)
    (serial : Option Nat) (states : List Nat) (act : Chip → Chip) : Chip :=
  let r := c.checkMessage x m type bcast noKey content
  if !r.2 then r.1
  else
    let c := r.1
    let passed := match serial with
      | some s => s != o.serial
      | none => !bcast && m.tid == 0x3FF && c.f (LPx_IDENT_TID x) != 0x3FF
    if passed then c
    else if states.contains (c.actState x) then act c
    else (c.count (N_LPx_ACT_IGN x)).answer x m type 1

/-- The generations of a flow's key that the line holds (R110, R146): the roll count of each generation present. -/
def LineState.keyCount (l : LineState) (f g : Nat) : Option Nat :=
  let k := l.rolled f
  if k % 2 = g % 2 then some k
  else if l.rolls.any fun r => decide (r.first ≤ f) && decide (f ≤ r.last) then some (k + 1) else none

/-- An object in progress on the line is discarded: its segments go with it (R151). -/
def Chip.bulkDiscarded (c : Chip) (x : Line) : Chip := c.modLine x fun l => { l with bulkIn := none }

/-- What a line holds at the start of a deep sleep (R46). -/
def Chip.savedLine (c : Chip) (x : Line) : SavedLine :=
  let addrs := LNx_EQ_CTRL x :: ((List.range 3).map fun k => LNx_EQ_DFE x k) ++ ((List.range 12).map fun k => LNx_EQ_FFE x k)
  { eq := addrs.map fun a => (a, c.reg a), pinv := c.flag (LNx_RX_STATUS_PINV x), cif := c.f (LNx_SYNC_CIF_CIF x) }

/-- A REG_ACCESS message joins its line's queue for pair 1, or is ignored when the queue is full (R346). -/
def Chip.queueRegAccess (c : Chip) (x : Line) (m : Msg) (n : Nat) (es : List RegEntry) : Chip :=
  if n < 1 || 4 < n then c.answer x m 0x13 2
  else if 16 ≤ (c.line x).regQueue.length then ((c.count (N_LPx_ACT_IGN x)).raise MBX_ALARM_REG_Q_FULL).answer x m 0x13 1
  else (c.modLine x fun l => { l with regQueue := l.regQueue ++ [{ seq := m.seq, entries := (List.range n).map fun k => es.getD k {} }] }).answer x m 0x13 0

end Sys2Proof.Machine
end

