-- ==== Sys2Proof/Machine/Proposal.lean ====
section
/-! DEFINITION. Whole configurations: the committed one, and what a pending or proposed commit makes of it
(spec/13_boot_and_configuration.md, R333 to R336), and what a configuration needs of the power domains
(spec/15_power_domains.md, Table 15.2). -/

namespace Sys2Proof.Machine
open Sys2Proof

/-- A whole configuration: class C registers and table entries that differ from their reset values. -/
structure Proposal where
  regs : Map Word := []
  tabs : Map Nat := []
  deriving DecidableEq, Repr

/-- A class C register of a configuration. -/
def Proposal.reg (p : Proposal) (a : Nat) : Word := Map.get (resetWord a) p.regs a

/-- A field of a register of a configuration. -/
def Proposal.f (p : Proposal) (x : Fld) : Nat := wordBits (p.reg x.addr) x.lo x.width

/-- Whether a one-bit field of a configuration is 1. -/
def Proposal.flag (p : Proposal) (x : Fld) : Bool := p.f x == 1

/-- A configuration with a register replaced. -/
def Proposal.setReg (p : Proposal) (a : Nat) (w : Word) : Proposal := { p with regs := Map.set (resetWord a) p.regs a w }

/-- A configuration with a field of a register replaced. -/
def Proposal.put (p : Proposal) (x : Fld) (v : Nat) : Proposal := p.setReg x.addr (wordPut (p.reg x.addr) x.lo x.width v)

/-- A table entry of a configuration. -/
def Proposal.tab (p : Proposal) (t i : Nat) : Nat := Map.get (tableReset t i) p.tabs (tableKey t i)

/-- A configuration with a table entry replaced. -/
def Proposal.setTab (p : Proposal) (t i v : Nat) : Proposal := { p with tabs := Map.set (tableReset t i) p.tabs (tableKey t i) v }

/-- The listed entries of a table, ascending. -/
def Proposal.keys (p : Proposal) (t : Nat) : List Nat := (p.tabs.filter fun e => e.1 / 65536 == t).map fun e => e.1 % 65536

/-- The configuration overlaid with a commit's frozen values; a commit of a full image replaces the whole (R338). -/
def Commit.over (p : Proposal) (k : Commit) : Proposal :=
  let p := if k.full then {} else p
  let p := k.regs.foldl (fun p e => p.setReg e.1 e.2) p
  k.tabs.foldl (fun p e => p.setTab (e.1 / 65536) (e.1 % 65536) e.2) p

/-- The committed configuration, held in the configuration store. -/
def Chip.committed (c : Chip) : Proposal := { regs := c.store, tabs := c.tableStore }

/-- The configuration after every pending commit. -/
def Chip.afterPending (c : Chip) : Proposal := c.cfg.pending.foldl Commit.over c.committed

/-- The terminal mode of a configuration (R116). -/
def Proposal.mode (p : Proposal) : Nat := let m := p.f TWE_CFG_MODE; if m = 3 then 0 else m

/-- Whether the terminal mode enables a line (Table 5.1). -/
def Proposal.lineOn (p : Proposal) (x : Line) : Bool := x == .a || p.mode != 0

/-- The port at the root of a queue's tree in a configuration (R197). -/
def Proposal.portOf (p : Proposal) (q : Nat) : Option Nat :=
  let e := p.tab 3 q
  if !entryValid e then none
  else if natBits e 30 1 = 1 then some (natBits e 0 10)
  else
    let s := p.tab 4 (natBits e 0 10)
    let v := p.tab 5 (natBits s 0 10)
    if entryValid s && entryValid v then some (natBits v 0 10) else none

/-- The port mode of an Ethernet port. -/
def Proposal.portMode (p : Proposal) (n : Nat) : Nat := p.f (ETH_MODE_MODE n)

/-- Whether an entry of a connection page names a host channel: it connects one, or it is a written entry of a host
output channel that is not quiet. DEDUCED (assumption 41): an entry at its reset value names none. -/
def namesHost (ch e : Nat) : Bool :=
  let host := fun (k : Nat) => decide (3072 ≤ k) && decide (k < 3584)
  (natBits e 30 2 == 0 && host (natBits e 16 12)) || (host ch && natBits e 30 2 != 3)

/-- Whether a rule-table bank holds a valid entry of an epoch in use (R172, Table 15.2). -/
def Chip.bankInUse (c : Chip) (b : Nat) : Bool :=
  let a := c.sorter.recorded
  let live := fun (em : Nat) => bitOf em a || (c.isOn 11 && !c.flag SRT_EPOCH_STATUS_DRAINED && bitOf em (1 - a))
  c.sorter.copy.any fun e => e.1 / 3072 == b && live (natBits e.2 129 2)

/-- Whether a configuration uses a power domain (Table 15.2). -/
def Chip.uses (c : Chip) (p : Proposal) (d : Nat) : Bool :=
  let ports := (List.range 20).filter fun n => p.portMode n != 0
  let host20 := (p.keys 3).any fun q => p.portOf q == some 20
  match d with
  | 4 => p.lineOn .b | 5 => p.lineOn .b | 6 => p.lineOn .b
  | 10 => (List.range 16).any fun n => c.flag (CPH_Q_CFG_EN n)
  | 40 => host20 || c.tsi.copy.any fun e => namesHost (e.1 % 4096) e.2
  | 41 => host20 || c.tsi.copy.any fun e => namesHost (e.1 % 4096) e.2
  | 42 => (List.range 16).any fun n => p.flag (TDM_CFG_EN n)
  | 43 => (List.range 16).any fun n => p.flag (TDM_CFG_EN (16 + n))
  | 44 => ((List.range 32).any fun n => p.flag (TDM_CFG_EN n)) || (List.range 64).any fun s => p.flag (TCM_DS_SLOT_VALID s) || p.flag (TCM_US_SLOT_VALID s)
  | 48 => p.flag TAL_BW_CFG_EN || (List.range 24).any fun g => p.flag (TAL_G_CFG_GEN g) || (List.range 8).any fun k => p.flag (TAL_G_CTL_EN g k)
  | _ =>
    if 12 ≤ d ∧ d ≤ 15 then c.bankInUse (d - 12)
    else if 16 ≤ d ∧ d ≤ 23 then bitOf (p.f COP_CFG_BANK_EN) (d - 16) || Map.get 0 c.cooper.cells (d - 16) != 0
    else if 27 ≤ d ∧ d ≤ 34 then ports.any fun n => macDom n == d
    else if 35 ≤ d ∧ d ≤ 39 then ports.any fun n => laneDom n == d
    else true

end Sys2Proof.Machine
end

