-- ==== Sys2Proof/Machine/InUse.lean ====
section
/-! DEFINITION. What stands against lowering a power domain: its use, the ports that cannot listen, and the drain limits
(spec/15_power_domains.md, R371, R372, R377; spec/09_ethernet_ports.md, R232). -/

namespace Sys2Proof.Machine
open Sys2Proof

/-- Whether the committed configuration or a pending commit uses a domain (R336, R372). -/
def Chip.inUse (c : Chip) (d : Nat) : Bool :=
  c.uses c.committed d || c.cfg.pending.any fun k => c.uses (Commit.over c.committed k) d

/-- The ports of a listen group (R377). -/
def listenPorts (g : Nat) : List Nat := (List.range 4).map (4 * g + ·)

/-- Whether every port of a group has MODE 0 or a mode that can listen: SGMII, 1000BASE-X or 10GBASE-R (R232). -/
def Chip.canListen (c : Chip) (g : Nat) : Bool :=
  (listenPorts g).all fun n => [0, 1, 2, 4].contains (c.committed.portMode n)

/-- PWR_LISTEN and ETH_STATUS.LISTEN of a group; a new listen starts with no match recorded. DEDUCED (assumption 43). -/
def Chip.listenState (c : Chip) (g : Nat) (b : Bool) : Chip :=
  let c := if b then c.raiseBit PWR_LISTEN_GROUPS g else c.lowerBit PWR_LISTEN_GROUPS g
  (listenPorts g).foldl (fun c n => (if b then c.setReg (ETH_WAKE_STATUS n) 0 else c).putB (ETH_STATUS_LISTEN n) b) c

/-- The drain limit of a domain in ccy (Table 15.1). -/
def drainLimit (d : Nat) : Nat :=
  let us := match d with
    | 1 => 2 | 4 => 2 | 2 => 2 | 5 => 2 | 3 => 20 | 6 => 20 | 7 => 10 | 8 => 20 | 9 => 10 | 10 => 50 | 11 => 5
    | 24 => 50 | 25 => 10 | 26 => 5 | 41 => 50 | 42 => 5 | 43 => 5 | 44 => 5
    | _ => if 12 ≤ d ∧ d ≤ 15 then 2 else if 16 ≤ d ∧ d ≤ 23 then 50 else if 27 ≤ d ∧ d ≤ 34 then 50 else 2
  us * usCcy

end Sys2Proof.Machine
end

