-- ==== Sys2Proof/Machine/PowerOps.lean ====
section
/-! DEFINITION. The power sequencer: how a request is judged, how domains go down and start to wake
(spec/15_power_domains.md, R371 to R380). -/

namespace Sys2Proof.Machine
open Sys2Proof

/-- The parents of a domain (Table 15.1). -/
def parents (d : Nat) : List Nat :=
  if d = 2 then [3] else if d = 3 then [1] else if d = 5 then [6] else if d = 6 then [4]
  else if d = 8 then [9] else if d = 10 then [41] else if 12 ≤ d && d ≤ 15 then [11]
  else if 16 ≤ d && d ≤ 23 then [24] else if 27 ≤ d && d ≤ 30 then [35]
  else if 31 ≤ d && d ≤ 34 then [d + 5] else if d = 41 then [40] else []

/-- The parents of a domain and theirs, those highest up first. -/
def ancestors (d : Nat) : List Nat := (parents d).flatMap fun p => (parents p).flatMap (fun q => parents q ++ [q]) ++ [p]

/-- The children of a domain. -/
def children (d : Nat) : List Nat := (List.range 50).filter fun k => (parents k).contains d

/-- Whether a domain holds arrays (Table 15.1). -/
def hasArrays (d : Nat) : Bool := !([1, 2, 4, 5, 35, 36, 37, 38, 39, 40].contains d)

/-- The domains that may not go below ON (R371, Table 15.3). -/
def neverDown (d : Nat) : Bool := [0, 45, 46, 47, 49].contains d

/-- A domain's standing state (R374): PWR_DOMn, where 3 acts as 2 and the domains never off read 2. -/
def Chip.standing (c : Chip) (d : Nat) : Nat :=
  if neverDown d then 2 else let v := wordBits (c.reg (PWR_DOM d)) 0 2; if v = 3 then 2 else v

/-- PWR_STATEn.HELD brought in line with the present and standing states (R374). -/
def Chip.refreshHeld (c : Chip) (d : Nat) : Chip :=
  c.putB (PWR_STATE_HELD d) (c.f (PWR_STATE_PRESENT d) != c.standing d)

/-- Whether a domain is in transition. -/
def Chip.inTransition (c : Chip) (d : Nat) : Bool := c.f (PWR_STATE_PHASE d) != 0 || c.power.waiting.contains d

/-- The result of a request on the domains it concerns: their RESULT fields, PWR_REQ_STATUS for the last PWR_REQ
write, the count of refusals and the alarm bits (R375). -/
def Chip.powerResult (c : Chip) (src : ReqSource) (id : Nat) (doms : List Nat) (first res : Nat) : Chip :=
  let c := doms.foldl (fun c d => if d < 50 then c.put (PWR_STATE_RESULT d) res else c) c
  let c := if src = .register && id == c.power.reqs then
      ((c.raise PWR_REQ_STATUS_DONE).put PWR_REQ_STATUS_RESULT res).put PWR_REQ_STATUS_DOMAIN first else c
  let c := if 1 ≤ res && res ≤ 5 then c.count N_PWR_REFUSED else c
  if res = 1 then c.raise PWR_ALARM_IN_USE else if res = 2 then c.raise PWR_ALARM_DRAIN_TIMEOUT
  else if res = 3 then c.raise PWR_ALARM_DEP else c

/-- A domain's present state changes: clocks and HELD follow. -/
def Chip.setPresent (c : Chip) (d st : Nat) : Chip :=
  ((c.put (PWR_STATE_PRESENT d) st).refreshHeld d).refreshClocks

/-- A domain in one of the wake steps 1 or 3. -/
def Chip.usesSlot (c : Chip) (d : Nat) : Bool := let p := c.f (PWR_STATE_PHASE d); p == 2 || p == 4

/-- Whether a wake slot is free: at most 4 domains are in step 1 or step 3 at once (R380). -/
def Chip.slotFree (c : Chip) : Bool := decide (((List.range 50).filter c.usesSlot).length < 4)

/-- The receive domains of the lines (R382). -/
def lineReceive (d : Nat) : Bool := [1, 3, 4, 6].contains d

/-- Whether a domain is a line's receive domain that a wake of R382 raises. -/
def Chip.lineWakes (c : Chip) (d : Nat) : Bool :=
  lineReceive d && c.power.jobs.any fun j => j.src == .lineSleep && j.todo.any fun m => m.dom == d && m.target == 2

/-- The next phase of a waking domain: steps 1 to 4 are phases 2 to 5; step 3 is skipped without arrays. -/
def nextPhase (d p : Nat) : Nat := if p = 3 && !hasArrays d then 5 else if p = 0 then 2 else p + 1

/-- The timeout of a wake step in ccy; step 3 is longer at the first wake after power-on reset (Table 15.4). -/
def wakeTimeout (c : Chip) (d p : Nat) : Nat :=
  match p with
  | 2 => 20 * usCcy
  | 3 => 100 * usCcy
  | 4 => if c.power.woken.contains d then 200 * usCcy else 2200 * usCcy
  | _ => 5 * usCcy

/-- A domain moves to its next wake phase, or waits for a slot. -/
def Chip.nextStep (c : Chip) (d : Nat) : Chip :=
  let p := nextPhase d (c.f (PWR_STATE_PHASE d))
  if (p == 2 || p == 4) && !c.slotFree then
    { (c.stop (.wake d)) with power := { c.power with waiting := c.power.waiting.filter (· != d) ++ [d] } }
  else
    let c := { c with power := { c.power with waiting := c.power.waiting.filter (· != d) } }
    let c := c.put (PWR_STATE_PHASE d) p
    if p = 6 then c.stop (.wake d) else c.start (.wake d) (wakeTimeout c d p)

/-- The waiting domain that goes next: line receive wakes first, then the lowest number (R380). -/
def Chip.nextWaiting (c : Chip) : Option Nat :=
  match (List.range 50).find? fun d => c.power.waiting.contains d && c.lineWakes d with
  | some d => some d
  | none => (List.range 50).find? fun d => c.power.waiting.contains d

/-- A freed wake slot goes to the next waiting domain. -/
def Chip.grantSlot (c : Chip) : Chip :=
  match c.nextWaiting with
  | some d => if c.slotFree then c.nextStep d else c
  | none => c

/-- The state a target stands for: 3 is the standing state, and a domain without arrays asked for RET goes
to OFF (R373, R374). -/
def Chip.targetState (c : Chip) (d t : Nat) : Nat :=
  let t := if t = 3 then c.standing d else t
  if t = 1 && !hasArrays d then 0 else t

/-- Whether a domain is ON or on its way there (R371). -/
def Chip.onOrWaking (c : Chip) (d : Nat) : Bool := c.isOn d || c.inTransition d

/-- Whether a move is complete. -/
def Chip.moved (c : Chip) (m : PowerMove) : Bool := c.f (PWR_STATE_PRESENT m.dom) == m.target && !c.inTransition m.dom

/-- Whether the line of a transmitter domain has pending grants, before whose end the domain does not begin to quiesce (R376). -/
def Chip.grantsPend (c : Chip) (d : Nat) : Bool := (d == 2 && (c.line .a).grants != []) || (d == 5 && (c.line .b).grants != [])

/-- A move begins (R373, R376, R380). A change between RET and OFF is taken at once. The drain limit runs from the quiesce,
which a transmitter begins once its line has no pending grant. -/
def Chip.beginMove (c : Chip) (m : PowerMove) : Chip :=
  let p := c.f (PWR_STATE_PRESENT m.dom)
  if c.inTransition m.dom || p = m.target then c
  else if m.target = 2 then c.nextStep m.dom
  else if p = 2 then
    let c := c.put (PWR_STATE_PHASE m.dom) 1
    if c.grantsPend m.dom then c else c.start (.drain m.dom) (drainLimit m.dom)
  else { (c.setPresent m.dom m.target).count N_PWR_DOWNS with power := { c.power with retained := c.power.retained.filter (· != m.dom) } }

/-- Whether a move may begin: a domain wakes after its parents, and goes down after the children that the same request takes
down (R371, R374). -/
def Chip.mayBegin (c : Chip) (todo : List PowerMove) (m : PowerMove) : Bool :=
  if m.target = 2 then (parents m.dom).all c.isOn else !(todo.any fun q => decide (q.target < 2) && (children m.dom).contains q.dom)

/-- A request after one of its domains has failed: its result has been given, and what depends on that domain is dropped. -/
def PowerJob.without (j : PowerJob) (d : Nat) : PowerJob :=
  { j with told := true, todo := j.todo.filter fun m =>
      m.dom != d && !(decide (m.target < 2) && (ancestors d).contains m.dom) && !(m.target == 2 && (ancestors m.dom).contains d) }

/-- A domain of a request that failed or was superseded: its result, which is the request's when it is the first. A retry gives
none (R376). -/
def Chip.failResult (c : Chip) (j : PowerJob) (d res : Nat) : Chip :=
  if j.src = .retry then c else c.powerResult (if j.told then .commit else j.src) j.id [d] d res

/-- One move of a request carried on: dropped when complete, with result DONE, and begun when it may. A domain whose child has
come ON since the request was judged stays, with result DEP; a number that names no domain moves nothing. -/
def Chip.runMove (c : Chip) (j : PowerJob) (m : PowerMove) : Chip × PowerJob :=
  if 49 < m.dom then (c, { j with todo := j.todo.filter (· != m) })
  else if !c.mayBegin j.todo m then (c, j)
  else if decide (m.target < 2) && c.f (PWR_STATE_PRESENT m.dom) == 2 && !c.inTransition m.dom && (children m.dom).any c.onOrWaking then
    (c.failResult j m.dom 3, j.without m.dom)
  else
    let c := c.beginMove m
    if c.moved m then (c.put (PWR_STATE_RESULT m.dom) 0, { j with todo := j.todo.filter (· != m) }) else (c, j)

/-- One request carried on as far as it goes: every move that may begin has begun, and what is complete is dropped. -/
def Chip.runJob : Nat → Chip → PowerJob → Chip × PowerJob
  | 0, c, j => (c, j)
  | n + 1, c, j =>
    let r := j.todo.foldl (fun r m => if r.2.todo.contains m then r.1.runMove r.2 m else r) (c, j)
    if r.2.todo.length < j.todo.length then Chip.runJob n r.1 r.2 else r

/-- The end of a request: PWR_REQ_STATUS of a register write, and PWR_LISTEN of a listen request (R375, R377). -/
def Chip.jobDone (c : Chip) (j : PowerJob) : Chip :=
  if j.told then c else
  let c := c.powerResult j.src j.id [] j.dom 0
  match j.group with
  | some g => c.listenState g j.enter
  | none => c

/-- Every request in progress carried on as far as it goes. -/
def Chip.runJobs (c : Chip) : Chip :=
  c.power.jobs.foldl (fun c j =>
    let r := Chip.runJob (j.todo.length + 1) c j
    if r.2.todo = [] then r.1.jobDone r.2 else { r.1 with power := { r.1.power with jobs := r.1.power.jobs ++ [r.2] } })
    { c with power := { c.power with jobs := [] } }

/-- The judgement of a request by Table 15.3: NOT_ALLOWED, IN_USE, DEP, or accepted (0). Line sleeps and
listen requests are exempt from IN_USE (R377). A child on its way to ON counts as ON, so that no domain comes ON under a parent
that is not (R371). DEDUCED (assumption 141). -/
def Chip.judge (c : Chip) (exempt : Bool) (ms : List PowerMove) : Nat × Nat :=
  let low := ms.filter fun m => decide (c.targetState m.dom m.target < 2)
  match ms.find? fun m => decide (49 < m.dom) || (neverDown m.dom && decide (m.target < 2)) with
  | some m => (5, m.dom)
  | none =>
    match if exempt then none else low.find? fun m => c.inUse m.dom with
    | some m => (1, m.dom)
    | none =>
      match low.find? fun m => (children m.dom).any fun k => c.onOrWaking k && !(low.any fun q => q.dom == k) with
      | some m => (3, m.dom)
      | none => (0, (ms.getLast?.map (·.dom)).getD 0)

/-- Wakes of parents come first, in the order of Table 15.1 (R378). -/
def Chip.withParents (c : Chip) (m : PowerMove) : List PowerMove :=
  if m.target = 2 then ((ancestors m.dom).filter (fun p => !c.isOn p)).map (fun p => { dom := p, target := 2 }) ++ [m]
  else [m]

/-- The lowering that a request for ON ends at once: the domain stays ON, and the earlier request ends with
SUPERSEDED (R378). -/
def Chip.cancelQuiesce (c : Chip) (d : Nat) : Chip :=
  if c.f (PWR_STATE_PHASE d) = 1 then
    let mine := fun (j : PowerJob) => j.todo.any fun m => m.dom == d && decide (m.target < 2)
    let js := c.power.jobs.filter mine
    let c := (c.put (PWR_STATE_PHASE d) 0).stop (.drain d)
    let c := { c with power := { c.power with jobs := (c.power.jobs.map fun j => if mine j then j.without d else j).filter fun j => j.todo != [] } }
    js.foldl (fun c j => c.failResult j d 6) c
  else c

/-- The domains that a request wakes, with their parents. -/
def Chip.raised (c : Chip) (ms : List PowerMove) : List Nat :=
  ms.flatMap fun m => if c.targetState m.dom m.target = 2 then ancestors m.dom ++ [m.dom] else []

/-- A request waits for the transition of a domain; a later one replaces one that waits there, which ends with SUPERSEDED (R378). -/
def Chip.queueRequest (c : Chip) (r : PowerReq) : Chip :=
  let old := c.power.queued.filter fun q => q.dom == r.dom
  let c := old.foldl (fun c q => c.powerResult q.src q.id (q.moves.map (·.dom)) r.dom 6) c
  ({ c with power := { c.power with queued := (c.power.queued.filter fun (q : PowerReq) => q.dom != r.dom) ++ [r] } }).raise (PWR_STATE_QUEUED r.dom)

/-- A request enters the power sequencer (R374 to R380): one for a domain in transition waits, another is judged and begins. -/
def Chip.submit (c : Chip) (r : PowerReq) : Chip :=
  let c := (c.raised r.moves).foldl Chip.cancelQuiesce c
  match r.moves.find? fun m => decide (m.dom < 50) && c.inTransition m.dom with
  | some m => c.queueRequest { r with dom := m.dom }
  | none =>
    let v := c.judge r.exempt r.moves
    if v.1 ≠ 0 then c.powerResult r.src r.id (r.moves.map (·.dom)) v.2 v.1
    else
      let ms := r.moves.map fun m => { m with target := c.targetState m.dom m.target }
      let job : PowerJob := { src := r.src, todo := (ms.flatMap c.withParents).eraseDups, group := r.group, enter := r.enter, id := r.id, dom := v.2 }
      Chip.runJobs { c with power := { c.power with jobs := c.power.jobs ++ [job] } }

/-- The requests that waited for a transition that has ended are judged (R378). -/
def Chip.settleQueue : Nat → Chip → Chip
  | 0, c => c
  | n + 1, c =>
    match c.power.queued.find? fun q => !c.inTransition q.dom with
    | none => c
    | some q => Chip.settleQueue n (Chip.submit
        { c.lower (PWR_STATE_QUEUED q.dom) with power := { c.power with queued := c.power.queued.filter fun w => w.dom != q.dom } } q)

/-- The requests that wait, judged where their transition has ended. -/
def Chip.settle (c : Chip) : Chip := Chip.settleQueue 64 c

/-- A request for some domains (R374). -/
def Chip.powerRequest (c : Chip) (src : ReqSource) (ms : List PowerMove) (exempt : Bool := false) : Chip :=
  if ms = [] then c else (c.submit { src := src, moves := ms, exempt := exempt, id := c.power.reqs }).settle

/-- The domains a line's sleep takes down, in order (R377). -/
def sleepDomains (x : Line) (deep : Bool) : List Nat :=
  match x, deep with
  | .a, false => [2]
  | .b, false => [5]
  | .a, true => [2, 3, 1]
  | .b, true => [5, 6, 4]

/-- The domains of a listen group: its MAC and PCS domains, then its lane quad (R377). -/
def listenDomains (g : Nat) : List Nat := if g = 0 then [27, 28, 29, 30, 35] else [30 + g, 35 + g]

/-- A group of ports enters listen (R377): refused when a port has a mode that cannot listen (R232). -/
def Chip.listenEnter (c : Chip) (src : ReqSource) (g : Nat) : Chip :=
  if 4 < g then c.powerResult src c.power.reqs [] 0 5
  else if c.canListen g then
    (c.submit { src := src, moves := (listenDomains g).map fun d => { dom := d, target := 0 }, exempt := true, group := some g, enter := true, id := c.power.reqs }).settle
  else c.powerResult src c.power.reqs (listenDomains g) ((listenDomains g).headD 0) 5

/-- A group of ports leaves listen: its domains wake in the reverse order, and it is out of listen when they are ON (R377). -/
def Chip.listenLeave (c : Chip) (src : ReqSource) (g : Nat) : Chip :=
  if 4 < g then c.powerResult src c.power.reqs [] 0 5
  else (c.submit { src := src, moves := (listenDomains g).reverse.map fun d => { dom := d, target := 2 }, exempt := true, group := some g, id := c.power.reqs }).settle

/-- The standing-state changes of one commit as one request: domains that go below ON children first,
then those that go to ON parents first (R374). -/
def Chip.standingChange (c : Chip) (changed : List Nat) : Chip :=
  let order := (List.range 50).filter changed.contains
  let down := order.filter fun d => decide (c.standing d < 2)
  let deepest := down.filter (fun d => (parents d) ≠ []) ++ down.filter (fun d => (parents d) = [])
  let deepest := deepest.filter (fun d => (ancestors d).length ≥ 2) ++ deepest.filter (fun d => (ancestors d).length < 2)
  let up := order.filter fun d => c.standing d == 2
  let up := up.filter (fun d => (parents d) = []) ++ up.filter (fun d => (parents d) ≠ [] && (ancestors d).length < 2) ++ up.filter (fun d => (ancestors d).length ≥ 2)
  let c := order.foldl Chip.refreshHeld c
  c.powerRequest .commit ((deepest ++ up).map fun d => { dom := d, target := 3 })

end Sys2Proof.Machine
end

