-- ==== Sys2Proof/Machine/Standing.lean ====
section
/-! DEFINITION. What holds at every moment whatever command runs: the time source, the waits of the two-ended merge, the
container pairs, and the alarm of the last leaves (spec/05_two_ended_attachment.md, R118, R131, R133;
spec/11_network_time_and_deadlines.md, R267, R272; spec/04_activation_and_trust.md, R105). -/

namespace Sys2Proof.Machine
open Sys2Proof

/-- The time state (Table 11.1): 0 FREE, 1 ACQUIRING, 2 LOCKED, 3 HOLDOVER. -/
def Chip.timeState (c : Chip) : Nat := c.f NTU_STATUS_STATE

/-- Whether NT is valid (R267). -/
def Chip.ntValid (c : Chip) : Bool := c.flag NTU_STATUS_NT_VALID

/-- The line in use as time master. -/
def Chip.master (c : Chip) : Line := lineOf (c.f TWE_STATUS_TM_ACT)

/-- Whether a line can be taken as time master (R116, R128). SKEW and FREQ concern the line that is not, or was
not last, the master. DEDUCED (assumption 104). -/
def Chip.qualifies (c : Chip) (x : Line) : Bool :=
  let tracked := x != c.master
  (x == .a || c.mode != 0) && c.inSync x && c.flag (LNx_RX_STATUS_FN_VALID x) && !(tracked && (c.flag TWE_ALARM_STATE_SKEW || c.flag TWE_ALARM_STATE_FREQ))

/-- The active line (R118); in single-A mode always line A (R116). -/
def Chip.activeLine (c : Chip) : Line := if c.mode = 0 then .a else lineOf (c.f TWE_STATUS_ACT_LINE)

/-- The preferred active line. -/
def Chip.preferred (c : Chip) : Line := if c.mode = 0 then .a else lineOf (c.f TWE_CFG_ACT_PREF)

/-- The number of container slot `n` of a line (R248). -/
def slotOf (x : Line) (n : Nat) : Nat := 32 * x.idx + n

/-- DEF_x of a pair (R133), with what its last output instant showed. -/
def Chip.pairDefect (c : Chip) (k : Nat) (x : Line) : Bool :=
  let s := slotOf x (match x with
    | .a => c.f (TWE_SEL_SLOT_A k)
    | .b => c.f (TWE_SEL_SLOT_B k))
  let lv := c.f (LNx_ALARM_STATE_LEVEL x)
  let late := match x with
    | .a => c.twoEnded.lateA
    | .b => c.twoEnded.lateB
  c.f (TCM_DS_STAT_STATE s) != 0 || bitOf late k || c.lineLost x || bitOf lv 3 || (c.flag (TWE_SEL_SD_DEF k) && bitOf lv 2)

/-- The selected side of a pair. -/
def Chip.selected (c : Chip) (k : Nat) : Line := lineOf (c.f (TWE_SEL_STATUS_SEL k))

/-- The preferred side of a pair. -/
def Chip.pairPref (c : Chip) (k : Nat) : Line := lineOf (c.f (TWE_SEL_PREF k))

/-- A wait that runs while a condition holds without a break. -/
def Chip.waitWhile (c : Chip) (k : TimerKey) (on : Bool) (ccy : Nat) : Chip :=
  if on then (if c.running k then c else c.start k ccy) else c.stop k

/-- DEF_A and DEF_B of a pair shown, and its waits started or stopped (Table 5.4). -/
def Chip.judgePair (c : Chip) (k : Nat) : Chip :=
  if !c.flag (TWE_SEL_VALID k) || !c.isOn 7 then ((c.stop (.selHold k)).stop (.selWtr k)).setReg (TWE_SEL_STATUS k) 0 else
  let a := c.pairDefect k .a
  let b := c.pairDefect k .b
  let c := (c.putB (TWE_SEL_STATUS_DEF_A k) a).putB (TWE_SEL_STATUS_DEF_B k) b
  let x := c.selected k
  let own := if x = .a then a else b
  let other := if x = .a then b else a
  let c := c.waitWhile (.selHold k) (own && !other) (c.f (TWE_SEL_HOLDOFF k) * msCcy)
  let wait := x != c.pairPref k && c.flag (TWE_SEL_REVERT k) && !other
  (c.waitWhile (.selWtr k) wait (c.f TWE_CFG_WTR * secCcy)).putB (TWE_SEL_STATUS_WTR_RUN k) wait

/-- LMS_LOW in both lines while 16 or fewer blocks remain (R105). -/
def Chip.judgeLeaves (c : Chip) : Chip :=
  if (2 ^ 20 - c.trust.nextLeaf + 1023) / 1024 ≤ 16 then (c.raise (LPx_ACT_ALARM_LMS_LOW .a)).raise (LPx_ACT_ALARM_LMS_LOW .b) else c

/-- The source of CK00 and its lock (R5, R384): REFCLK in FREE, the time master's line, HOLD_OSC in HOLDOVER; the PLL is not
locked while ACQUIRING slews it, nor without its source. DEDUCED (assumption 53). -/
def Chip.judgeClock (c : Chip) : Chip :=
  let st := c.timeState
  let src := if st = 0 then 0 else if st = 3 then 3 else 1 + c.master.idx
  let lock := st != 1 && (if st = 0 then c.flag CLK_STATUS_REFCLK_OK else st != 3 || c.flag CLK_STATUS_HOLD_OSC_OK)
  let c := if c.f CLK_STATUS_CORE_SRC = src then c else (c.put CLK_STATUS_CORE_SRC src).raise CLK_ALARM_SRC_CHG
  if c.flag CLK_STATUS_PLL_LOCK && !lock then (c.lower CLK_STATUS_PLL_LOCK).raise CLK_ALARM_PLL_UNLOCK
  else c.putB CLK_STATUS_PLL_LOCK lock

/-- TRACEABLE (R272): in LOCKED while ToD is valid and the master's last usable header has TM and TODV; in HOLDOVER as it was,
until HO_AGED. -/
def Chip.judgeTraceable (c : Chip) : Chip :=
  let x := c.master
  let st := c.timeState
  let good := c.flag NTU_STATUS_TOD_VALID &&
    (if st = 2 then !c.flag TWE_STATUS_NO_MASTER && c.flag (LPx_HDR_STATUS_TM x) && c.flag (LPx_HDR_STATUS_TODV x)
     else st == 3 && c.flag NTU_STATUS_TRACEABLE && !c.flag NTU_STATUS_HO_AGED)
  c.putB NTU_STATUS_TRACEABLE good

/-- The waits of R118 and R131, and the two lines' fitness. -/
def Chip.judgeWaits (c : Chip) : Chip :=
  let wtr := c.f TWE_CFG_WTR * secCcy
  let act := c.mode != 0 && c.flag TWE_CFG_ACT_REVERT && c.activeLine != c.preferred && c.fit c.preferred && !c.twoEnded.revertDue
  let want := lineOf (c.f TWE_CFG_TM_LINE)
  let tm := c.flag TWE_CFG_TM_REVERT && !c.flag TWE_STATUS_NO_MASTER && (c.timeState == 1 || c.timeState == 2) && want != c.master && c.qualifies want
  let c := ((c.waitWhile .actWtr act wtr).waitWhile .tmRevert tm wtr).putB TWE_STATUS_ACT_WTR act
  ((c.putB TWE_STATUS_TM_WTR tm).putB TWE_STATUS_FIT_A (c.fit .a)).putB TWE_STATUS_FIT_B (c.fit .b)

/-- Whether a container pair has anything to judge: its entry or its status is not at the reset value, or a wait of it runs. -/
def Chip.pairKnown (c : Chip) (k : Nat) : Bool :=
  (c.regs.any fun e => e.1 == TWE_SEL k || e.1 == TWE_SEL_STATUS k) || c.running (.selHold k) || c.running (.selWtr k)

/-- Everything that holds at every moment, brought in line. -/
def Chip.stand (c : Chip) : Chip :=
  let c := if c.isOn 47 then c.judgeClock.judgeTraceable else c
  let c := if c.isOn 7 then c.judgeWaits else c
  let c := ((List.range 32).filter c.pairKnown).foldl Chip.judgePair c
  if c.boot.started then c.judgeLeaves else c

end Sys2Proof.Machine
end

