-- ==== Sys2Proof/Machine/Proofs.lean ====
section
/-! DEFINITION. The proof of identity: the attestation, the checks on a head-end proof and on a silence release,
key derivation and the HSS signing state (spec/04_activation_and_trust.md, R100 to R108). -/

namespace Sys2Proof.Machine
open Sys2Proof

/-- An ASCII label without a terminator. -/
def ascii (t : String) : List Byte := t.toList.map fun ch => BitVec.ofNat 8 ch.toNat

/-- The attestation's first 148 bytes (Table 4.5). -/
def attestBody (o : Otp) (x : Line) (p : Proof) : List Byte :=
  beBytes 4 0x41545431 ++ slice p.nonce 0 32 ++ beBytes 8 o.serial ++ beBytes 1 x.idx ++ beBytes 1 0 ++
    beBytes 2 p.heId ++ beBytes 2 (p.tid % 1024) ++ beBytes 2 0 ++ slice (Config.ephemeralPub p.key) 0 96

/-- The attestation, signed twice, with leaf `q` (R100, Table 4.5). -/
def attestation (o : Otp) (x : Line) (p : Proof) (q : Nat) : List Byte :=
  let body := attestBody o x p
  let h := Config.sha384 body
  body ++ slice (Config.devEcSign h) 0 96 ++ slice (Config.devHssSign q h) 0 2964

/-- The result of Table 4.7 for a head-end proof object: 1, or the code of the first failure (R101). -/
def checkProof (o : Otp) (x : Line) (p : Proof) (heId : Nat) (b : List Byte) : Nat :=
  let ec := slice b 12 96
  let hss := slice b 108 60
  let heEc := slice b 168 96
  let heHss := slice b 264 60
  let cert := Config.sha384 (slice b 0 324)
  let att := Config.sha384 (slice b 0 3616)
  if !o.bound then 10
  else if beAt b 0 4 ≠ 0x48455031 || beAt b 4 2 ≠ 1 || b.length ≠ 6676 || !bitOf (byteAt b 8) x.idx || !Config.validPoint (slice b 3520 96) then 7
  else if Config.sha384 ec ≠ o.ecRoot || Config.sha384 hss ≠ o.hssRoot then 4
  else if !Config.ecdsaVerify ec cert (slice b 324 96) then 2
  else if !Config.hssVerify hss cert (slice b 420 2964) then 3
  else if beAt b 6 2 ≠ heId then 5
  else if slice b 3384 32 ≠ slice p.nonce 0 32 || beAt b 3416 8 ≠ o.serial || slice b 3424 96 ≠ slice (Config.ephemeralPub p.key) 0 96 then 6
  else if !Config.ecdsaVerify heEc att (slice b 3616 96) then 2
  else if !Config.hssVerify heHss att (slice b 3712 2964) then 3
  else 1

/-- Whether a silence release object releases the line (R108, Table 4.8). -/
def checkRelease (o : Otp) (x : Line) (count : Nat) (b : List Byte) : Bool :=
  let ec := slice b 24 96
  let hss := slice b 120 60
  let h := Config.sha384 (slice b 0 180)
  beAt b 0 4 == 0x534C5231 && beAt b 4 2 == 1 && b.length == 3240 && beAt b 8 8 == o.serial && bitOf (byteAt b 16) x.idx &&
    beAt b 20 4 == count && o.bound && Config.sha384 ec == o.ecRoot && Config.sha384 hss == o.hssRoot &&
    Config.ecdsaVerify ec h (slice b 180 96) && Config.hssVerify hss h (slice b 276 2964)

/-- The context of the key derivation (R102). -/
def keyContext (o : Otp) (x : Line) (heId tid : Nat) : List Byte :=
  beBytes 8 o.serial ++ beBytes 1 x.idx ++ beBytes 2 heId ++ beBytes 2 (tid % 1024)

/-- The keys derived after every check passed (R102), KEYED, and the LOM timer (R109). -/
def Chip.deriveKeys (c : Chip) (o : Otp) (x : Line) (p : Proof) (b : List Byte) : Chip :=
  let z := Config.ecdhX p.key (slice b 3520 96)
  let prk := Config.hkdfExtract (slice p.nonce 0 32) z
  let ctx := keyContext o x p.heId p.tid
  let c := c.modLine x fun l => { l with
    lineKey := some (Config.hkdfExpand prk (ascii "OAL-LMK" ++ ctx) 48)
    micKey := some (Config.hkdfExpand prk (ascii "OAL-MIC" ++ ctx) 32)
    lastSeq := none, micRun := 0, rolls := [], rollCount := [], proof := none }
  let c := ((c.raise (LPx_ACT_STATUS_KEYED x)).put (LPx_PROVE_STATUS_RESULT x) 1).put (LPx_PROVE_STATUS_STEP x) 4
  (c.put (LPx_PROVE_STATUS_HE_ID x) (beAt b 6 2)).startLom x

/-- A carriage key of a line's flow at a roll count (R102, R110). -/
def carriageKey (lmk : List Byte) (f k : Nat) : List Byte :=
  Config.hkdfExpand lmk (ascii "OAL-FLOW" ++ beBytes 2 f ++ beBytes 4 k) 32

/-! ## The HSS signing state -/

/-- The reservation and the map after leaf `q` is marked used (R104). -/
def TrustRegion.useLeaf (t : TrustRegion) (q : Nat) : TrustRegion :=
  { t with block := q / 1024, reserved := true, used := q % 1024 + 1, mapBad := false, nextLeaf := q + 1 }

/-- The next proof starts at the first leaf of the next block (R104). -/
def TrustRegion.skipBlock (t : TrustRegion) : TrustRegion := { t with nextLeaf := min (2 ^ 20) ((t.nextLeaf / 1024 + 1) * 1024) }

/-- The leaf at which signing resumes at start-up (R104). -/
def TrustRegion.resume (t : TrustRegion) : TrustRegion :=
  if !t.reserved then t
  else if t.mapBad then { t with nextLeaf := min (2 ^ 20) ((t.block + 1) * 1024) }
  else { t with nextLeaf := min (2 ^ 20) (1024 * t.block + t.used + 1) }

/-- The signing state replaced; LPx_LMS_STATUS shows the next leaf in both lines (R104, R105). -/
def Chip.setLeaf (c : Chip) (t : TrustRegion) : Chip :=
  let c := c.setTrust t
  ((c.put (LPx_LMS_STATUS_NEXT_LEAF .a) t.nextLeaf).put (LPx_LMS_STATUS_NEXT_LEAF .b) t.nextLeaf).judgeLeaves

end Sys2Proof.Machine
end

