-- ==== Sys2Proof/Machine/Msix.lean ====
section
/-! DEFINITION. The host's MSI-X vectors, and the requests of rings and cipher queues for them
(spec/12_host_and_cipher.md, R298 to R300). -/

namespace Sys2Proof.Machine
open Sys2Proof

/-- The chip with the host interface's state changed. -/
def Chip.modHost (c : Chip) (g : HostState → HostState) : Chip := { c with host := g c.host }

/-- Whether the endpoint can reach host memory: its domain is ON, its link up, and Bus Master Enable set (R296). -/
def Chip.dma (c : Chip) : Bool := c.isOn 41 && c.flag HST_LINK_DL_UP && c.host.busMaster

/-- A word of the MSI-X table; every vector is masked until the host unmasks it. PRESUMED (assumption 44): the
reset value of the MSI-X mask bits in the PCI Express standard. -/
def HostState.vectorWord (h : HostState) (i : Nat) : Word := Map.get (if i % 4 = 3 then 1 else 0) h.msix i

/-- Whether a vector is masked. -/
def HostState.masked (h : HostState) (v : Nat) : Bool := wordBits (h.vectorWord (4 * v + 3)) 0 1 == 1

/-- A vector's message sent to the address of its table entry. -/
def Chip.sendVector (c : Chip) (v : Nat) : Chip :=
  c.emit (.msix ((c.host.vectorWord (4 * v)).toNat + (c.host.vectorWord (4 * v + 1)).toNat * 2 ^ 32) (c.host.vectorWord (4 * v + 2)))

/-- A request for a vector (R300): its message, or its pending bit while it is masked or DMA is stopped. -/
def Chip.vector (c : Chip) (v : Nat) : Chip :=
  if !c.isOn 41 || !c.flag HST_LINK_DL_UP then c
  else if c.host.masked v || !c.host.busMaster then c.modHost fun h => { h with pba := natPut h.pba v 1 1 }
  else c.sendVector v

/-- A pending vector that is no longer held back sends its message (R300). -/
def Chip.releaseVector (c : Chip) (v : Nat) : Chip :=
  if c.dma && !c.host.masked v && bitOf c.host.pba v then (c.modHost fun h => { h with pba := natPut h.pba v 1 0 }).sendVector v else c

/-- A ring or cipher queue by its doorbell page (R299). -/
def Chip.ring (c : Chip) (p : Nat) : Ring := Map.get {} c.host.rings p

/-- The chip with a ring or queue changed. -/
def Chip.modRing (c : Chip) (p : Nat) (g : Ring → Ring) : Chip := c.modHost fun h => { h with rings := Map.set {} h.rings p (g (Map.get {} h.rings p)) }

/-- The configuration, status and base registers of a doorbell page. -/
def ringCfg (p : Nat) : Nat := if p < 16 then HST_TXR_CFG p else if p < 32 then HST_RXR_CFG (p - 16) else CPH_Q_CFG (p - 32)
def ringStatus (p : Nat) : Nat := if p < 16 then HST_TXR_STATUS p else if p < 32 then HST_RXR_STATUS (p - 16) else CPH_Q_STATUS (p - 32)
def ringBase (p : Nat) : Nat := if p < 16 then HST_TXR_BASE_LO p else if p < 32 then HST_RXR_BASE_LO (p - 16) else CPH_Q_BASE_LO (p - 32)

/-- The fields of those registers. -/
def ringErr (p : Nat) : Fld := ⟨ringStatus p, 30, 2⟩
def ringCi (p : Nat) : Fld := ⟨ringStatus p, 0, if p < 32 then 16 else 12⟩

/-- The entries of a ring or queue; a SIZE_LOG2 outside its range acts as the nearer end (R301, R307). -/
def Chip.ringSize (c : Chip) (p : Nat) : Nat :=
  if p < 32 then 2 ^ max 4 (min 16 (wordBits (c.reg (ringCfg p)) 0 5)) else 2 ^ max 4 (min 12 (wordBits (c.reg (ringCfg p)) 0 4))

/-- Whether a ring or queue is enabled and has not stopped (R301, R303). -/
def Chip.ringRuns (c : Chip) (p : Nat) : Bool := wordBits (c.reg (ringCfg p)) 31 1 == 1 && c.f (ringErr p) == 0

/-- The entries the host has posted and the terminal has not finished. -/
def Chip.ringHeld (c : Chip) (p : Nat) : Nat := ((c.ring p).prod + c.ringSize p - c.f (ringCi p) % c.ringSize p) % c.ringSize p

/-- The spacing of a ring's messages in ccy, and its vector (R300). -/
def Chip.ringSpacing (c : Chip) (p : Nat) : Nat := (if p < 32 then wordBits (c.reg (ringCfg p)) 16 8 else wordBits (c.reg (ringCfg p)) 24 6) * usCcy
def Chip.ringVector (c : Chip) (p : Nat) : Nat := wordBits (c.reg (ringCfg p)) 8 6

/-- The message of a ring or queue sent now. -/
def Chip.ringMessage (c : Chip) (p : Nat) : Chip := (c.modRing p fun r => { r with last := some c.now, waits := false }).vector (c.ringVector p)

/-- A ring or queue requests its vector: at once when MOD is 0 or its spacing has passed, else merged into the message to
come (R300). -/
def Chip.ringRequest (c : Chip) (p : Nat) : Chip :=
  match (c.ring p).last with
  | some t => if c.ringSpacing p = 0 || t + c.ringSpacing p ≤ c.now then c.ringMessage p else c.modRing p fun r => { r with waits := true }
  | none => c.ringMessage p

/-- EN going from 0 to 1 (R301, R303, R310): PI and CI are 0, and a stopped ring starts again. -/
def Chip.ringStart (c : Chip) (p : Nat) : Chip := (((c.modRing p fun r => { r with prod := 0, even := true }).put (ringErr p) 0).put (ringCi p) 0)

/-- A ring or queue stops (R303, R310): 1 format, 2 DMA, 3 doorbell. -/
def Chip.ringStop (c : Chip) (p err : Nat) : Chip :=
  let c := c.put (ringErr p) err
  if p < 16 then (c.raise HST_ALARM_RING_ERR).count N_HST_TX_DESC_ERR
  else if p < 32 then c.raise HST_ALARM_RING_ERR
  else c.raise CPH_ALARM_Q_STOP

/-- CI advanced past `k` entries; a queue's pass turns at each wrap (R310). -/
def Chip.ringAdvance (c : Chip) (p k : Nat) : Chip :=
  let n := c.ringSize p
  let i := c.f (ringCi p) + k
  let c := c.put (ringCi p) (i % n)
  if n ≤ i then c.modRing p fun r => { r with even := !r.even } else c

/-- A write of a ring's or queue's PI (R299, R303). -/
def Chip.doorbell (c : Chip) (p v : Nat) : Chip :=
  if c.ringSize p ≤ v then (if c.ringRuns p then c.ringStop p 3 else c) else c.modRing p fun r => { r with prod := v }

end Sys2Proof.Machine
end

