-- ==== Sys2Proof/Machine/Irq.lean ====
section
/-! DEFINITION. The interrupt tree: each block's summary line, and the MSI-X message of a line that rises
(spec/01_architecture.md, R21 to R24). -/

namespace Sys2Proof.Machine
open Sys2Proof

/-- Whether a status register has a bit set that its enable register enables; every enable register resets to 0. -/
def Chip.enabled (c : Chip) (status enable : Nat) : Bool :=
  let e := Map.get 0 c.regs enable
  e != 0 && (c.reg status &&& e) != 0

/-- Whether a line's blocks raise theirs: LNx with `framing`, else LPx. -/
def Chip.lineSummary (c : Chip) (x : Line) (framing : Bool) : Bool :=
  c.isOn (protoDom x) && (if framing then c.enabled (LNx_ALARM x) (LNx_ALARM_EN x)
    else c.enabled (LPx_FRM_ALARM x) (LPx_FRM_ALARM_EN x) || c.enabled (LPx_ACT_ALARM x) (LPx_ACT_ALARM_EN x))

/-- The least reaction of a class (Table 16.1). -/
def reactMinimum (k : Nat) : Nat := [0, 1, 0, 0, 2, 2, 2, 1, 1, 1, 2, 0, 0, 1, 1, 1, 0, 2].getD k 0

/-- The reaction a class gets: its ITM_REACTm field, or the class minimum of Table 16.1 when that is higher (R388). -/
def Chip.reaction (c : Chip) (k : Nat) : Nat :=
  max (wordBits (c.reg (ITM_REACT (k / 16))) (2 * (k % 16)) 2) (reactMinimum k)

/-- Block `k`'s summary line (R21): an enabled status bit is set; a block whose domain is not ON has none. -/
def Chip.summaryLine (c : Chip) (k : Nat) : Bool :=
  match k with
  | 0 => c.enabled TOP_INT_STATUS TOP_INT_EN || c.enabled TOP_ACC_STATUS TOP_ACC_EN
  | 1 => c.enabled CFG_ALARM CFG_ALARM_EN
  | 2 => c.enabled PWR_ALARM PWR_ALARM_EN
  | 3 => c.enabled CLK_ALARM CLK_ALARM_EN
  | 4 => Map.get 0 c.regs ITM_FAULT_STATUS != 0 && c.isOn 49 && (List.range 18).any fun j => bitOf (c.f ITM_FAULT_STATUS_CLASS) j && decide (1 ≤ c.reaction j)
  | 5 => c.enabled NTU_ALARM NTU_ALARM_EN && c.isOn 47
  | 6 => (c.enabled TAL_ALARM TAL_ALARM_EN || (List.range 24).any fun g => c.enabled (TAL_G_OVF g) (TAL_G_OVF_EN g)) && c.isOn 48
  | 7 => c.lineSummary .a true
  | 8 => c.lineSummary .a false
  | 9 => c.lineSummary .b true
  | 10 => c.lineSummary .b false
  | 11 => c.enabled TWE_ALARM TWE_ALARM_EN && c.isOn 7
  | 12 => c.enabled CAR_ALARM CAR_ALARM_EN && c.isOn 8
  | 13 => c.enabled SRT_ALARM SRT_ALARM_EN && c.isOn 11
  | 14 => c.enabled COP_ALARM COP_ALARM_EN && c.isOn 24
  | 15 => c.enabled DRV_ALARM DRV_ALARM_EN && c.isOn 25
  | 16 => c.enabled TOL_ALARM TOL_ALARM_EN && c.isOn 26
  | 17 => (c.enabled ETH_COM_ALARM ETH_COM_ALARM_EN && c.isOn 41) || (List.range 20).any fun n => c.enabled (ETH_ALARM n) (ETH_ALARM_EN n) && c.isOn (macDom n)
  | 18 => (List.range 20).any fun n =>
      let e := Map.get 0 c.regs (SDS_LANE_ALARM_EN n)
      e != 0 && c.isOn (laneDom n) && ((c.reg (SDS_LANE_ALARM n) &&& e &&& 3) != 0 || (wordBits e 2 1 == 1 && c.flag (SDS_LANE_PW_STATUS_WR_DROP n)))
  | 19 => (List.range 32).any fun n => c.enabled (TDM_ALARM n) (TDM_ALARM_EN n) && c.isOn (tribDom n)
  | 20 => c.enabled TSI_ALARM TSI_ALARM_EN && c.isOn 44
  | 21 => c.enabled TCM_ALARM TCM_ALARM_EN && c.isOn 44
  | 22 => c.enabled CPH_ALARM CPH_ALARM_EN && c.isOn 10
  | 23 => c.enabled KEY_ALARM KEY_ALARM_EN && c.isOn 10
  | 24 => c.enabled HST_ALARM HST_ALARM_EN && c.isOn 41
  | 25 => c.enabled MBX_ALARM MBX_ALARM_EN && c.isOn 46
  | 26 => c.enabled NVM_ALARM NVM_ALARM_EN
  | 27 => c.enabled MGT_ALARM MGT_ALARM_EN
  | _ => false

/-- TOP_INT_SUM (R21). -/
def Chip.interruptSummary (c : Chip) : Nat := (List.range 28).foldl (fun v k => if c.summaryLine k then v + 2 ^ k else v) 0

/-- Whether INT_N is driven low (R22). -/
def Chip.intLow (c : Chip) : Bool := c.interruptSummary &&& (c.reg TOP_INT_PIN_EN).toNat != 0

/-- The vector of a summary bit, where one is enabled. -/
def Chip.vectorOf (c : Chip) (k : Nat) : Option Nat :=
  let w := Map.get 0 c.regs (TOP_INT_VEC (k / 4))
  if wordBits w (8 * (k % 4) + 7) 1 = 1 then some (wordBits w (8 * (k % 4)) 6) else none

/-- The message of a block's vector, where it is enabled (R23). -/
def Chip.blockMessage (c : Chip) (k : Nat) : Chip :=
  match c.vectorOf k with
  | some v => c.vector v
  | none => c

/-- What follows every command: what holds at every moment is brought in line, and each summary line that rose sends its
message (R23). -/
def settle (before after : Chip) : Chip :=
  (List.range 28).foldl (fun c k => if (c.vectorOf k).isSome && c.summaryLine k && !before.summaryLine k then c.blockMessage k else c) after.stand

end Sys2Proof.Machine
end

