-- ==== Sys2Proof/Machine/State.lean ====
section
/-! DEFINITION. The state of the machine: the terminal, its fuses and the queue of commands that wait. -/

namespace Sys2Proof.Machine
open Sys2Proof

/-- No command of the model faults: every command of the opcode table has an effect in the spec, and an access
the spec forbids is refused, recorded or dropped as the spec says. -/
inductive Fault where
  deriving DecidableEq, Repr

/-- Why a command does not run. -/
inductive Refusal where
  /-- Raised by an arm of exec whose command has no meaning yet; safe, since the machine stops. -/
  | notModelled (mnemonic : String)
  deriving DecidableEq, Repr

/-- The terminal: its blocks, its one-time-programmable fuses, and the commands that wait, the oldest first. -/
structure State where
  chip : Chip
  otp : Otp
  pending : List Instr
  deriving DecidableEq, Repr

/-- The fuses of the part that the model names (assumption 2): serial number 0, the ordering code
FL9640-IC (grade 1, the cipher services present), lifecycle 2 as on every shipped part, vendor hashes of zeros, operator roots unwritten, both floors at 0. -/
def Otp.named : Otp :=
  { serial := 0, vendorId := 0, grade := 1, hcs := false, vendorEc := List.replicate 48 0, vendorHss := List.replicate 48 0
    lifecycle := 2, bound := false, ecRoot := [], hssRoot := [], fwFloor := 0, cfgFloor := 0 }

/-- The terminal right after power-on reset, before start-up, with no command waiting. -/
def State.reset : State := { chip := {}, otp := Otp.named, pending := [] }

end Sys2Proof.Machine
end

