-- ==== Sys2Proof/Machine/Run.lean ====
section
/-! DEFINITION. How a command's effect on the terminal becomes the next state: the fuses and the queue stay as they
are, and a message follows each summary line that rose (R23). -/

namespace Sys2Proof.Machine
open Sys2Proof

/-- What a command answers. -/
abbrev Out := Host.Outcome State Fault Refusal

/-- The next state of a command that changes the terminal's blocks. -/
def run (s : State) (act : Chip → Chip) : Out := .next { s with chip := settle s.chip (act s.chip) }

/-- The next state of a command that reads the fuses. -/
def runO (s : State) (act : Otp → Chip → Chip) : Out := run s (act s.otp)

/-- The next state of a command that may also write the fuses. -/
def runFuse (s : State) (act : Otp → Chip → Chip × Otp) : Out :=
  let r := act s.otp s.chip
  .next { s with chip := settle s.chip r.1, otp := r.2 }

/-- With no command waiting, one ccy passes (assumption 1). -/
def idle (s : State) : Out := run s fun c => c.elapse 1

end Sys2Proof.Machine
end

