-- ==== Sys2Proof/Machine/Activation.lean ====
section
/-! DEFINITION. The line messages that activate, range, key, stop and put a line to sleep, and the timers of
the activation state machine (spec/04_activation_and_trust.md, R90 to R113, and Table 3.5). -/

namespace Sys2Proof.Machine
open Sys2Proof

/-- The instant a named FN stands for: never earlier than the carrying frame's FN + 2 (R73). -/
def effectiveFn (carry named : Nat) : Nat := max named (carry + 2)

/-! ## Profiles and bindings -/

/-- PROFILE (R74): each LEN from 32 to 1,024 sets its profile; another LEN leaves it. -/
def execProfile (x : Line) (m : Msg) (ps : List Profile) (s : State) : Out := runO s fun o c =>
  let content := ps.flatMap fun p => beBytes 2 p.len ++ beBytes 4 p.pat.toNat
  c.message o x m 0x01 true true content none [1, 2, 3, 4, 5, 6, 7] fun c =>
    let c := (List.range 4).foldl (fun c n =>
      let len := beAt content (6 * n) 2
      if 32 ≤ len && len ≤ 1024 then
        (c.put (LPx_PROF_LEN_LEN x n) len).setReg (LPx_PROF_PAT x n) (BitVec.ofNat 32 (beAt content (6 * n + 2) 4))
      else c) c
    c.answer x m 0x01 0

/-- The entries of an ALLOC_ASSIGN as content bytes (Table 3.5). -/
def allocContent (n : Nat) (es : List AllocEntry) : List Byte :=
  beBytes 4 (n * 2 ^ 24) ++ es.flatMap fun e => beBytes 2 e.alloc ++ beBytes 1 e.port ++ beBytes 1 e.flags ++ beBytes 1 0

/-- One entry of an ALLOC_ASSIGN (R74); the answer tells whether it was skipped. -/
def Chip.bindAlloc (c : Chip) (x : Line) (e : AllocEntry) : Chip × Bool :=
  let alloc := e.alloc % 2 ^ 16
  if 63 < e.port || alloc < 0x400 || 0x3FFE < alloc then (c, true)
  else if bitOf e.flags 0 then
    let c := (List.range 64).foldl (fun c n =>
      if n != e.port && c.flag (LPx_ALLOC_VALID x n) && c.f (LPx_ALLOC_ALLOC x n) == alloc then c.setReg (LPx_ALLOC x n) 0 else c) c
    (c.setReg (LPx_ALLOC x e.port) (BitVec.ofNat 32 (2 ^ 31 + b2n (bitOf e.flags 1) * 2 ^ 30 + b2n (bitOf e.flags 2) * 2 ^ 29 + alloc)), false)
  else if c.flag (LPx_ALLOC_VALID x e.port) && c.f (LPx_ALLOC_ALLOC x e.port) == alloc then (c.setReg (LPx_ALLOC x e.port) 0, false)
  else (c, true)

/-- ALLOC_ASSIGN (R74): its entries bind and unbind allocation ports in order. `n` is the count it carries. -/
def execAllocAssign (x : Line) (m : Msg) (n : Nat) (es : List AllocEntry) (s : State) : Out := runO s fun o c =>
  c.message o x m 0x05 false false (allocContent n es) none [stWorking] fun c =>
    if n < 1 || 8 < n then c.answer x m 0x05 2
    else
      let r := (List.range n).foldl (fun r k =>
        let q := Chip.bindAlloc r.1 x (es.getD k {})
        (q.1, r.2 || q.2)) (c, false)
      r.1.answer x m 0x05 (if r.2 then 2 else 0)

/-! ## Identity and EqD -/

/-- TID_ASSIGN (R93, R94, R96): the line takes the TID, and RANGE_TO starts. -/
def execTidAssign (x : Line) (m : Msg) (serial tid : Nat) (s : State) : Out := runO s fun o c =>
  let content := beBytes 8 serial ++ beBytes 2 tid
  c.message o x m 0x02 true true content (some (serial % 2 ^ 64)) [stAnnouncing, stRanging] fun c =>
    let t := tid % 1024
    if t = 0x3FF then (c.count (N_LPx_ACT_IGN x)).answer x m 0x02 1
    else
      let c := c.setState x stRanging
      let c := ((c.put (LPx_IDENT_TID x) t).put (LPx_IDENT_EQD x) 0).modLine x fun l => { l with eqds := [] }
      let lim := c.f (LPx_ACT_TMR1_RANGE_TO x)
      (c.start (.line x .rangeTo) (max 80 lim * frameCcy)).answer x m 0x02 0

/-- The way from Ranging to Proving (Table 4.2): RESULT and STEP clear and PROVE_TO starts. -/
def Chip.enterProving (c : Chip) (x : Line) : Chip :=
  let c := c.setState x stProving
  let c := (c.put (LPx_PROVE_STATUS_RESULT x) 0).put (LPx_PROVE_STATUS_STEP x) 0
  c.start (.line x .proveTo) (max 100 (c.f (LPx_ACT_TMR1_PROVE_TO x)) * msCcy)

/-- DRIFT follows the sum of adjustments (R99). -/
def Chip.judgeDrift (c : Chip) (x : Line) : Chip :=
  let acc := (signed 24 (c.f (LPx_EQD_ACC_ACC x))).natAbs
  let thr := c.f (LPx_DRIFT_CFG_THR x)
  let up := c.flag (LPx_ACT_ALARM_STATE_DRIFT x)
  if up && decide (acc ≤ thr / 2) then c.lower (LPx_ACT_ALARM_STATE_DRIFT x)
  else if !up && decide (thr < acc) then (c.raise (LPx_ACT_ALARM_DRIFT x)).raise (LPx_ACT_ALARM_STATE_DRIFT x)
  else c

/-- EQD_ASSIGN (R98, R99): a new EqD from its effective FN; LPx_EQD_ACC and DRIFT clear; Ranging leads to Proving. -/
def execEqdAssign (x : Line) (m : Msg) (eqd fn : Nat) (s : State) : Out := runO s fun o c =>
  let content := beBytes 4 eqd ++ beBytes 6 fn
  c.message o x m 0x03 false true content none [stRanging, stProving, stWorking] fun c =>
    let e : EqdChange := { fn := effectiveFn m.fn (fn % 2 ^ 48), value := ((eqd % 2 ^ 22 : Nat) : Int), adjust := false }
    let c := c.modLine x fun l => { l with eqds := addEqd l.eqds e }
    let c := (c.put (LPx_EQD_ACC_ACC x) 0).lower (LPx_ACT_ALARM_STATE_DRIFT x)
    let c := if c.actState x = stRanging then c.enterProving x else c
    c.answer x m 0x03 0

/-- EQD_ADJUST (R98, R99): a signed delta from its effective FN, added to LPx_EQD_ACC too, or a refusal when EqD would leave
its range. -/
def execEqdAdjust (x : Line) (m : Msg) (delta : BitVec 32) (fn : Nat) (s : State) : Out := runO s fun o c =>
  let content := beBytes 4 delta.toNat ++ beBytes 6 fn
  c.message o x m 0x04 false false content none [stWorking] fun c =>
    let a := effectiveFn m.fn (fn % 2 ^ 48)
    let v : Int := (c.eqdFor x a : Int) + delta.toInt
    if v < 0 || 4194303 < v then (c.count (N_LPx_EQD_REFUSED x)).answer x m 0x04 2
    else
      let c := c.modLine x fun l => { l with eqds := addEqd l.eqds { fn := a, value := delta.toInt, adjust := true } }
      let acc := clampInt (-8388608) 8388607 (signed 24 (c.f (LPx_EQD_ACC_ACC x)) + delta.toInt)
      ((c.put (LPx_EQD_ACC_ACC x) (toField 24 acc)).judgeDrift x).answer x m 0x04 0

/-- EQD_TAKE_EFFECT (R78, R98): the earliest changes of EqD come into force at their FN. -/
def execEqdTakeEffect (x : Line) (s : State) : Out := run s fun c =>
  match (c.line x).eqds with
  | [] => c
  | e :: _ =>
    let c := c.toInstant { fn := e.fn, cif := 0 }
    let q := c.eqdFor x e.fn
    ((c.modLine x fun l => { l with eqds := l.eqds.filter fun k => decide (e.fn < k.fn) }).put (LPx_IDENT_EQD x) q).count (N_LPx_EQD_CHG x)

/-! ## The proof of identity -/

/-- NONCE (R100, R105): in Proving the proof starts or starts again; with no leaf left it ends at once. -/
def execNonce (x : Line) (m : Msg) (nonce : List Byte) (s : State) : Out := runO s fun o c =>
  let content := slice nonce 0 32
  c.message o x m 0x06 false true content none [stProving] fun c =>
    if 2 ^ 20 ≤ c.trust.nextLeaf then
      ((c.raise (LPx_ACT_ALARM_LMS_EXH .a)).raise (LPx_ACT_ALARM_LMS_EXH .b)).proofFails x 9
    else
      let n := (c.line x).proofs
      let p : Proof := { nonce := content, seq := m.seq, key := 2 * n + x.idx, heId := c.f (LPx_HDR_STATUS_HE_ID x), tid := c.f (LPx_IDENT_TID x) }
      let c := c.modLine x fun l => { l with proof := some p, proofs := n + 1, bulkOut := l.bulkOut.filter fun b => !b.attest }
      c.put (LPx_PROVE_STATUS_STEP x) 1

/-- ATTEST_SIGNED (R100, R104, R105): the leaf is recorded, and the ATTEST object waits for default-allocation
grants; `recorded` tells whether the reservation and the map bit were programmed and read back. -/
def execAttestSigned (x : Line) (recorded : Bool) (s : State) : Out := runO s fun o c =>
  match (c.line x).proof with
  | none => c
  | some p =>
    if p.signed || c.actState x ≠ stProving then c
    else
      let q := c.trust.nextLeaf
      if 2 ^ 20 ≤ q then ((c.raise (LPx_ACT_ALARM_LMS_EXH .a)).raise (LPx_ACT_ALARM_LMS_EXH .b)).proofFails x 9
      else if !recorded then (c.setLeaf (c.trust.skipBlock)).proofFails x 11
      else
        let c := c.setLeaf (c.trust.useLeaf q)
        let obj := Config.identityRecord ++ attestation o x p q
        let c := c.modLine x fun l => { l with proof := some { p with signed := true } }
        c.sendObject x 0x02 obj true

/-- HEAD_END_PROOF (R101, R102): the completed head-end proof object is checked in the order of Table 4.7; when
every check passes, keys are derived and the ACK of the NONCE is sent. -/
def execHeadEndProof (x : Line) (s : State) : Out := runO s fun o c =>
  let l := c.line x
  match l.proof, l.bulkDone with
  | some p, some ob =>
    if ob.type ≠ 1 || c.actState x ≠ stProving then c
    else
      let c := c.modLine x fun l => { l with bulkDone := none }
      let r := checkProof o x p (c.f (LPx_HDR_STATUS_HE_ID x)) ob.data
      if r ≠ 1 then c.proofFails x r
      else
        let c := c.deriveKeys o x p ob.data
        c.ack x 0x06 p.seq 0
  | _, _ => c

/-- KEY_ROLL (R110): the next generation's keys of a flow range, or a refusal. -/
def execKeyRoll (x : Line) (m : Msg) (first last gen fn : Nat) (s : State) : Out := runO s fun o c =>
  let content := beBytes 2 first ++ beBytes 2 last ++ beBytes 1 gen ++ beBytes 6 fn
  c.message o x m 0x08 false false content none [stWorking] fun c =>
    let f := first % 65536
    let t := last % 65536
    let l := c.line x
    let refuse := fun res => ((c.count (N_LPx_KEY_ROLL_REF x)).raise (LPx_ACT_ALARM_KEY_ROLL_REF x)).answer x m 0x08 res
    if t < f || 0xFFE < t || !((List.range (t + 1 - f)).all fun i => (l.rolled (f + i) + 1) % 2 == gen % 2) then refuse 2
    else if l.rolls.any fun r => decide (r.first ≤ t) && decide (f ≤ r.last) then refuse 1
    else
      let a := effectiveFn m.fn (fn % 2 ^ 48)
      let c := c.modLine x fun l => { l with rolls := l.rolls ++ [{ first := f, last := t, fn := a }] }
      let c := ((c.put (LPx_KEY_ROLL_STATUS_FIRST x) f).put (LPx_KEY_ROLL_STATUS_LAST x) t).put (LPx_KEY_ROLL_STATUS_GEN x) (gen % 2)
      let c := (c.raise (LPx_KEY_ROLL_STATUS_OVERLAP x)).setReg (LPx_KEY_ROLL_FN x) (BitVec.ofNat 32 a)
      (c.count (N_LPx_KEY_ROLL_OK x)).answer x m 0x08 0

/-- KEY_ROLL_OVERLAP_END (R110): at CIF 0 of FN A + 16 of the oldest roll, its old keys go and K advances. -/
def execKeyRollOverlapEnd (x : Line) (s : State) : Out := run s fun c =>
  match (c.line x).rolls with
  | [] => c
  | r :: rest =>
    let c := c.toInstant { fn := r.fn + 16, cif := 0 }
    let c := c.modLine x fun l => { l with
      rolls := rest
      rollCount := (List.range (r.last + 1 - r.first)).foldl (fun k i => Map.set 0 k (r.first + i) (l.rolled (r.first + i) + 1)) l.rollCount }
    if rest = [] then c.lower (LPx_KEY_ROLL_STATUS_OVERLAP x) else c

/-! ## Sleep -/

/-- SLEEP_GRANT (R111): a doze or a deep sleep from the start FN to the wake FN, or a refusal. -/
def execSleepGrant (x : Line) (m : Msg) (mode start wake : Nat) (s : State) : Out := runO s fun o c =>
  let content := beBytes 1 mode ++ beBytes 6 start ++ beBytes 6 wake
  c.message o x m 0x09 false false content none [stWorking] fun c =>
    let md := mode % 256
    let a := effectiveFn m.fn (start % 2 ^ 48)
    let w := wake % 2 ^ 48
    let refuse := fun res => ((c.count (N_LPx_SLEEP_REF x)).raise (LPx_ACT_ALARM_SLEEP_REF x)).answer x m 0x09 res
    if !((md == 1 && c.flag (LPx_SLEEP_CFG_DOZE_EN x)) || (md == 2 && c.flag (LPx_SLEEP_CFG_DEEP_EN x))) then refuse 1
    else if w ≤ a || (if md = 1 then 268435455 else 65535) < w - a then refuse 2
    else
      let c := c.modLine x fun l => { l with sleep := some { mode := md, start := a, wake := w } }
      (c.setPair (LPx_SLEEP_WAKE_LO x) w).answer x m 0x09 0

/-- SLEEP_START (R112, R377): at CIF 0 of the start FN the line stops taking grants and its sleep domains go
down. A deep sleep keeps the equaliser words, PINV and the sync CIF (R46). -/
def execSleepStart (x : Line) (s : State) : Out := run s fun c =>
  match (c.line x).sleep with
  | none => c
  | some p =>
    if c.actState x ≠ stWorking || c.f (LPx_ACT_STATUS_SLEEP x) != 0 then c
    else
      let c := c.toInstant { fn := p.start, cif := 0 }
      let c := (c.put (LPx_ACT_STATUS_SLEEP x) p.mode).count (N_LPx_SLEEP_ENTRY x)
      let c := if p.mode = 2 then c.modLine x fun l => { l with saved := c.savedLine x } else c
      c.powerRequest .lineSleep ((sleepDomains x (p.mode == 2)).map fun d => { dom := d, target := 0 }) true

/-- The end of a doze: the line is awake, and its transmitter domain wakes (R112, R113). -/
def Chip.dozeEnd (c : Chip) (x : Line) : Chip :=
  let c := (c.put (LPx_ACT_STATUS_SLEEP x) 0).modLine x fun l => { l with sleep := none }
  c.powerRequest .wake ((sleepDomains x false).map fun d => { dom := d, target := 2 })

/-- DOZE_WAKE (R112): at CIF 0 of the wake FN the line leaves its doze. -/
def execDozeWake (x : Line) (s : State) : Out := run s fun c =>
  match (c.line x).sleep with
  | none => c
  | some p =>
    if p.mode ≠ 1 || c.f (LPx_ACT_STATUS_SLEEP x) != 1 then c
    else (c.toInstant { fn := p.wake, cif := 0 }).dozeEnd x

/-! ## Stop and release -/

/-- EMERGENCY_STOP (R106): the line is silenced at the end of the burst in progress, or at once; `written` tells
whether the silence record was written and read back. -/
def execEmergencyStop (x : Line) (m : Msg) (serial : Nat) (written : Bool) (s : State) : Out := runO s fun o c =>
  c.message o x m 0x10 false true (beBytes 8 serial) (some (serial % 2 ^ 64)) [1, 2, 3, 4, 5] fun c =>
    let c := c.answer x m 0x10 0
    if c.flag (LNx_TX_STATUS_IN_BURST x) then c.modLine x fun l => { l with stopSrc := some 0 }
    else c.silence x 0 written

/-- SILENCE_ENTRY (R106, R107): at the end of any burst in progress, a line that was stopped enters Silenced. -/
def execSilenceEntry (x : Line) (written : Bool) (s : State) : Out := run s fun c =>
  match (c.line x).stopSrc with
  | none => c
  | some src =>
    let c := c.elapse (((c.line x).burstEnd.map fun e => e - c.now).getD 0)
    c.silence x src written

/-- SILENCE_RECORD_RETRY (R106): a failed record write is tried again, 8 times at most. -/
def execSilenceRecordRetry (x : Line) (written : Bool) (s : State) : Out := run s fun c =>
  c.expire (.line x .silRetry) fun c =>
    if written then (c.setTrust (c.trust.silenced x true (c.f (LPx_SIL_COUNT_COUNT x)))).raise (LPx_SILENCE_SIL_NVM x)
    else
      let n := (c.line x).silTries + 1
      let c := c.modLine x fun l => { l with silTries := n }
      if 8 ≤ n then c.raise (LPx_ACT_ALARM_SIL_NVM_ERR x) else c.start (.line x .silRetry) (100 * msCcy)

/-- SILENCE_RELEASE (R108): the wait of 800 frames for the release object starts. -/
def execSilenceRelease (x : Line) (m : Msg) (serial size : Nat) (s : State) : Out := runO s fun o c =>
  c.message o x m 0x11 false true (beBytes 8 serial ++ beBytes 4 size) (some (serial % 2 ^ 64)) [stSilenced] fun c =>
    if size % 2 ^ 32 ≠ 3240 then (c.count (N_LPx_SIL_REL_FAIL x)).answer x m 0x11 2
    else
      let c := c.modLine x fun l => { l with bulkIn := some { type := 3, size := 3240, hash := [] }, bulkDone := none }
      (c.start (.line x .release) (800 * frameCcy)).answer x m 0x11 0

/-- SILENCE_RELEASE_OBJECT (R108): the completed release object is verified; on success the record is deleted. -/
def execSilenceReleaseObject (x : Line) (s : State) : Out := runO s fun o c =>
  match (c.line x).bulkDone with
  | none => c
  | some ob =>
    if ob.type ≠ 3 || c.actState x ≠ stSilenced then c
    else
      let c := (c.modLine x fun l => { l with bulkDone := none }).stop (.line x .release)
      if checkRelease o x (c.f (LPx_SIL_COUNT_COUNT x)) ob.data then
        let c := c.setTrust (c.trust.silenced x false (c.f (LPx_SIL_COUNT_COUNT x)))
        let c := ((c.lower (LPx_SILENCE_SIL_NVM x)).raise (LPx_ACT_ALARM_SIL_REL x)).stop (.line x .silRetry)
        c.toListening x
      else c.count (N_LPx_SIL_REL_FAIL x)

/-- SILENCE_RELEASE_TIMEOUT (R108): no release object within the wait. -/
def execSilenceReleaseTimeout (x : Line) (s : State) : Out := run s fun c =>
  c.expire (.line x .release) fun c =>
    (c.count (N_LPx_SIL_REL_FAIL x)).modLine x fun l => { l with bulkIn := none }

/-- DEACTIVATE (R93): the identity goes, the hold-off starts, and the line listens. -/
def execDeactivate (x : Line) (m : Msg) (serial : Nat) (s : State) : Out := runO s fun o c =>
  c.message o x m 0x12 false false (beBytes 8 serial) (some (serial % 2 ^ 64)) [stWorking] fun c =>
    (((c.answer x m 0x12 0).clearIdentity x).startHoldoff x).toListening x

/-! ## Bulk announcements and register access -/

/-- BULK_ANNOUNCE (R151, R337): a new object on the line, or a refusal that leaves the one in progress. The objects of
Table 13.10 are answered once they have been judged. -/
def execBulkAnnounce (x : Line) (m : Msg) (type size : Nat) (hash : List Byte) (s : State) : Out := runO s fun o c =>
  let content := beBytes 4 (type * 2 ^ 24) ++ beBytes 4 size ++ slice hash 0 32
  c.message o x m 0x07 false true content none [stProving, stWorking, stSilenced] fun c =>
    let t := type % 256
    let n := size % 2 ^ 32
    if !(t == 1 || (0x10 ≤ t && t ≤ 0x13)) || 8 * 1048576 < n then c.answer x m 0x07 2
    else
      let c := c.bulkDiscarded x
      let late := decide (0x10 ≤ t)
      let ack := if late && m.ackreq then some m.seq else none
      let c := c.modLine x fun l => { l with bulkIn := some { type := t, size := n, hash := slice hash 0 32, ack := ack }, bulkDone := none }
      if late then c else c.answer x m 0x07 0

/-- The entries of a REG_ACCESS as content bytes. -/
def regContent (n : Nat) (es : List RegEntry) : List Byte :=
  beBytes 4 (n * 2 ^ 24) ++ es.flatMap fun e => beBytes 1 e.op ++ beBytes 3 e.addr ++ beBytes 4 e.data.toNat ++ beBytes 3 0

/-- REG_ACCESS (R346): the message waits for pair 1, or is ignored when the line's queue is full. -/
def execRegAccess (x : Line) (m : Msg) (n : Nat) (es : List RegEntry) (s : State) : Out := runO s fun o c =>
  c.message o x m 0x13 false false (regContent n es) none [stWorking] fun c => c.queueRegAccess x m n es

/-! ## Timers -/

/-- LOM_TIMEOUT (R109). -/
def execLomTimeout (x : Line) (s : State) : Out := run s fun c =>
  c.expire (.line x .lom) fun c => if (c.line x).micKey.isSome then c.lomRise x else c

/-- ANN_WAIT_EXPIRY (R93, R96): the backoff grows and a number of windows to skip is drawn. -/
def execAnnWaitExpiry (x : Line) (s : State) : Out := run s fun c =>
  c.expire (.line x .annWait) fun c =>
    if c.actState x ≠ stAnnouncing then c
    else
      let k := min (c.f (LPx_ACT_STATUS_BACKOFF x) + 1) (min 7 (c.f (LPx_ACT_TMR0_BACKOFF_MAX x)))
      let r := c.free
      ((r.1.put (LPx_ACT_STATUS_BACKOFF x) k).modLine x fun l => { l with skip := r.2 % 2 ^ k }).count (N_LPx_ANN_NO_RESP x)

/-- RANGE_TO_EXPIRY (R93). -/
def execRangeToExpiry (x : Line) (s : State) : Out := run s fun c =>
  c.expire (.line x .rangeTo) fun c =>
    if c.actState x = stRanging then ((c.clearIdentity x).count (N_LPx_RNG_TIMEOUT x)).toListening x else c

/-- PROVE_TO_EXPIRY (R101): the proof fails with RESULT 8. -/
def execProveToExpiry (x : Line) (s : State) : Out := run s fun c =>
  c.expire (.line x .proveTo) fun c => if c.actState x = stProving then c.proofFails x 8 else c

/-- HOLD_EXPIRY (R93): the identity goes; Listening when in Sync, else Dark. -/
def execHoldExpiry (x : Line) (s : State) : Out := run s fun c =>
  c.expire (.line x .hold) fun c =>
    if c.actState x = stHolding then
      (((c.clearIdentity x).raise (LPx_ACT_ALARM_HOLD_EXP x)).count (N_LPx_HOLD_EXP x)).toListening x
    else c

/-- ANNOUNCE_HOLDOFF_END (R93). -/
def execAnnounceHoldoffEnd (x : Line) (s : State) : Out := run s fun c =>
  c.expire (.line x .holdoff) fun c => (c.modLine x fun l => { l with holdoff := false }).tryAnnounce x

end Sys2Proof.Machine
end

