-- ==== Sys2Proof/Machine/Parser.lean ====
section
/-! DEFINITION. The parser and the classifier's key (spec/07_classifier.md, R164 to R170). -/

namespace Sys2Proof.Machine
open Sys2Proof

/-- What the parser has found of a packet: each header's offset, the user type with its offset and length, the
fragment state, DEEP and the first error. `l4` is the protocol of the L4 header. -/
structure Parse where
  bytes : List Byte
  count : Nat := 0
  tags : List Nat := []
  labels : List Nat := []
  etherType : Nat := 0
  ip4 : Option Nat := none
  ip6 : Option Nat := none
  exts : Nat := 0
  lastNext : Nat := 0
  l4 : Option (Nat × Nat × Nat) := none
  ptp : Option Nat := none
  gre : Option Nat := none
  vxlan : Option Nat := none
  user : Option (Nat × Nat × Nat) := none
  frag : Nat := 0
  more : Bool := false
  ident : Nat := 0
  deep : Bool := false
  err : Nat := 0
  deriving DecidableEq, Repr

/-- Where the walk is: what it looks for next, and at which byte. -/
inductive Seek where
  | ethernet
  | ether (type off : Nat)
  | label (off : Nat)
  | nibble (off : Nat)
  | proto4 (p off : Nat)
  | next6 (p off : Nat)
  | port (p off : Nat)
  | done
  deriving DecidableEq, Repr

/-- The packet's length at the classifier input. -/
def Parse.n (p : Parse) : Nat := p.bytes.length

/-- A header claimed (R165): an error when it ends past the packet, DEEP when it would be the 13th header or end
past byte 255; else the walk goes on. -/
def Parse.claim (p : Parse) (off len code : Nat) (barred : Bool) (go : Parse → Parse × Seek) : Parse × Seek :=
  if p.n < off + len then ({ p with err := code }, .done)
  else if 12 ≤ p.count || barred || 256 < off + len then ({ p with deep := true }, .done)
  else go { p with count := p.count + 1 }

/-- A user type's registers: EN, KIND and VALUE. -/
def Chip.userMatch (c : Chip) (u kind v : Nat) : Bool :=
  c.flag (SRT_UDH_MATCH_EN u) && c.f (SRT_UDH_MATCH_KIND u) == kind && c.f (SRT_UDH_MATCH_VALUE u) == v

/-- A user header at a position (R166, Table 7.2 code 6). -/
def Chip.userHeader (c : Chip) (p : Parse) (u off : Nat) : Parse × Seek :=
  let ofs := c.f (SRT_UDH_LEN_OFS u)
  let w := 1 + c.f (SRT_UDH_LEN_WIDTH u)
  let base := c.f (SRT_UDH_LEN_BASE u)
  let m1 := c.flag (SRT_UDH_LEN_MODE u)
  let len := if m1 then beAt p.bytes (off + ofs) w * 2 ^ c.f (SRT_UDH_LEN_SCALE u) + base else base
  let need := if m1 then max len (ofs + w) else len
  p.claim off need 6 false fun p =>
    if len = 0 || (m1 && decide (len < ofs + w)) then ({ p with err := 6 }, .done)
    else ({ p with user := some (u, off, len) }, .done)

/-- The first active user type that matches, in ascending order, before the built-in headers (R166). -/
def Chip.userFirst (c : Chip) (p : Parse) (kind v off : Nat) (other : Parse × Seek) : Parse × Seek :=
  match (List.range 4).find? fun u => c.userMatch u kind v with
  | some u => c.userHeader p u off
  | none => other

/-- An IPv4 header (Table 7.1, Table 7.2 codes 1, 2 and 5). -/
def Chip.stepIp4 (p : Parse) (off : Nat) : Parse × Seek :=
  let ihl := byteAt p.bytes off % 16
  p.claim off (max 20 (4 * ihl)) 5 false fun p =>
    if ihl < 5 then ({ p with err := 2 }, .done)
    else if p.n < off + beAt p.bytes (off + 2) 2 then ({ p with err := 1 }, .done)
    else
      let ff := beAt p.bytes (off + 6) 2
      let fo := ff % 8192
      let mf := bitOf ff 13
      let proto := byteAt p.bytes (off + 9)
      let frag := if fo = 0 then (if mf then 1 else 0) else 2
      let p := { p with ip4 := some off, frag := frag, more := mf, ident := beAt p.bytes (off + 4) 2, lastNext := proto }
      (p, if frag = 2 then .done else .proto4 proto (off + 4 * ihl))

/-- An IPv6 header (Table 7.2 codes 3 and 5). -/
def Chip.stepIp6 (p : Parse) (off : Nat) : Parse × Seek :=
  p.claim off 40 5 false fun p =>
    let e := off + 40 + beAt p.bytes (off + 4) 2
    if p.n < e || (decide (e < p.n) && decide (60 < p.n)) then ({ p with err := 3 }, .done)
    else
      let nh := byteAt p.bytes (off + 6)
      ({ p with ip6 := some off, lastNext := nh }, .next6 nh (off + 40))

/-- The header an EtherType leads to. -/
def Chip.stepEther (c : Chip) (p : Parse) (t off : Nat) : Parse × Seek :=
  let p := { p with etherType := t }
  c.userFirst p 0 t off <|
    if t = 0x8100 || t = 0x88A8 then
      p.claim off 4 5 (decide (3 ≤ p.tags.length)) fun p => ({ p with tags := p.tags ++ [off] }, .ether (beAt p.bytes (off + 2) 2) (off + 4))
    else if t = 0x8847 || t = 0x8848 then (p, .label off)
    else if t = 0x0800 then Chip.stepIp4 p off
    else if t = 0x86DD then Chip.stepIp6 p off
    else if t = 0x88F7 then p.claim off 34 5 false fun p => ({ p with ptp := some off }, .done)
    else (p, .done)

/-- An L4 header common to both IP versions: TCP, UDP and GRE. -/
def Chip.stepL4 (p : Parse) (proto off : Nat) : Parse × Seek :=
  if proto = 6 then
    let doff := byteAt p.bytes (off + 12) / 16
    p.claim off (max 20 (4 * doff)) 4 false fun p =>
      if doff < 5 then ({ p with err := 4 }, .done) else ({ p with l4 := some (6, off, 4 * doff) }, .done)
  else if proto = 17 then
    p.claim off 8 5 false fun p => ({ p with l4 := some (17, off, 8) }, .port (beAt p.bytes (off + 2) 2) (off + 8))
  else if proto = 47 then
    if off + 2 ≤ p.n && byteAt p.bytes (off + 1) % 8 ≠ 0 then (p, .done)
    else
      let b := byteAt p.bytes off
      p.claim off (4 + 4 * (b2n (bitOf b 7) + b2n (bitOf b 5) + b2n (bitOf b 4))) 5 false fun p => ({ p with gre := some off }, .done)
  else (p, .done)

/-- One step of the walk (Table 7.1). -/
def Chip.parseStep (c : Chip) (p : Parse) (k : Seek) : Parse × Seek :=
  match k with
  | .ethernet => p.claim 0 14 5 false fun p => (p, .ether (beAt p.bytes 12 2) 14)
  | .ether t off => c.stepEther p t off
  | .label off => p.claim off 4 5 (decide (4 ≤ p.labels.length)) fun p =>
      let p := { p with labels := p.labels ++ [off] }
      (p, if bitOf (byteAt p.bytes (off + 2)) 0 then .nibble (off + 4) else .label (off + 4))
  | .nibble off =>
      if p.n ≤ off then (p, .done)
      else if byteAt p.bytes off / 16 = 4 then Chip.stepIp4 p off
      else if byteAt p.bytes off / 16 = 6 then Chip.stepIp6 p off else (p, .done)
  | .proto4 t off => c.userFirst p 1 t off <|
      if t = 1 || t = 2 then p.claim off 8 5 false fun p => ({ p with l4 := some (t, off, 8) }, .done) else Chip.stepL4 p t off
  | .next6 t off => c.userFirst p 1 t off <|
      if t = 0 || t = 43 || t = 44 || t = 60 then
        let len := if t = 44 then 8 else 8 * (byteAt p.bytes (off + 1) + 1)
        p.claim off len 5 (decide (4 ≤ p.exts)) fun p =>
          let nh := byteAt p.bytes off
          let p := { p with exts := p.exts + 1, lastNext := nh }
          if t = 44 then
            let w := beAt p.bytes (off + 2) 2
            let frag := if w / 8 = 0 then (if bitOf w 0 then 1 else 0) else 2
            ({ p with frag := frag, more := bitOf w 0, ident := beAt p.bytes (off + 4) 4 }, if frag = 2 then .done else .next6 nh (off + 8))
          else (p, .next6 nh (off + len))
      else if t = 58 then p.claim off 8 5 false fun p => ({ p with l4 := some (58, off, 8) }, .done)
      else Chip.stepL4 p t off
  | .port t off => c.userFirst p 2 t off <|
      if t = c.f SRT_CFG_VXLAN_PORT then p.claim off 8 5 false fun p => ({ p with vxlan := some off }, .done)
      else if t = 319 || t = 320 then p.claim off 34 5 false fun p => ({ p with ptp := some off }, .done)
      else (p, .done)
  | .done => (p, .done)

/-- The walk, at most 12 headers and the steps between them. -/
def Chip.parseWalk (c : Chip) : Nat → Parse → Seek → Parse
  | 0, p, _ => p
  | n + 1, p, k => if k = .done then p else let r := c.parseStep p k; Chip.parseWalk c n r.1 r.2

/-- A packet parsed (R164 to R167). -/
def Chip.parse (c : Chip) (bs : List Byte) : Parse := c.parseWalk 40 { bytes := bs } .ethernet

/-- The parse class (Table 7.3). -/
def Parse.cls (p : Parse) : Nat :=
  if p.deep then 15
  else match p.user with
    | some (u, _, _) => if u < 2 then 13 else 14
    | none =>
      if p.vxlan.isSome then 12 else if p.gre.isSome then 11 else if p.ptp.isSome then 10
      else
        let l4 := p.l4.map (·.1)
        if p.ip4.isSome then (match l4 with | some 6 => 3 | some 17 => 4 | some _ => 5 | none => 2)
        else if p.ip6.isSome then (match l4 with | some 6 => 7 | some 17 => 8 | some _ => 9 | none => 6)
        else if p.labels ≠ [] then 1 else 0

/-- A 16-bit field at a header's offset, when the packet has that header. -/
def at16 (bs : List Byte) (o : Option Nat) (k : Nat) : Nat := match o with | some off => beAt bs (off + k) 2 | none => 0

/-- Two bytes of a header of known length; those past its end are 0. -/
def hdr16 (bs : List Byte) (off len k : Nat) : Nat :=
  (if k < len then byteAt bs (off + k) * 256 else 0) + (if k + 1 < len then byteAt bs (off + k + 1) else 0)

/-- The MLD types. -/
def isMld (t : Nat) : Bool := t == 130 || t == 131 || t == 132 || t == 143

/-- Extractor `e` of a user type (R166). -/
def Chip.extract (c : Chip) (p : Parse) (u e : Nat) : Nat :=
  match p.user with
  | some (v, off, len) =>
    if v = u then hdr16 p.bytes off len (c.f (SRT_UDH_EXT_OFS u e)) &&& c.f (SRT_UDH_EXT_MASK u e) else 0
  | none => 0

/-- The 16 bits a selector names (Table 7.5); `l4Off` holds the L4 slots at 0 (R180). -/
def Chip.slotValue (c : Chip) (p : Parse) (l4Off : Bool) (sel : Nat) : Nat :=
  let b := p.bytes
  let l4 := if l4Off then none else p.l4
  if sel = 0 then 0
  else if sel ≤ 6 then beAt b (2 * (sel - 1)) 2
  else if sel = 7 then p.etherType
  else if 8 ≤ sel && sel ≤ 0x0A then at16 b (p.tags[sel - 8]?) 0
  else if 0x10 ≤ sel && sel ≤ 0x17 then at16 b (p.labels[(sel - 0x10) / 2]?) (2 * (sel % 2))
  else if sel = 0x20 then at16 b p.ip4 12
  else if sel = 0x21 then at16 b p.ip4 14
  else if sel = 0x22 then at16 b p.ip4 16
  else if sel = 0x23 then at16 b p.ip4 18
  else if sel = 0x24 then (match p.ip4 with | some o => byteAt b (o + 1) * 256 + byteAt b (o + 9) | none => 0)
  else if sel = 0x25 then at16 b p.ip4 6
  else if sel = 0x26 then at16 b p.ip4 4
  else if sel = 0x27 then (match p.ip4 with | some o => byteAt b (o + 8) * 256 + byteAt b o % 16 | none => 0)
  else if 0x30 ≤ sel && sel ≤ 0x37 then at16 b p.ip6 (8 + 2 * (sel - 0x30))
  else if 0x38 ≤ sel && sel ≤ 0x3F then at16 b p.ip6 (24 + 2 * (sel - 0x38))
  else if sel = 0x40 then (match p.ip6 with | some o => beAt b o 2 / 16 % 256 * 256 + p.lastNext | none => 0)
  else if sel = 0x41 then (match p.ip6 with | some o => byteAt b (o + 1) % 16 | none => 0)
  else if sel = 0x42 then at16 b p.ip6 2
  else if sel = 0x43 then (match p.ip6 with | some o => byteAt b (o + 7) * 256 + p.exts | none => 0)
  else if sel = 0x50 || sel = 0x51 then
    (match l4 with | some (t, o, _) => if t = 6 || t = 17 then beAt b (o + 2 * (sel - 0x50)) 2 else 0 | none => 0)
  else if sel = 0x52 then (match l4 with | some (6, o, _) => beAt b (o + 12) 2 % 512 | _ => 0)
  else if sel = 0x53 then (match l4 with | some (1, o, _) => beAt b o 2 | some (58, o, _) => beAt b o 2 | _ => 0)
  else if sel = 0x54 then
    (match l4 with
     | some (2, o, _) => byteAt b o * 256
     | some (58, o, _) => if isMld (byteAt b o) then byteAt b o * 256 else 0
     | _ => 0)
  else if sel = 0x58 then (match p.ptp with | some o => byteAt b o % 16 * 4096 + byteAt b (o + 1) % 16 * 256 + byteAt b (o + 4) | none => 0)
  else if sel = 0x5C then at16 b p.gre 2
  else if sel = 0x5D || sel = 0x5E then
    (match p.gre with
     | some o => if bitOf (byteAt b o) 5 then beAt b (o + 4 + 4 * b2n (bitOf (byteAt b o) 7) + 2 * (sel - 0x5D)) 2 else 0
     | none => 0)
  else if sel = 0x5F then (match p.vxlan with | some o => byteAt b (o + 4) | none => 0)
  else if sel = 0x60 then at16 b p.vxlan 5
  else if 0x70 ≤ sel && sel ≤ 0x7F then c.extract p ((sel - 0x70) / 4) (sel % 4)
  else if 0x80 ≤ sel && sel ≤ 0x8F then (match l4 with | some (_, o, len) => hdr16 b o len (2 * (sel - 0x80)) | none => 0)
  else if 0x90 ≤ sel && sel ≤ 0x9F then
    (match p.ip4, p.ip6 with
     | some o, _ => hdr16 b o (4 * (byteAt b o % 16)) (2 * (sel - 0x90))
     | none, some o => hdr16 b o 40 (2 * (sel - 0x90))
     | none, none => 0)
  else 0

/-- The selector of slot `k` of a profile. -/
def Chip.selector (c : Chip) (prof k : Nat) : Nat := wordBits (c.reg (SRT_KPROF prof (k / 4))) (8 * (k % 4)) 8

/-- A packet's key (R169, Table 7.4): its two halves and whether it is 640 bits wide. -/
structure Key where
  first : Nat
  second : Nat
  wide : Bool
  deriving DecidableEq, Repr

/-- The ingress type of R169. -/
def ingressType (ingress pass : Nat) : Nat := if pass = 1 then 3 else if ingress < 20 then 0 else if ingress = 20 then 2 else 1

/-- Slots `from` to `from + n - 1` as one number, the first the most significant. -/
def Chip.slots (c : Chip) (p : Parse) (l4Off : Bool) (prof start n : Nat) : Nat :=
  (List.range n).foldl (fun v k => v * 65536 + c.slotValue p l4Off (c.selector prof (start + k)) % 65536) 0

/-- The key of a parsed packet (R168 to R170). -/
def Chip.key (c : Chip) (p : Parse) (ingress pass tag frag : Nat) (l4Off : Bool) : Key :=
  let i := 16 * ingressType ingress pass + p.cls
  let prof := wordBits (c.reg (SRT_PSEL (i / 8))) (4 * (i % 8)) 4
  let wide := c.flag (SRT_KPROF0_DW prof)
  let md := prof * 2 ^ 28 + ingress % 32 * 2 ^ 23 + pass % 2 * 2 ^ 22 + b2n p.deep * 2 ^ 21 + frag % 4 * 2 ^ 19 + p.tags.length % 8 * 2 ^ 16 + tag % 65536
  { first := md * 2 ^ 288 + c.slots p l4Off prof 0 18, second := if wide then c.slots p l4Off prof 18 20 else 0, wide := wide }

end Sys2Proof.Machine
end

