-- ==== Sys2Proof/Machine/Classifier.lean ====
section
/-! DEFINITION. The classifier: rule table, action records, edits, fragments and epochs (spec/07_classifier.md, R161
to R182). A rule entry is the 800-bit number of Table 7.11: key, mask, DATA20, action, the key highest. -/

namespace Sys2Proof.Machine
open Sys2Proof

/-- The chip with the classifier's state changed. -/
def Chip.modSorter (c : Chip) (g : Sorter → Sorter) : Chip := { c with sorter := g c.sorter }

/-! ## The rule table -/

/-- The key of an entry. -/
def ruleKey (e : Nat) : Nat := natBits e 480 320
/-- The mask of an entry. -/
def ruleMask (e : Nat) : Nat := natBits e 160 320
/-- VALID of an entry. -/
def ruleValid (e : Nat) : Bool := e.testBit 159
/-- EM of an entry. -/
def ruleEm (e : Nat) : Nat := natBits e 129 2
/-- DW of an entry. -/
def ruleDw (e : Nat) : Bool := e.testBit 128
/-- The action record of an entry. -/
def ruleAction (e : Nat) : Nat := natBits e 0 128

/-- Entry `i` of a rule table. -/
def ruleAt (m : Map Nat) (i : Nat) : Nat := Map.get 0 m i

/-- Whether the masked bits of a half agree. -/
def halfMatches (key e : Nat) : Bool := (key &&& ruleMask e) == (ruleKey e &&& ruleMask e)

/-- Whether entry `i` matches a key under an epoch (R171, R172). -/
def ruleMatches (m : Map Nat) (k : Key) (epoch i : Nat) : Bool :=
  let e := ruleAt m i
  let covered := i % 2 == 1 && ruleDw (ruleAt m (i - 1))
  !covered && ruleValid e && bitOf (ruleEm e) epoch && (ruleDw e == k.wide) && halfMatches k.first e &&
    (!k.wide || halfMatches k.second (ruleAt m (i + 1)))

/-- The lowest matching entry of the banks that are ON (R172). -/
def Chip.lookup (c : Chip) (k : Key) (epoch : Nat) : Option Nat :=
  (c.sorter.rules.map (·.1)).find? fun i => c.isOn (12 + i / 3072) && ruleMatches c.sorter.rules k epoch i

/-! ## Edits -/

/-- The EtherType for a payload's first nibble. -/
def nibbleType (b : Nat) : Option Nat := if b / 16 = 4 then some 0x0800 else if b / 16 = 6 then some 0x86DD else none

/-- The first `n` MPLS labels removed (Table 7.7). -/
def popLabels (p : Parse) (n : Nat) : Option (List Byte) :=
  match p.labels with
  | [] => none
  | off :: _ =>
    if p.labels.length < n then none
    else
      let rest := p.bytes.drop (off + 4 * n)
      let bottom := p.labels.length = n && bitOf (byteAt p.bytes (off + 4 * (n - 1) + 2)) 0
      let type := if bottom then nibbleType (byteAt rest 0) else some 0x8847
      type.map fun t => p.bytes.take (off - 2) ++ beBytes 2 t ++ rest

/-- DECAP (Table 7.7): the bytes left, none when it cannot be applied. -/
def decap (p : Parse) (code : Nat) : Option (List Byte) :=
  match code with
  | 1 => popLabels p 1
  | 2 => popLabels p 2
  | 3 => popLabels p p.labels.length
  | 4 => match p.gre with
    | some o =>
      let b := byteAt p.bytes o
      if beAt p.bytes (o + 2) 2 = 0x6558 then some (p.bytes.drop (o + 4 + 4 * (b2n (bitOf b 7) + b2n (bitOf b 5) + b2n (bitOf b 4)))) else none
    | none => none
  | 5 => p.vxlan.map fun o => p.bytes.drop (o + 8)
  | 6 => some (p.bytes.take 12 ++ p.bytes.drop (12 + 4 * p.tags.length))
  | _ => some p.bytes

/-- Whether a frame's outermost tag is a VLAN tag. -/
def isTagged (bs : List Byte) : Bool := let t := beAt bs 12 2; 16 ≤ bs.length && (t == 0x8100 || t == 0x88A8)

/-- VLAN_OP (R175). -/
def vlanOp (op tpid tci : Nat) (bs : List Byte) : List Byte :=
  let tag := beBytes 2 (if tpid = 0 then 0x8100 else 0x88A8) ++ beBytes 2 tci
  match op with
  | 1 => bs.take 12 ++ tag ++ bs.drop 12
  | 2 => if isTagged bs then bs.take 12 ++ bs.drop 16 else bs
  | 3 => if isTagged bs then bs.take 12 ++ tag ++ bs.drop 16 else bs
  | _ => bs

/-- The priority for QMODE 1 (Table 7.6). -/
def priority (p : Parse) (tag src : Nat) : Nat :=
  match src with
  | 0 => (p.tags.head?.map fun o => byteAt p.bytes o / 32).getD 0
  | 1 => match p.ip4, p.ip6 with
    | some o, _ => byteAt p.bytes (o + 1) / 32
    | none, some o => beAt p.bytes o 2 / 512 % 8
    | none, none => 0
  | 2 => (p.labels.head?.map fun o => byteAt p.bytes (o + 2) / 2 % 8).getD 0
  | _ => tag % 8

/-! ## Actions -/

/-- A frame whose action is fixed joins those on their way to admission. -/
def Chip.addActed (c : Chip) (a : Acted) : Chip := c.modSorter fun t => { t with acted := t.acted ++ [a] }

/-- A packet that goes no further: its cells are freed. -/
def Chip.dropPacket (c : Chip) (p : Packet) : Chip := if p.banks = [] then c else c.giveTransit p.banks

/-- SRT_BAD_ACTION counted, with its alarm. -/
def Chip.badAction (c : Chip) : Chip := (c.count N_SRT_BAD_ACTION).raise SRT_ALARM_BAD_ACTION

/-- What a packet carries into an action. -/
def Packet.acted (p : Packet) (bytes : List Byte) (q : Nat) : Acted :=
  { bytes := bytes, inLen := p.bytes.length, queue := q, ingress := p.ingress, tag := p.tag, epoch := p.epoch, banks := p.banks, ride := p.ride }

/-- A port action (R173): 0 drop, 1 forward to DEF_QID, 2 trap with a code. -/
def Chip.portAction (c : Chip) (p : Packet) (act code : Nat) : Chip :=
  match act with
  | 1 => c.addActed (p.acted p.bytes (c.f (SRT_PORT_CFG_DEF_QID p.ingress)))
  | 2 => (c.count N_SRT_TRAPS).addActed { p.acted p.bytes (c.f SRT_QCFG0_TRAP_QID) with trap := some code }
  | _ => c.dropPacket p

/-- The action counter of a record (R175). -/
def Chip.countAction (c : Chip) (a len : Nat) : Chip :=
  if natBits a 78 1 = 0 then c
  else
    let i := natBits a 66 12
    c.modSorter fun t => { t with
      packets := Map.set 0 t.packets i (Map.get 0 t.packets i + 1)
      bytes := Map.set 0 t.bytes i (Map.get 0 t.bytes i + BitVec.ofNat 64 len) }

/-- Whether a queue serves a line allocation port. -/
def Chip.servesLine (c : Chip) (q : Nat) : Bool := (c.queueLine q).isSome

/-- A record's disposition once the edits are made (R174 to R176). -/
def Chip.dispose (c : Chip) (p : Packet) (ps : Parse) (a : Nat) (bytes : List Byte) : Chip :=
  let qm := natBits a 124 1 = 1
  let q0 := natBits a 111 13
  let q := if qm then q0 / 8 * 8 + priority ps p.tag (natBits a 109 2) else q0
  let pre := let k := natBits a 93 2; if k = 3 then 0 else k
  let full : Acted := { p.acted bytes q with
    qmode := qm, meter := if natBits a 108 1 = 1 then some (natBits a 95 13) else none, metered := natBits a 108 1 == 0
    pre := pre, uflow := natBits a 81 12, lmode := natBits a 79 2 }
  let code := natBits a 35 8
  match natBits a 125 3 with
  | 0 => if c.servesLine q && 0xFFE ≤ natBits a 81 12 then c.badAction.dropPacket p else c.addActed full
  | 2 => (c.count N_SRT_TRAPS).addActed { full with queue := c.f SRT_QCFG0_TRAP_QID, qmode := false, trap := some (if 0xF0 ≤ code then 0xEF else code) }
  | 3 =>
    let c := if c.servesLine q && 0xFFE ≤ natBits a 81 12 then c.badAction.dropPacket p else c.addActed full
    c.addActed { p.acted bytes (c.f SRT_QCFG1_MIRROR_QID) with banks := [] }
  | 4 =>
    if p.pass = 1 then ((c.count N_SRT_RECIRC_DROP).raise SRT_ALARM_RECIRC_DROP).dropPacket p
    else (c.count N_SRT_RECIRC).addActed { p.acted bytes (c.f SRT_QCFG0_RECIRC_QID) with recirc := true }
  | _ => c.dropPacket p

/-- An action record applied in its fixed order (R175). -/
def Chip.applyRecord (c : Chip) (p : Packet) (ps : Parse) (a : Nat) (ecc : Bool) : Chip :=
  if ecc then ((c.count N_SRT_ECC_DROP).raise SRT_ALARM_ECC_DROP).dropPacket p
  else
    let c := c.countAction a p.bytes.length
    let disp := natBits a 125 3
    if disp = 1 then c.dropPacket p
    else if 5 ≤ disp then c.badAction.dropPacket p
    else
      let code := natBits a 43 4
      let c := if 7 ≤ code then c.badAction else c
      match decap ps code with
      | none => c.badAction.dropPacket p
      | some b => c.dispose p ps a (vlanOp (natBits a 64 2) (natBits a 63 1) (natBits a 47 16) b)

/-- The default action of an ingress (R172, R173). -/
def Chip.defaultAction (c : Chip) (p : Packet) : Chip :=
  let c := c.count N_SRT_MISS
  match c.f (SRT_PORT_CFG_DEF_DISP p.ingress) with
  | 0 => c.portAction p 1 0
  | 2 => c.portAction p 2 0xFF
  | _ => c.dropPacket p

/-! ## Fragments -/

/-- The key of a fragment's entry: source, destination, identification and protocol (R180). -/
def Parse.fragKey (p : Parse) : Nat × Nat × Nat × Nat :=
  match p.ip4, p.ip6 with
  | some o, _ => (beAt p.bytes (o + 12) 4, beAt p.bytes (o + 16) 4, p.ident, p.lastNext)
  | none, some o => (beAt p.bytes (o + 8) 16, beAt p.bytes (o + 24) 16, p.ident, p.lastNext)
  | none, none => (0, 0, 0, 0)

/-- Whether an entry is a fragment's. -/
def FragEntry.is (e : FragEntry) (k : Nat × Nat × Nat × Nat) (ingress : Nat) : Bool :=
  e.src == k.1 && e.dst == k.2.1 && e.ident == k.2.2.1 && e.proto == k.2.2.2 && e.ingress == ingress

/-- The lifetime of a fragment entry in ccy. -/
def Chip.fragLife (c : Chip) : Nat := max 1 (c.f SRT_CFG_FRAG_LIFE) * msCcy

/-- Entries whose lifetime has ended are freed and counted (R180). -/
def Chip.ageFrags (c : Chip) : Chip :=
  let old := c.sorter.frags.filter fun e => decide (e.expires ≤ c.now)
  (c.modSorter fun t => { t with frags := t.frags.filter fun e => decide (c.now < e.expires) }).count N_SRT_FRAG_AGED old.length

/-- A first fragment's record stored (Table 7.8). -/
def Chip.storeFrag (c : Chip) (k : Nat × Nat × Nat × Nat) (ingress a : Nat) : Chip :=
  let fs := c.sorter.frags
  let mk := fun (slot : Nat) => ({ slot := slot, src := k.1, dst := k.2.1, ident := k.2.2.1, proto := k.2.2.2, ingress := ingress, expires := c.now + c.fragLife, action := a } : FragEntry)
  match fs.find? fun e => e.is k ingress with
  | some e => c.modSorter fun t => { t with frags := t.frags.map fun f => if f.slot = e.slot then mk e.slot else f }
  | none =>
    match (List.range 256).find? fun n => !(fs.any fun e => e.slot == n) with
    | some n => c.modSorter fun t => { t with frags := t.frags ++ [mk n] }
    | none => (c.count N_SRT_FRAG_FULL).raise SRT_ALARM_FRAG_FULL

/-! ## One packet -/

/-- A lookup and what it leads to (R172). A first fragment's record is stored when `store` says so. -/
def Chip.lookupAndAct (c : Chip) (p : Packet) (ps : Parse) (frag : Nat) (l4Off ecc store : Bool) : Chip :=
  let c := c.count N_SRT_LOOKUPS
  match c.lookup (c.key ps p.ingress p.pass p.tag frag l4Off) p.epoch with
  | some i =>
    let a := ruleAction (ruleAt c.sorter.rules i)
    let c := c.count N_SRT_HITS
    let c := if store && !ecc then c.storeFrag ps.fragKey p.ingress a else c
    c.applyRecord p ps a ecc
  | none => c.defaultAction p

/-- A packet classified (R164 to R180). -/
def Chip.classify (c : Chip) (p : Packet) (ecc : Bool) : Chip :=
  let ps := c.parse p.bytes
  let c := if ps.deep then c.count N_SRT_DEEP else c
  if ps.err ≠ 0 then
    let c := (c.count N_SRT_PARSE_ERR).raise SRT_ALARM_PARSE_ERR
    let c := (c.put SRT_PARSE_LAST_INGRESS p.ingress).put SRT_PARSE_LAST_REASON ps.err
    c.portAction p (c.f (SRT_PORT_CFG_MALF_ACT p.ingress)) 0xFE
  else if ps.frag = 0 then c.lookupAndAct p ps 0 false ecc false
  else if p.pass = 1 || !c.flag SRT_CFG_FRAG_EN then c.lookupAndAct p ps ps.frag true ecc false
  else
    let c := c.ageFrags
    if ps.frag = 1 then c.lookupAndAct p ps 1 false ecc true
    else
      match c.sorter.frags.find? fun e => e.is ps.fragKey p.ingress with
      | some e =>
        let c := (c.count N_SRT_FRAG_HIT).applyRecord p ps e.action ecc
        if ps.more then c else c.modSorter fun t => { t with frags := t.frags.filter fun f => f.slot != e.slot }
      | none =>
        let c := (c.count N_SRT_FRAG_ORPHAN).raise SRT_ALARM_FRAG_ORPHAN
        match c.f (SRT_PORT_CFG_ORPH_ACT p.ingress) with
        | 3 => c.lookupAndAct p ps 2 true ecc false
        | act => c.portAction p act 0xFD

/-! ## The rotation -/

/-- The input group of a packet (R162): 0 merge output, 1 U0 to U3, 2 U4 to U19 and the host, 3 recirculation. -/
def Packet.group (p : Packet) : Nat := if p.pass = 1 then 3 else if 24 ≤ p.ingress then 0 else if p.ingress < 4 then 1 else 2

/-- The source of a packet within its group; the merge output and the recirculation port are one source each. -/
def Packet.source (p : Packet) : Nat := if p.pass = 1 || 24 ≤ p.ingress then 0 else p.ingress

/-- The packet of a group that goes next: the source after the last one served, round robin, its oldest packet. -/
def Chip.groupNext (c : Chip) (g : Nat) : Option Packet :=
  let ps := c.sorter.input.filter fun p => p.group == g
  let last := Map.get 31 c.sorter.turn g
  let order := ((List.range 32).map fun k => (last + 1 + k) % 32)
  order.findSome? fun src => ps.find? fun p => p.source == src

/-- The packet whose parse starts in this ccy: the group whose turn it is, or the next group with one (R162). -/
def Chip.nextPacket (c : Chip) : Option Packet :=
  ((List.range 4).map fun k => (c.now + k) % 4).findSome? fun g => c.groupNext g

/-- A packet taken from the classifier's input. -/
def Chip.takeInput (c : Chip) (p : Packet) : Chip :=
  c.modSorter fun t => { t with input := t.input.erase p, turn := Map.set 31 t.turn p.group p.source }

/-- CLASSIFY (R161 to R177): the next packet is parsed and looked up, and its action is fixed. `ecc` tells that its
action record was read with an uncorrectable error. -/
def execClassify (ecc : Bool) (s : State) : Out := run s fun c =>
  if !c.isOn 11 || !c.isOn 24 then c else
  let c := c.elapse 1
  match c.nextPacket with
  | none => c
  | some p =>
    let c := c.takeInput p
    let active := c.f SRT_EPOCH_STATUS_ACTIVE
    if p.pass = 1 && p.epoch != active && decide (c.sorter.swapAt + 2975 < c.now) then
      ((c.count N_SRT_EPOCH_STALE).raise SRT_ALARM_EPOCH_STALE).dropPacket p
    else c.classify (if p.pass = 0 then { p with epoch := active } else p) ecc

/-- FRAG_ENTRY_AGED (R180): the entry that ends first is freed at its end. -/
def execFragEntryAged (s : State) : Out := run s fun c =>
  match c.sorter.frags with
  | [] => c
  | e :: r =>
    let t := r.foldl (fun a f => min a f.expires) e.expires
    (c.elapse (t - c.now)).ageFrags

/-! ## Epochs -/

/-- The epoch swap (R177): the named epoch becomes active, and the old one drains. -/
def Chip.epochSwap (c : Chip) (e : Nat) : Chip :=
  if !c.isOn 11 then c.modSorter fun t => { t with recorded := e % 2 }
  else if e % 2 = c.f SRT_EPOCH_STATUS_ACTIVE then c.raise SRT_ALARM_EPOCH_NOP
  else
    let c := (c.put SRT_EPOCH_STATUS_ACTIVE e).lower SRT_EPOCH_STATUS_DRAINED
    let c := c.modSorter fun t => { t with recorded := e % 2, swapAt := c.now }
    c.put SRT_EPOCH_STATUS_IN_FLIGHT c.inFlight

/-! ## Table accesses -/

/-- Whether an EM bars a write (R178). -/
def Chip.emBars (c : Chip) (em : Nat) : Bool :=
  let a := c.f SRT_EPOCH_STATUS_ACTIVE
  bitOf em a || (!c.flag SRT_EPOCH_STATUS_DRAINED && bitOf em (1 - a))

/-- Whether a write of rule entry `i` is refused (R178). -/
def Chip.ruleRefused (c : Chip) (i new : Nat) : Bool :=
  let at_ := ruleAt c.sorter.copy
  c.emBars (ruleEm (at_ i)) || c.emBars (ruleEm new) || (i % 2 == 1 && ruleDw (at_ (i - 1)) && c.emBars (ruleEm (at_ (i - 1)))) ||
    (ruleDw new && c.emBars (ruleEm (at_ (i + 1))))

/-- The end of a table access: DONE and ERR. -/
def Chip.srtDone (c : Chip) (err : Nat) : Chip := (c.put SRT_TBL_ADDR_ERR err).raise SRT_TBL_ADDR_DONE

/-- The address fields of a table access. -/
def Chip.srtAddr (c : Chip) (write : Bool) (table index : Nat) : Chip :=
  ((c.putB SRT_TBL_ADDR_WRITE write).put SRT_TBL_ADDR_TABLE table).put SRT_TBL_ADDR_INDEX index

/-- Words written into SRT_TBL_DATA from word 0 on. -/
def Chip.srtData (c : Chip) (ws : List Nat) : Chip :=
  ((List.range ws.length).foldl (fun c k => c.setReg (SRT_TBL_DATA k) (BitVec.ofNat 32 (ws.getD k 0))) c)

/-- The 25 words of SRT_TBL_DATA as one number, DATA0 the highest. -/
def Chip.srtWords (c : Chip) : Nat := (List.range 25).foldl (fun v k => v * 2 ^ 32 + (c.reg (SRT_TBL_DATA k)).toNat) 0

/-- A rule entry written, and the error that refuses it instead: 3 index, 2 bank off, 1 epoch (R171, R178, R179). -/
def Chip.takeRule (c : Chip) (i v : Nat) : Chip × Nat :=
  if 12288 ≤ i || (ruleDw v && i % 2 == 1) then (c, 3)
  else if !c.isOn (12 + i / 3072) then (c, 2)
  else if c.ruleRefused i v then ((c.raise SRT_ALARM_EPOCH_WR_REFUSED).count N_SRT_WR_REFUSED, 1)
  else (c.modSorter fun t => { t with rules := Map.set 0 t.rules i v, copy := Map.set 0 t.copy i v }, 0)

/-- A write of a rule entry from SRT_TBL_DATA (R171, R178, R179). -/
def Chip.ruleWrite (c : Chip) (i : Nat) : Chip :=
  let c := c.srtAddr true 0 i
  let r := c.takeRule i c.srtWords
  r.1.srtDone r.2

/-- A read of a rule entry (R181). -/
def Chip.ruleRead (c : Chip) (i : Nat) : Chip :=
  let c := c.srtAddr false 0 i
  if 12288 ≤ i then c.srtDone 3
  else if !c.isOn (12 + i / 3072) then c.srtDone 2
  else
    let v := ruleAt c.sorter.rules i
    (c.srtData ((List.range 25).map fun k => natBits v (32 * (24 - k)) 32)).srtDone 0

/-- A read of a fragment entry (Table 7.11). -/
def Chip.fragRead (c : Chip) (i : Nat) : Chip :=
  let c := c.srtAddr false 1 i
  if 256 ≤ i then c.srtDone 3
  else
    match c.sorter.frags.find? fun e => e.slot == i with
    | none => (c.srtData (List.replicate 14 0)).srtDone 0
    | some e =>
      let w4 := fun (v : Nat) => (List.range 4).map fun k => natBits v (32 * (3 - k)) 32
      let left := min 65535 ((e.expires - c.now) / usCcy)
      (c.srtData (w4 e.src ++ w4 e.dst ++ [e.ident, 2 ^ 31 + e.ingress * 2 ^ 24 + e.proto % 256 * 2 ^ 16 + left] ++ w4 e.action)).srtDone 0

/-- A read of an action counter (R182). -/
def Chip.actionRead (c : Chip) (i : Nat) : Chip :=
  let c := c.srtAddr false 2 i
  if 4096 ≤ i then c.srtDone 3
  else
    let p := (Map.get 0 c.sorter.packets i).toNat
    let b := (Map.get 0 c.sorter.bytes i).toNat
    (c.srtData [p % 2 ^ 32, p / 2 ^ 32, b % 2 ^ 32, b / 2 ^ 32]).srtDone 0

/-- A write to an action counter clears it (R181). -/
def Chip.actionClear (c : Chip) (i : Nat) : Chip :=
  let c := c.srtAddr true 2 i
  if 4096 ≤ i then c.srtDone 3
  else (c.modSorter fun t => { t with packets := Map.set 0 t.packets i 0, bytes := Map.set 0 t.bytes i 0 }).srtDone 0

/-- RULE_SWEEP (R179): the table is compared with its copy, and every entry that differs is repaired; the answer lists
the entries repaired. `upsets` are the entries an upset has changed, with what they read as. -/
def Chip.ruleSweep (c : Chip) (upsets : List (Nat × Nat)) : Chip × List Nat :=
  let c := upsets.foldl (fun c u => if u.1 < 12288 then c.modSorter fun t => { t with rules := Map.set 0 t.rules u.1 u.2 } else c) c
  let bad := ((c.sorter.rules ++ c.sorter.copy).map (·.1)).filter fun i => c.isOn (12 + i / 3072) && ruleAt c.sorter.rules i != ruleAt c.sorter.copy i
  (bad.foldl (fun c i => c.modSorter fun t => { t with rules := Map.set 0 t.rules i (ruleAt t.copy i) }) c, bad.eraseDups)

end Sys2Proof.Machine
end

