-- ==== Sys2Proof/Machine/Admission.lean ====
section
/-! DEFINITION. Meters, admission and the table accesses of the buffer manager, the meters and the scheduler
(spec/08_queues_meters_scheduler.md, R185 to R209). -/

namespace Sys2Proof.Machine
open Sys2Proof

/-! ## Meters -/

/-- A meter's buckets brought up to the present ccy (R192, R193): for an srTCM what the committed bucket cannot
hold flows into the excess bucket. -/
def Chip.meterNow (c : Chip) (i : Nat) : Meter :=
  let m := Map.get {} c.meters i
  let e := c.tab 2 i
  let n := c.now - m.seen
  let cbs := burstUnits (entryWord e 2)
  let ebs := burstUnits (entryWord e 4)
  let tc := m.c + n * rateStep (entryWord e 1)
  if natBits e 30 1 = 0 then { m with c := min cbs tc, e := min ebs (m.e + (tc - cbs)), seen := c.now }
  else { m with c := min cbs tc, e := min ebs (m.e + n * rateStep (entryWord e 3)), seen := c.now }

/-- The colour of a frame and the buckets after it (R193): RFC 2697 and RFC 2698, colour-blind or colour-aware.
`b` is the metered length in 2^-24 bytes, `pre` the pre-colour. -/
def meterColour (type : Nat) (aware : Bool) (pre b : Nat) (m : Meter) : Nat × Meter :=
  let pre := if aware then pre else 0
  if type = 0 then
    if pre = 0 && b ≤ m.c then (0, { m with c := m.c - b })
    else if pre ≤ 1 && b ≤ m.e then (1, { m with e := m.e - b })
    else (2, m)
  else if pre = 2 || m.e < b then (2, m)
  else if pre = 1 || m.c < b then (1, { m with e := m.e - b })
  else (0, { m with c := m.c - b, e := m.e - b })

/-- A meter's byte counter of a colour advanced. -/
def Meter.addBytes (m : Meter) (colour n : Nat) : Meter :=
  match colour with
  | 0 => { m with green := m.green + BitVec.ofNat 64 n }
  | 1 => { m with yellow := m.yellow + BitVec.ofNat 64 n }
  | _ => { m with red := m.red + BitVec.ofNat 64 n }

/-- The first frame that still needs its meter replaced by others. -/
def replaceUnmetered (r : List Acted) : List Acted → List Acted
  | [] => []
  | a :: as => if a.metered then a :: replaceUnmetered r as else r ++ as

/-- METER_UPDATE (R191 to R194): the next frame with MTR_EN is coloured, and its colour's action applies. -/
def Chip.meterUpdate (c : Chip) : Chip :=
  match c.sorter.acted.find? fun a => !a.metered with
  | none => c
  | some a =>
    let put := fun (c : Chip) (r : List Acted) => c.modSorter fun t => { t with acted := replaceUnmetered r t.acted }
    match a.meter with
    | none => put c [{ a with metered := true }]
    | some i =>
      let e := c.tab 2 i
      if !c.isOn 26 then put c [{ a with metered := true, meter := none }]
      else if !entryValid e then put ((c.count N_TOL_NO_METER).raise TOL_ALARM_NO_METER) [{ a with metered := true, meter := none }]
      else
        let r := meterColour (natBits e 30 1) (bitOf e 29) a.pre (a.inLen * 2 ^ 24) (c.meterNow i)
        let k := r.1
        let c := { c with meters := Map.set {} c.meters i (r.2.addBytes k a.inLen) }
        let c := c.count (N_TOL_GREEN + 8 * k)
        match natBits e (2 * k) 2 with
        | 0 => put c [{ a with metered := true, colour := k }]
        | 1 => put (c.count N_TOL_REMARK) [{ a with metered := true, colour := k, queue := if a.qmode then a.queue / 8 * 8 + natBits e (24 - 4 * k) 3 else a.queue }]
        | _ => let c := put (c.count N_TOL_DROP) []
               if a.banks = [] then c else c.giveTransit a.banks

/-! ## Admission -/

/-- The factor of Table 8.1 applied to F. -/
def alphaShare (code f : Nat) : Nat :=
  match code with
  | 0 => f / 64 | 1 => f / 16 | 2 => f / 8 | 3 => f / 4 | 4 => f / 2 | 5 => f | 6 => 2 * f | _ => 4 * f

/-- A queue's answer to a frame (R187): whether it admits it, its shared increment, and whether MAX refused it. -/
structure Verdict where
  queue : Nat
  ok : Bool
  inc : Nat := 0
  byMax : Bool := false
  unmetered : Bool := false
  long : Bool := false
  deriving DecidableEq, Repr

/-- XMAX as it acts: 64 to 1,000 bytes with FCS (R286). -/
def Chip.xmax (c : Chip) : Nat := max 64 (min 1000 (c.f NTU_XCFG_XMAX))

/-- The conditions of R187, R195 and R286 for a frame of `len` stored bytes. -/
def Chip.judgeQueue (c : Chip) (q len colour : Nat) (meter : Option Nat) : Verdict :=
  let n := cellsOf len
  let e := c.tab 1 q
  let min_ := natBits e 0 18
  let maxv := natBits e 32 18
  let o := c.queueCells q
  let u := o - min_
  let u' := o + n - min_
  let f := c.freeShared
  let alpha := natBits e 27 3
  let fits := match colour with
    | 0 => decide (u' ≤ alphaShare alpha f)
    | 1 => decide (u' ≤ alphaShare (min alpha (natBits e 24 3)) f)
    | _ => decide (o + n ≤ min_)
  let bad := c.isExpress q && meter != some (natBits (c.tab 3 q) 48 13)
  let big := decide (maxv ≠ 0) && decide (maxv < o + n)
  let long := c.isExpress q && decide (c.xmax < len + 4)
  { queue := q, long := long, ok := !bad && !big && !long && fits && decide (u' - u ≤ f), inc := u' - u, byMax := big, unmetered := bad }

/-- The queue of a line frame that takes references for a line (R190). -/
def Chip.lineQueue (c : Chip) (q : Nat) (x : Line) : Option Nat :=
  let e := c.tab 3 q
  let twin := natBits e 32 13
  if c.queueLine q = some x then some q
  else if natBits e 63 1 = 1 && c.queueLine twin = some x then some twin else none

/-- The lines on which a frame takes references (Table 8.2). -/
def Chip.frameLines (c : Chip) (lmode : Nat) : List Line :=
  let act := lineOf (c.f TWE_STATUS_ACT_LINE)
  match c.mode with
  | 0 => [.a]
  | 2 => [act]
  | _ => match lmode with
    | 0 => [Line.a, Line.b].filter c.fit
    | 1 => [.a]
    | 2 => [.b]
    | _ => [act]

/-- The cells of frames charged to a pool of R189. -/
def Chip.poolCells (c : Chip) (pool : Nat) : Nat :=
  (c.cooper.frames.filter fun f => f.pool == pool).foldl (fun n f => n + f.banks.length) 0

/-- What the Tallyman may sample of a frame at admission (R364). -/
def Acted.attr (a : Acted) (p : Nat) : PacketAttr :=
  { len := a.bytes.length, flow := a.uflow, queue := a.queue, port := p, egress := true }

/-- A frame stored with references in the queues given (R183, R187). -/
def Chip.storeFrame (c : Chip) (a : Acted) (p : Nat) (qs : List Nat) (inc pool seq : Nat) : Chip :=
  let c := if a.banks = [] then c else c.giveTransit a.banks
  let r := Chip.takeCells (cellsOf a.bytes.length) c []
  let c := r.1
  let id := c.cooper.nextId
  let f : Frame := { id := id, bytes := a.bytes, banks := r.2, shared := inc, pool := pool, uflow := a.uflow, lmode := a.lmode, seq := seq, trap := a.trap, ingress := a.ingress, tag := a.tag, epoch := a.epoch, colour := a.colour, inLen := a.inLen, ride := a.ride }
  let c := c.modCooper fun k => { k with frames := k.frames ++ [f], shared := k.shared + inc, nextId := id + 1 }
  let c := qs.foldl (fun c q => c.setQueue q (c.queue q ++ [{ frame := id, enq := c.now }])) c
  c.count N_COP_FRAMES_IN 1 (some (a.attr p))

/-- A frame refused: its cells are freed, and the drop is counted at each queue that refused it. -/
def Chip.refuseFrame (c : Chip) (a : Acted) (qs : List Nat) : Chip :=
  let c := if a.banks = [] then c else c.giveTransit a.banks
  qs.foldl (fun c q => c.modCooper fun k => { k with drops := Map.set 0 k.drops q (min (2 ^ 32 - 1) (Map.get 0 k.drops q + 1)) }) c

/-- The counters of a frame that no queue admits (R187, R195). -/
def Chip.countRefused (c : Chip) (a : Acted) (p : Nat) (vs : List Verdict) : Chip :=
  let c := c.count (N_COP_ADM_DROP_G + 8 * a.colour) 1 (some (a.attr p))
  let c := if vs.any (·.byMax) then c.count N_COP_MAX_DROP else c
  let c := if vs.any (·.long) then c.count N_NTU_XMAX_DROP else c
  if vs.any (·.unmetered) then (c.count N_COP_EXP_UNMETERED).raise COP_ALARM_EXP_UNMETERED else c

/-- A frame bound for a line allocation port (R124 to R126, R190). -/
def Chip.admitLine (c : Chip) (a : Acted) (p : Nat) : Chip :=
  let lines := c.frameLines a.lmode
  let qs := lines.filterMap fun x => c.lineQueue a.queue x
  if qs = [] then (c.refuseFrame a []).count N_COP_NOLINE_DROP
  else
    let vs := qs.map fun q => c.judgeQueue q a.bytes.length a.colour a.meter
    let good := vs.filter (·.ok)
    let bad := (vs.filter fun v => !v.ok).map (·.queue)
    if good = [] then (c.countRefused a p vs).refuseFrame a bad
    else
      let inc := good.foldl (fun m v => max m v.inc) 0
      let seq := Map.get 0 c.cooper.seqs a.uflow
      let c := c.modCooper fun k => { k with seqs := Map.set 0 k.seqs a.uflow ((seq + 1) % 2 ^ 24) }
      let c := bad.foldl (fun c q => c.modCooper fun k => { k with drops := Map.set 0 k.drops q (min (2 ^ 32 - 1) (Map.get 0 k.drops q + 1)) }) c
      let c := c.storeFrame a p (good.map (·.queue)) inc 0 seq
      if c.mode = 1 && a.lmode = 0 then c.count (if good.length = 2 then N_TWE_UP_PAIRED else N_TWE_UP_HALF) else c

/-- A frame bound for the recirculation or the mirror port (R189). -/
def Chip.admitPool (c : Chip) (a : Acted) (p : Nat) : Chip :=
  let pool := p - 20
  let quota := c.f (if pool = 1 then COP_RM_CFG_RECIRC_CELLS else COP_RM_CFG_MIRROR_CELLS)
  if quota < c.poolCells pool + cellsOf a.bytes.length then ((c.refuseFrame a [a.queue]).count N_COP_RM_DROP).raise COP_ALARM_RM_FULL
  else c.storeFrame a p [a.queue] 0 pool 0

/-- The admission of one frame (R185, R187). -/
def Chip.admitFrame (c : Chip) (a : Acted) : Chip :=
  match c.portOf a.queue with
  | none => ((c.countRefused a 255 []).count N_COP_INVALID_Q).refuseFrame a [a.queue]
  | some p =>
    if p = 21 || p = 22 then c.admitPool a p
    else if 24 ≤ p then c.admitLine a p
    else
      let v := c.judgeQueue a.queue a.bytes.length a.colour a.meter
      if v.ok then c.storeFrame a p [a.queue] v.inc 0 0
      else (c.countRefused a p [v]).refuseFrame a [a.queue]

/-- METER_UPDATE (R191 to R194). -/
def execMeterUpdate (s : State) : Out := run s Chip.meterUpdate

/-- ADMISSION (R185 to R190): the frame whose action was fixed first is admitted or refused, once it is metered. -/
def execAdmission (s : State) : Out := run s fun c =>
  match c.sorter.acted with
  | [] => c
  | a :: r => if !c.isOn 24 || !a.metered then c else (c.modSorter fun t => { t with acted := r }).admitFrame a

/-! ## Table accesses -/

/-- Words of a list as one entry, word 0 the lowest. -/
def packWords (ws : List Word) (n : Nat) : Nat := (List.range n).foldl (fun v k => v + (ws.getD k 0).toNat * 2 ^ (32 * k)) 0

/-- A queue admission entry staged (R207). -/
def Chip.queueWrite (c : Chip) (q : Nat) (ws : List Word) : Chip :=
  let c := ((c.put COP_Q_ADDR_QID q).raise COP_Q_ADDR_WRITE).raise COP_Q_ADDR_DONE
  c.stageTab 1 (q % 8192) (packWords ws 2)

/-- A queue entry read, its drop count cleared when asked (R207, Table 8.5). -/
def Chip.queueRead (c : Chip) (q : Nat) (clr : Bool) : Chip :=
  let q := q % 8192
  let e := c.tab 1 q
  let ws := [entryWord e 0, entryWord e 1, c.queueCells q, (c.queue q).length, Map.get 0 c.cooper.drops q, min (2 ^ 26 - 1) (c.queueBytes q)]
  let c := (((c.put COP_Q_ADDR_QID q).lower COP_Q_ADDR_WRITE).putB COP_Q_ADDR_CLR clr).raise COP_Q_ADDR_DONE
  let c := (List.range 6).foldl (fun c k => c.setReg (COP_Q_DATA 0 + 4 * k) (BitVec.ofNat 32 (ws.getD k 0))) c
  if clr then c.modCooper fun k => { k with drops := Map.set 0 k.drops q 0 } else c

/-- The address fields of a meter table access. -/
def Chip.tolAddr (c : Chip) (write : Bool) (table i : Nat) : Chip :=
  (((c.putB TOL_TBL_ADDR_WRITE write).put TOL_TBL_ADDR_TABLE table).put TOL_TBL_ADDR_INDEX i).raise TOL_TBL_ADDR_DONE

/-- Words written into TOL_TBL_DATA. -/
def Chip.tolData (c : Chip) (ws : List Nat) : Chip :=
  (List.range ws.length).foldl (fun c k => c.setReg (TOL_TBL_DATA k) (BitVec.ofNat 32 (ws.getD k 0))) c

/-- A meter entry staged. -/
def Chip.meterWrite (c : Chip) (i : Nat) (ws : List Word) : Chip := (c.tolAddr true 0 i).stageTab 2 (i % 8192) (packWords ws 5)

/-- A meter entry read with its buckets (Table 8.7). -/
def Chip.meterRead (c : Chip) (i : Nat) : Chip :=
  let i := i % 8192
  let e := c.tab 2 i
  let m := c.meterNow i
  (c.tolAddr false 0 i).tolData ((List.range 5).map (entryWord e) ++ [m.c / 2 ^ 24, m.e / 2 ^ 24])

/-- A meter's byte counters read. -/
def Chip.meterCounters (c : Chip) (i : Nat) : Chip :=
  let i := i % 8192
  let m := Map.get {} c.meters i
  let w : DWord → List Nat := fun d => [d.toNat % 2 ^ 32, d.toNat / 2 ^ 32]
  (c.tolAddr false 1 i).tolData (w m.green ++ w m.yellow ++ w m.red)

/-- A meter's byte counters cleared. -/
def Chip.meterClear (c : Chip) (i : Nat) : Chip :=
  let i := i % 8192
  let c := c.tolAddr true 1 i
  let m : Meter := Map.get {} c.meters i
  { c with meters := Map.set {} c.meters i { m with green := 0, yellow := 0, red := 0 } }

/-- The sizes of the scheduler's tables. -/
def drvSize (t : Nat) : Nat := match t with | 0 => 8192 | 1 => 1024 | 2 => 256 | _ => 152

/-- The address fields of a scheduler table access. -/
def Chip.drvAddr (c : Chip) (write : Bool) (t i err : Nat) : Chip :=
  ((((c.putB DRV_TBL_ADDR_WRITE write).put DRV_TBL_ADDR_TABLE t).put DRV_TBL_ADDR_INDEX i).put DRV_TBL_ADDR_ERR err).raise DRV_TBL_ADDR_DONE

/-- A scheduler entry staged (R197). -/
def Chip.schedWrite (c : Chip) (t i : Nat) (ws : List Word) : Chip :=
  let t := t % 4
  let i := i % 8192
  if drvSize t ≤ i then c.drvAddr true t i 1 else (c.drvAddr true t i 0).stageTab (3 + t) i (packWords ws 5)

/-- Whole bytes of a bucket as a two's complement word. -/
def bucketBytes (v : Int) : Nat := toField 32 (v / (2 ^ 24 : Nat))

/-- A scheduler entry read with its dynamic state (Table 8.8). -/
def Chip.schedRead (c : Chip) (t i : Nat) : Chip :=
  let t := t % 4
  let i := i % 8192
  if drvSize t ≤ i then c.drvAddr false t i 1
  else
    let e := c.tab (3 + t) i
    let sh := c.shaperNow t i
    let d := toField 32 (Map.get 0 c.drover.deficits (childKey t i))
    let dyn := match t with
      | 0 => [0, 0, d]
      | 3 => [0, bucketBytes sh.p, 0]
      | _ => [bucketBytes sh.c, bucketBytes sh.p, d]
    let c := c.drvAddr false t i 0
    let ws := (List.range 5).map (entryWord e) ++ dyn
    (List.range 8).foldl (fun c k => c.setReg (DRV_TBL_DATA 0 + 4 * k) (BitVec.ofNat 32 (ws.getD k 0))) c

end Sys2Proof.Machine
end

