-- ==== Sys2Proof/Machine/Carriage.lean ====
section
/-! DEFINITION. Downstream carriage: headers, flow filter, tags, reassembly and the bulk channel
(spec/06_carriage_and_bursts.md, R137 to R151). -/

namespace Sys2Proof.Machine
open Sys2Proof

/-- The carriage header of Table 6.1, from its 10 bytes. -/
structure CarriageHeader where
  len : Nat
  flow : Nat
  first : Bool
  last : Bool
  kg : Nat
  express : Bool
  seq : Nat
  fidx : Nat
  deriving DecidableEq, Repr

/-- The fields of a header. -/
def parseHeader (h : List Byte) : CarriageHeader :=
  let v := beAt h 0 10
  { len := natBits v 66 14, flow := natBits v 54 12, first := bitOf v 53, last := bitOf v 52, kg := natBits v 51 1
    express := bitOf v 50, seq := natBits v 26 24, fidx := natBits v 22 4 }

/-- The CRC-16 of R59. -/
def hec (bs : List Byte) : Nat := crcMsb 16 0x1021 0xFFFF bs

/-- The 10 bytes of a header (Table 6.1). -/
def CarriageHeader.bytes (h : CarriageHeader) : List Byte :=
  let v := h.len % 2 ^ 14 * 2 ^ 50 + h.flow % 2 ^ 12 * 2 ^ 38 + b2n h.first * 2 ^ 37 + b2n h.last * 2 ^ 36 + h.kg % 2 * 2 ^ 35 +
    b2n h.express * 2 ^ 34 + h.seq % 2 ^ 24 * 2 ^ 10 + h.fidx % 16 * 2 ^ 6
  let b := beBytes 8 v
  b ++ beBytes 2 (hec b)

/-- The CRC-16 syndrome over the 80 bits of a header (R139). -/
def syndrome (h : List Byte) : Nat := hec (slice h 0 8) ^^^ beAt h 8 2

/-- A header with bit `k` of its 80 flipped. -/
def flipBit (h : List Byte) (k : Nat) : List Byte := beBytes 10 (beAt h 0 10 ^^^ 2 ^ k)

/-- A header as the receiver takes it (R139): valid, corrected, or not correctable. -/
def correctHeader (hecCorr : Bool) (h : List Byte) : Option (List Byte × Bool) :=
  if syndrome h = 0 then some (slice h 0 10, false)
  else if !hecCorr then none
  else ((List.range 80).find? fun k => syndrome (flipBit h k) == 0).map fun k => (flipBit h k, true)

/-- The IV of Table 6.3, 12 bytes. -/
def carriageIv (x : Line) (up : Bool) (fn flow seq fidx : Nat) : List Byte :=
  beBytes 12 (x.idx * 2 ^ 95 + b2n up * 2 ^ 94 + fn % 2 ^ 48 * 2 ^ 46 + flow % 4096 * 2 ^ 34 + seq % 2 ^ 24 * 2 ^ 10 + fidx % 16 * 2 ^ 6)

/-- Whether a line's frames of a flow carry a tag (R137, R150). -/
def Chip.tagged (c : Chip) (x : Line) (flow : Nat) : Bool :=
  flow != 0xFFF && (flow != 0xFFE || c.flag (LPx_ACT_STATUS_KEYED x))

/-- The carriage key of a line's flow and generation, when its slot holds one (R145, R146). -/
def Chip.carriageKeyAt (c : Chip) (x : Line) (flow g : Nat) : Option (List Byte) :=
  if !c.isOn 9 then none else
  match (c.line x).lineKey, (c.line x).keyCount flow g with
  | some lk, some k => some (carriageKey lk flow k)
  | _, _ => none

/-- Bit `k` of a line's half of CAR_ALARM. -/
def carAlarm (x : Line) (k : Nat) : Fld := ⟨CAR_ALARM, 9 * x.idx + k, 1⟩

/-- The end of the packet area, in payload bytes (R58, R140). -/
def packetAreaEnd : Nat := 1416070

/-- The position of the next carriage header on a line, or none when the area has ended. -/
def Chip.advance (c : Chip) (x : Line) (pos : Nat) : Chip :=
  c.modLine x fun l => { l with area := if pos + 10 ≤ packetAreaEnd then some pos else none }

/-- The rest of the packet area abandoned (R140). -/
def Chip.abandonArea (c : Chip) (x : Line) : Chip :=
  ((c.modLine x fun l => { l with area := none }).count (N_CAR_AREA_ABANDON x)).raise (carAlarm x 0)

/-- A complete packet of a line (R149, R150): to the merge, or to the bulk channel. -/
def Chip.packetDone (c : Chip) (x : Line) (flow seq : Nat) (express : Bool) (bytes : List Byte) (banks : List Nat) : Chip :=
  if flow = 0xFFE then c.modLine x fun l => { l with bulkRx := l.bulkRx ++ [bytes] }
  else
    let p : MergePkt := { line := x, flow := flow, seq := seq, express := express, cls := natBits (c.tab 0 flow) 0 16, bytes := bytes, banks := banks, arrived := c.now }
    { c with twoEnded := { c.twoEnded with waiting := c.twoEnded.waiting ++ [p] } }.count (N_CAR_PKTS x)

/-- The cells that a stored string needs beyond those it holds, or none when the shared pool is exhausted (R188). -/
def Chip.growCells (c : Chip) (flow : Nat) (len : Nat) (banks : List Nat) : Option (Chip × List Nat) :=
  if flow = 0xFFE then some (c, [])
  else match c.takeTransit (cellsOf len - banks.length) with
    | some (c, new) => some (c, banks ++ new)
    | none => none

/-- An open reassembly context replaced. -/
def Chip.putContext (c : Chip) (x : Line) (k : Reasm) : Chip :=
  c.modLine x fun l => { l with contexts := l.contexts.filter (fun j => !(j.flow == k.flow && j.seq == k.seq)) ++ [k] }

/-- When the line's frame FN + 4 begins, the present frame having the number FN (R148). -/
def Chip.fourFramesOn (c : Chip) (x : Line) : Nat :=
  c.now - (c.nt.cif + frameCcy - c.f (LNx_SYNC_CIF_CIF x)) % frameCcy + 4 * frameCcy

/-- A first fragment opens a context (Table 6.4). -/
def Chip.openContext (c : Chip) (x : Line) (h : CarriageHeader) (plain : List Byte) : Chip :=
  if 512 ≤ (c.line x).contexts.length then (c.count (N_CAR_REASM_FULL x)).raise (carAlarm x 4)
  else match c.growCells h.flow plain.length [] with
    | none => c.noCell []
    | some (c, banks) => c.putContext x { flow := h.flow, seq := h.seq, next := 1, bytes := plain, banks := banks, express := h.express, expires := c.fourFramesOn x }

/-- A fragment that has passed its tag check (R147, Table 6.4). -/
def Chip.reassemble (c : Chip) (x : Line) (h : CarriageHeader) (plain : List Byte) : Chip :=
  let ctx := (c.line x).contexts.find? fun k => k.flow == h.flow && k.seq == h.seq
  match ctx with
  | none => if h.first then c.openContext x h plain else c.count (N_CAR_REASM_ORPHAN x)
  | some k =>
    if h.first then ((c.dropContext x k).count (N_CAR_REASM_BAD x)).openContext x h plain
    else if h.fidx ≠ k.next || 16383 < k.bytes.length + plain.length then (c.dropContext x k).count (N_CAR_REASM_BAD x)
    else
      let bytes := k.bytes ++ plain
      match c.growCells h.flow bytes.length k.banks with
      | none => (c.modLine x fun l => { l with contexts := l.contexts.filter fun j => !(j.flow == k.flow && j.seq == k.seq) }).noCell k.banks
      | some (c, banks) =>
        if h.last then
          (c.modLine x fun l => { l with contexts := l.contexts.filter fun j => !(j.flow == k.flow && j.seq == k.seq) }).packetDone x h.flow h.seq k.express bytes banks
        else c.putContext x { k with next := k.next + 1, bytes := bytes, banks := banks }

/-- The plaintext of a frame of a line that is not fragmented, or one of its fragments (R147, R149). -/
def Chip.deliver (c : Chip) (x : Line) (h : CarriageHeader) (plain : List Byte) : Chip :=
  if h.first && h.last then
    match c.growCells h.flow plain.length [] with
    | none => c.noCell []
    | some (c, banks) => c.packetDone x h.flow h.seq h.express plain banks
  else c.reassemble x h plain

/-- CARRIAGE_FRAME (R139 to R147): the carriage frame at the next position of the packet area. `body` holds the
bytes after its header; the marks tell whether a header byte or a body byte is errored. -/
def execCarriageFrame (x : Line) (hdr : List Byte) (hdrErrored : Bool) (body : List Byte) (bodyErrored : Bool) (s : State) : Out := run s fun c =>
  match (c.line x).area with
  | none => c
  | some pos =>
    if !c.isOn 8 then c else
    match if hdrErrored then none else correctHeader (c.flag CAR_CFG_HEC_CORR) hdr with
    | none => (c.count (N_CAR_HEC_UNC x)).abandonArea x
    | some (hb, fixed) =>
      let c := if fixed then c.count (N_CAR_HEC_CORR x) else c
      let h := parseHeader hb
      let tag := c.tagged x h.flow
      let size := 10 + h.len + (if tag then 16 else 0)
      if packetAreaEnd < pos + size then c.abandonArea x
      else
        let c := c.advance x (pos + size)
        if (h.express && !(h.first && h.last)) || (h.first && h.fidx != 0) || (h.len == 0 && h.flow != 0xFFF) then
          (c.count (N_CAR_HDR_BAD x)).raise (carAlarm x 1)
        else if h.flow = 0xFFF then c
        else if natBits (c.tab 0 h.flow) (31 - x.idx) 1 = 0 then c.count (N_CAR_FLOW_OFF x)
        else if bodyErrored then c.count (N_CAR_ERRD x)
        else if !tag then c.deliver x h (slice body 0 h.len)
        else
          match c.carriageKeyAt x h.flow h.kg with
          | none => (c.count (N_CAR_KEY_MISS x)).raise (carAlarm x 3)
          | some key =>
            let iv := carriageIv x false (c.line x).fn h.flow h.seq h.fidx
            match Config.gcmDecrypt key iv (slice hb 0 8) (slice body 0 h.len) (slice body h.len 16) with
            | none => (c.count (N_CAR_TAG_FAIL x)).raise (carAlarm x 2)
            | some plain => (c.count (N_CAR_FRAMES x)).deliver x h plain

/-- REASM_TIMEOUT (R148): the contexts of a line whose frame FN_first + 4 begins are discarded. -/
def execReasmTimeout (x : Line) (s : State) : Out := run s fun c =>
  match (c.line x).contexts with
  | [] => c
  | k :: r =>
    let t := r.foldl (fun a j => min a j.expires) k.expires
    let c := c.elapse (t - c.now)
    let old := (c.line x).contexts.filter fun j => decide (j.expires ≤ c.now)
    let c := old.foldl (fun c j => c.dropContext x j) c
    (c.count (N_CAR_REASM_TO x) old.length).raise (carAlarm x 5)

/-! ## The bulk channel -/

/-- Whether a segment at an offset meets no byte received before. -/
def BulkIn.fresh (b : BulkIn) (off len : Nat) : Bool :=
  b.parts.all fun p => decide (off + len ≤ p.1) || decide (p.1 + p.2.length ≤ off)

/-- The bytes received so far. -/
def BulkIn.received (b : BulkIn) : Nat := b.parts.foldl (fun n p => n + p.2.length) 0

/-- The object that its segments make. -/
def BulkIn.assemble (b : BulkIn) : List Byte :=
  b.parts.foldl (fun d p => splice d p.1 p.2) (List.replicate b.size 0)

/-- A completed object (R100, R151): a head-end proof that comes before the ATTEST object has been sent is
discarded unjudged. -/
def Chip.objectDone (c : Chip) (x : Line) (b : BulkIn) : Chip :=
  let c := c.modLine x fun l => { l with bulkIn := none }
  let ob : BulkObj := { type := b.type, hash := b.hash, ack := b.ack, data := b.assemble }
  if b.type = 1 then
    if c.actState x = stProving && (c.line x).proof.any (·.sent) then
      (c.modLine x fun l => { l with bulkDone := some ob }).put (LPx_PROVE_STATUS_STEP x) 3
    else c.count (N_LPx_ACT_IGN x)
  else c.modLine x fun l => { l with bulkDone := some ob }

/-- A bulk packet judged (R150, R151, Table 6.5). -/
def Chip.bulkSegment (c : Chip) (x : Line) (p : List Byte) : Chip :=
  let kind := byteAt p 0
  let type := byteAt p 1
  let size := beAt p 4 4
  let off := beAt p 8 4
  let seg := p.drop 12
  if kind = 1 then c else
  match (c.line x).bulkIn with
  | none => c.count (N_CAR_BULK_BAD x)
  | some b =>
    let open_ := c.flag (LPx_ACT_STATUS_KEYED x) || type == 1 || type == 3
    if kind ≠ 2 || type ≠ b.type || size ≠ b.size || b.size < off + seg.length || !b.fresh off seg.length || !open_ then
      c.count (N_CAR_BULK_BAD x)
    else
      let b := { b with parts := b.parts ++ [(off, seg)] }
      if b.received = b.size then c.objectDone x b else c.modLine x fun l => { l with bulkIn := some b }

/-- BULK_SEGMENT (R151): the next bulk packet that arrived on the line is accepted into the object in progress, or
discarded. -/
def execBulkSegment (x : Line) (s : State) : Out := run s fun c =>
  match (c.line x).bulkRx with
  | [] => c
  | p :: r => (c.modLine x fun l => { l with bulkRx := r }).bulkSegment x p

/-! ## The flow table -/

/-- A flow-table entry staged (R143); the two fixed entries ignore writes. -/
def Chip.flowWrite (c : Chip) (flow : Nat) (entry : Word) : Chip :=
  let f := flow % 4096
  let c := ((c.put CAR_FT_ADDR_FLOW f).raise CAR_FT_ADDR_WRITE).raise CAR_FT_ADDR_DONE
  let c := c.setReg CAR_FT_DATA entry
  if 0xFFE ≤ f then c else c.stageTab 0 f entry.toNat

/-- The active flow entry and the keys present (R143, R145). -/
def Chip.flowRead (c : Chip) (flow : Nat) : Chip :=
  let f := flow % 4096
  let c := ((c.put CAR_FT_ADDR_FLOW f).lower CAR_FT_ADDR_WRITE).raise CAR_FT_ADDR_DONE
  let c := c.setReg CAR_FT_DATA (BitVec.ofNat 32 (c.tab 0 f))
  let k := fun (x : Line) (g : Nat) => b2n (f != 0xFFF && (c.carriageKeyAt x f g).isSome)
  c.setReg CAR_FT_KEYS (BitVec.ofNat 32 (k .b 1 * 8 + k .b 0 * 4 + k .a 1 * 2 + k .a 0))

end Sys2Proof.Machine
end

