-- ==== Sys2Proof/Machine/Interchange.lean ====
section
/-! DEFINITION. The time-slot interchange: channels, connection pages, generators and monitors
(spec/10_tributaries_and_tsi.md, R258 to R262). -/

namespace Sys2Proof.Machine
open Sys2Proof

/-- The chip with the interchange changed. -/
def Chip.modTsi (c : Chip) (g : Weaver → Weaver) : Chip := { c with tsi := g c.tsi }

/-- A tributary's state beside its registers. -/
def Chip.trib (c : Chip) (n : Nat) : Trib := Map.get {} c.tribs n

/-- A tributary's state replaced. -/
def Chip.setTrib (c : Chip) (n : Nat) (t : Trib) : Chip := { c with tribs := Map.set {} c.tribs n t }

/-- A container slot's state beside its registers. -/
def Chip.slot (c : Chip) (s : Nat) : SlotRx := Map.get {} c.conts s

/-- A container slot's state replaced. -/
def Chip.setSlot (c : Chip) (s : Nat) (r : SlotRx) : Chip := { c with conts := Map.set {} c.conts s r }

/-- A tributary's mode; 3 is applied as 2 (R241). -/
def Chip.tribMode (c : Chip) (n : Nat) : Nat := min 2 (c.f (TDM_CFG_MODE n))

/-- Whether a tributary is in use. -/
def Chip.tribOn (c : Chip) (n : Nat) : Bool := c.flag (TDM_CFG_EN n) && c.isOn (tribDom n)

/-- Whether a valid upstream slot names a tributary directly (R246). -/
def Chip.tribDirect (c : Chip) (n : Nat) : Bool :=
  (List.range 64).any fun s => c.flag (TCM_US_SLOT_VALID s) && c.flag (TCM_US_SLOT_SRC s) && c.f (TCM_US_SLOT_TRIB s) == n

/-- Whether an input channel exists (R258, R262). -/
def Chip.channelExists (c : Chip) (ch : Nat) : Bool :=
  if ch < 1024 then c.flag (TDM_CFG_EN (ch / 32)) && c.tribMode (ch / 32) != 2 && !c.tribDirect (ch / 32)
  else if ch < 3072 then c.flag (TCM_DS_SLOT_VALID ((ch - 1024) / 32))
  else ch < 4096

/-- The interchange brought to an NT frame: what was written in the frame before it is kept for its outputs. -/
def Weaver.toFrame (w : Weaver) (fn : Nat) : Weaver :=
  if w.inFn = fn then w
  else { w with inFn := fn, before := if (w.inFn + 1) % 2 ^ 48 = fn then w.inputs else [], inputs := [] }

/-- An input channel written in an NT frame. -/
def Chip.putChannel (c : Chip) (fn ch b : Nat) : Chip :=
  c.modTsi fun w => let w := w.toFrame fn; { w with inputs := Map.set 0xFF w.inputs ch b }

/-- 32 bytes written to the input channels from `ch` on. -/
def Chip.putChannels (c : Chip) (fn ch : Nat) (bs : List Byte) : Chip :=
  (List.range 32).foldl (fun c k => c.putChannel fn (ch + k) (bs.getD k 0xFF).toNat) c

/-- An entry of a connection page. -/
def Weaver.entry (w : Weaver) (page ch : Nat) : Nat := Map.get 0 w.pages (4096 * page + ch)

/-- One bit of the generator of x^15 + x^14 + 1. -/
def prbsNext (r : Nat) : Nat := (2 * r + b2n (r.testBit 14 ^^ r.testBit 13)) % 2 ^ 15

/-- The generator's next byte and state (R259). -/
def prbsByte (r : Nat) : Nat × Nat := (List.range 8).foldl (fun a _ => let n := prbsNext a.2; (2 * a.1 + n % 2, n)) (0, r)

/-- The byte an input channel carried in the frame before. -/
def Weaver.carried (w : Weaver) (ch : Nat) : Nat :=
  if ch < 3584 then Map.get 0xFF w.before ch
  else if ch < 3840 then ch - 3584
  else (prbsByte w.prbs).1

/-- What an output channel sends (R260, R262). A host channel in quiet is not written: it is held as 256. -/
def Chip.outByte (c : Chip) (bad : Nat → Bool) (ch : Nat) : Nat :=
  let e := c.tsi.entry c.tsi.active ch
  if bad ch then 0xFF
  else match natBits e 30 2 with
    | 0 => if c.channelExists (natBits e 16 12) then c.tsi.carried (natBits e 16 12) else 0xFF
    | 1 => natBits e 0 8
    | 2 => 0xFF
    | _ => if 3072 ≤ ch && ch < 3584 then 256 else 0

/-- A PRBS monitor after one byte (R259), and the bit errors it counts. -/
def Monitor.prbs (m : Monitor) (b : Nat) : Monitor × Nat :=
  let r := (List.range 8).foldl (fun (a : Monitor × Nat) k =>
    let bit := b.testBit (7 - k)
    let want := a.1.reg.testBit 14 ^^ a.1.reg.testBit 13
    if a.1.matched < 16 then
      ({ a.1 with reg := (2 * a.1.reg + b2n bit) % 2 ^ 15, matched := if bit == want then a.1.matched + 1 else 0 }, a.2)
    else ({ a.1 with reg := (2 * a.1.reg + b2n want) % 2 ^ 15 }, a.2 + b2n (bit != want))) (m, 0)
  let run := if r.2 = 0 then 0 else r.1.badBytes + 1
  ({ r.1 with badBytes := if run = 8 then 0 else run, matched := if run = 8 then 0 else r.1.matched }, r.2)

/-- Errors that a monitor found enter its count; the first after a read sets MON_ERR (R259). -/
def Chip.monitorErrors (c : Chip) (k : Nat) (m : Monitor) (n : Nat) : Chip :=
  let c := c.modTsi fun w => { w with monitors := Map.set {} w.monitors k { m with count := min (2 ^ 32 - 1) (m.count + n), armed := m.armed && n == 0 } }
  if n != 0 && m.armed then c.raise TSI_ALARM_MON_ERR else c

/-- Monitor `k` checks the byte that its output channel sends. -/
def Chip.checkMonitor (c : Chip) (k : Nat) : Chip :=
  if natBits (c.tsi.entry c.tsi.active (3584 + k)) 30 2 = 3 then c
  else
    let b := Map.get 0xFF c.tsi.outputs (3584 + k)
    let m := Map.get {} c.tsi.monitors k
    if k < 256 then c.monitorErrors k m (b2n (b != k)) else let r := m.prbs b; c.monitorErrors k r.1 r.2

/-- The receive aligner puts one E1 frame into the input channels of an NT frame, repeating one when it is empty (R246). -/
def Chip.pullTrib (c : Chip) (fn n : Nat) : Chip :=
  let t := c.trib n
  if !c.tribOn n || c.tribMode n == 2 || c.tribDirect n || c.flag (TDM_STATUS_LOS n) || c.flag (TDM_STATUS_LOF n) || t.last = [] then c
  else match t.fifo with
    | f :: r => (c.setTrib n { t with fifo := r, last := f }).putChannels fn (32 * n) f
    | [] => ((c.count (N_TDM_SLIP_RX n)).raise (TDM_ALARM_RX_SLIP n)).putChannels fn (32 * n) t.last

/-- The host channels of an NT frame, read from the host's table during the frame before (R306). -/
def Chip.hostInputs (c : Chip) (fn : Nat) : Chip :=
  match c.host.tdmIn with
  | some (k, bs) => if k = fn then (List.range 16).foldl (fun c j => c.putChannels fn (3072 + 32 * j) (slice bs (32 * j) 32)) c else c
  | none => c

/-- The bytes the host output channels send in an NT frame, kept to be written to the host's table; a quiet channel has none. -/
def Chip.hostOutputs (c : Chip) (fn : Nat) : Chip :=
  let out := (List.range 512).map fun j =>
    let b := Map.get 0xFF c.tsi.outputs (3072 + j)
    if b < 256 then some (BitVec.ofNat 8 b) else none
  { c with host := { c.host with tdmOut := (fn, out) :: c.host.tdmOut.take 1 } }

/-- TSI_FRAME (R258 to R260, R262): every output channel sends per the active page, the monitors check, and the
aligners put their frames into the input channels. `ecc` names the channels whose entry was read with an ECC
error, and whether it could not be corrected. -/
def execTsiFrame (ecc : List (Nat × Bool)) (s : State) : Out := run s fun c =>
  let c := c.nextFrame 11
  if !c.isOn 44 then c else
  let fn := c.nt.fn
  let c := c.modTsi fun w => w.toFrame fn
  let fixed := ecc.filter fun e => !e.2
  let bad := fun ch => ecc.any fun e => e.2 && e.1 == ch
  let c := if (ecc.any fun e => e.2) then c.raise TSI_ALARM_ECC_UNC else c
  let c := c.count N_TSI_ECC_CORR fixed.length
  let missing := (List.range 4096).filter fun ch =>
    let e := c.tsi.entry c.tsi.active ch
    natBits e 30 2 == 0 && !bad ch && !c.channelExists (natBits e 16 12)
  let c := if missing = [] then c else (c.count N_TSI_BAD_SRC missing.length).raise TSI_ALARM_BAD_SRC
  let outs := (List.range 4096).filterMap fun ch => let b := c.outByte bad ch; if b = 0xFF then none else some (ch, b)
  let c := (c.modTsi fun w => { w with outputs := outs, prbs := (prbsByte w.prbs).2 }).hostOutputs fn
  let c := (List.range 512).foldl Chip.checkMonitor c
  ((List.range 32).foldl (fun c n => c.pullTrib fn n) c).hostInputs fn

/-- The page swap of R262: recorded by the configuration engine, and shown where PD44 is ON. -/
def Chip.pageSwap (c : Chip) (fn : Nat) : Chip :=
  let c := c.modTsi fun w => { w with active := 1 - w.active }
  if !c.isOn 44 then c
  else (((c.put TSI_STATUS_ACTIVE c.tsi.active).count N_TSI_SWAPS).setReg TSI_SWAP_FN (BitVec.ofNat 32 fn)).raise TSI_ALARM_SWAP

/-! ## Access to the connection memory (R261, R264) -/

/-- TSI_CM_ADDR as an access leaves it. -/
def Chip.cmAddr (c : Chip) (write : Bool) (table index err : Nat) : Chip :=
  c.setReg TSI_CM_ADDR (BitVec.ofNat 32 (2 ^ 30 + b2n write * 2 ^ 29 + table % 4 * 2 ^ 27 + err * 2 ^ 24 + index % 4096))

/-- An entry of the standby page replaced, with the configuration store's copy; a copy in progress bars it. -/
def Chip.takeStandby (c : Chip) (index v : Nat) : Chip × Nat :=
  if c.flag TSI_STATUS_COPY_BUSY then (c, 2)
  else
    let v := natBits v 30 2 * 2 ^ 30 + natBits v 16 12 * 2 ^ 16 + natBits v 0 8
    let k := 4096 * (1 - c.tsi.active) + index % 4096
    (c.modTsi fun w => { w with pages := if c.isOn 44 then Map.set 0 w.pages k v else w.pages, copy := Map.set 0 w.copy k v }, 0)

/-- A write of the standby page through the window. -/
def Chip.cmStandbyWrite (c : Chip) (index v : Nat) : Chip := let r := c.takeStandby index v; r.1.cmAddr true 0 index r.2

/-- A write aimed at the active page. -/
def Chip.cmActiveWrite (c : Chip) (index : Nat) : Chip :=
  ((c.raise TSI_ALARM_ACT_WR).count N_TSI_ACT_WR).cmAddr true 1 index 1

/-- A page entry read: table 0 the standby page, 1 the active page, 3 none. -/
def Chip.cmRead (c : Chip) (table index : Nat) : Chip :=
  if table = 0 then (c.setReg TSI_CM_DATA (BitVec.ofNat 32 (c.tsi.entry (1 - c.tsi.active) (index % 4096)))).cmAddr false 0 index 0
  else if table = 1 then (c.setReg TSI_CM_DATA (BitVec.ofNat 32 (c.tsi.entry c.tsi.active (index % 4096)))).cmAddr false 1 index 0
  else c.cmAddr false table index 3

/-- A monitor's count read, or cleared by a write (R259). -/
def Chip.cmMonitor (c : Chip) (write : Bool) (index : Nat) : Chip :=
  let k := index % 4096
  if k < 3584 then c.cmAddr write 2 k 3
  else
    let m : Monitor := Map.get {} c.tsi.monitors (k - 3584)
    let c := if write then c else c.setReg TSI_CM_DATA (BitVec.ofNat 32 m.count)
    (c.modTsi fun w => { w with monitors := Map.set {} w.monitors (k - 3584) { m with count := if write then 0 else m.count, armed := true } }).cmAddr write 2 k 0

/-- A copy of the active page over the standby page starts (R261). -/
def Chip.cmCopy (c : Chip) : Chip := if c.flag TSI_STATUS_COPY_BUSY then c else (c.raise TSI_STATUS_COPY_BUSY).start .cmCopy 4096

/-- One page of a table replaced by the other. -/
def copyPage (m : Map Nat) (dst : Nat) : Map Nat :=
  (List.range 4096).foldl (fun n ch => Map.set 0 n (4096 * dst + ch) (Map.get 0 m (4096 * (1 - dst) + ch))) m

/-- CM_COPY_DONE (R261): the copy ends, and COPY_BUSY falls. -/
def execCmCopyDone (s : State) : Out := run s fun c =>
  c.expire .cmCopy fun c =>
    let dst := 1 - c.tsi.active
    let pages := copyPage c.tsi.pages dst
    (c.modTsi fun w => { w with pages := pages, copy := pages }).lower TSI_STATUS_COPY_BUSY

end Sys2Proof.Machine
end

