-- ==== Sys2Proof/Machine/Containers.lean ====
section
/-! DEFINITION. The container unit: pointer interpretation, delivery, the selection of pairs and the containers built
upstream (spec/10_tributaries_and_tsi.md, R247 to R255; spec/05_two_ended_attachment.md, R132 to R134). -/

namespace Sys2Proof.Machine
open Sys2Proof

/-! ## Pointer interpretation -/

/-- How a received pointer word reads against the current pointer (R249). -/
inductive PtrWord where
  | ais | normal | increment | decrement | newValue (v : Nat) | invalid
  deriving DecidableEq, Repr

/-- The reading of R249; an adjustment within 3 frames of the last one is invalid. -/
def readPointer (p w since : Nat) : PtrWord :=
  let v := w % 1024
  let d := v ^^^ p
  let i := popcount 10 (d &&& 0x2AA)
  let k := popcount 10 (d &&& 0x155)
  if w = 0xFFFF then .ais
  else if w / 1024 ≠ 26 then .invalid
  else if d = 0 then .normal
  else if 3 ≤ i && k ≤ 2 then (if since < 3 then .invalid else .increment)
  else if 3 ≤ k && i ≤ 2 then (if since < 3 then .invalid else .decrement)
  else if v ≤ 31 then .newValue v
  else .invalid

/-- What the interpreter gets of a slot in one frame (R248, R249). -/
inductive ContainerRx where
  | good (bytes : List Byte)
  | errored (bytes : List Byte)
  | absent
  deriving DecidableEq, Repr

/-- A downstream slot's state, with the maps that follow it while the slot is valid (R250). -/
def Chip.setSlotState (c : Chip) (s st : Nat) : Chip :=
  let c := c.put (TCM_DS_STAT_STATE s) st
  let valid := c.flag (TCM_DS_SLOT_VALID s)
  let c := if st = 1 && valid then c.raiseBit (TCM_LOP_MAP_MAP (s / 32)) (s % 32) else c.lowerBit (TCM_LOP_MAP_MAP (s / 32)) (s % 32)
  if st = 2 && valid then c.raiseBit (TCM_AIS_MAP_MAP (s / 32)) (s % 32) else c.lowerBit (TCM_AIS_MAP_MAP (s / 32)) (s % 32)

/-- A downstream slot starts in LOP (R250): at a wake of PD44 and at a commit that writes it. -/
def Chip.restartSlot (c : Chip) (s : Nat) : Chip :=
  let r := c.slot s
  (c.setSlot s { rdiNext := r.rdiNext, bip := r.bip }).setSlotState s 1

/-- 32 bytes of 0xFF. -/
def ones32 : List Byte := fill 32 0xFF

/-- The fields of byte 2 of a container that came well are recorded (R250, R252). -/
def Chip.recordContainer (c : Chip) (s : Nat) (bytes : List Byte) : Chip :=
  let b := byteAt bytes 2
  let c := if b / 128 = 1 && !c.flag (TCM_DS_STAT_RX_RDI s) then c.raise TCM_ALARM_RX_RDI else c
  let c := (c.put (TCM_DS_STAT_RX_RDI s) (b / 128)).put (TCM_DS_STAT_RX_REI s) (b / 8 % 16)
  let c := ((c.put (TCM_DS_STAT_RX_AISIN s) (b / 4)).put (TCM_DS_STAT_RX_MODE s) b).count (N_TCM_REI s) (b / 8 % 16)
  let want := bytes.foldl (fun a k => a ^^^ k.toNat) 0
  let r := c.slot s
  match r.parity with
  | some p =>
    let n := popcount 8 (p ^^^ byteAt bytes 37)
    let c := c.setSlot s { r with parity := some want, rei := n }
    if n = 0 then c else (c.count (N_TCM_BIP_ERR s) n).raise TCM_ALARM_BIP
  | none => c.setSlot s { r with parity := some want, rei := 0 }

/-- The tributaries that take a downstream slot directly now (R256): by their own naming, or through the pair whose
selected side the slot is. -/
def Chip.directTakers (c : Chip) (s : Nat) : List Nat :=
  (List.range 32).filter fun n =>
    c.tribOn n && c.flag (TDM_CFG_TX_SRC n) &&
    (let named := slotOf (lineOf (c.f (TDM_CFG_DIR_LINE n))) (c.f (TDM_CFG_DIR_SLOT n))
     match (List.range 32).find? fun k => c.flag (TWE_SEL_VALID k) && slotOf .a (c.f (TWE_SEL_SLOT_A k)) == named with
     | some k => s == (if c.flag (TWE_SEL_STATUS_SEL k) then slotOf .b (c.f (TWE_SEL_SLOT_B k)) else named)
     | none => s == named)

/-- Bytes enter the transmit store of a direct tributary (R257). An E1 frame in flight stands beside the 64 bytes of the
store; the store starts at its centre and is re-centred when it overflows. -/
def Chip.feedTrib (c : Chip) (n : Nat) (bs : List Byte) : Chip :=
  let t := c.trib n
  let tx := (if t.tx = [] then ones32 else t.tx) ++ bs
  let c := if 96 < tx.length then (c.count (N_TDM_SLIP_TX n)).raise (TDM_ALARM_TX_SLIP n) else c
  c.setTrib n { t with tx := if 96 < tx.length then tx.drop 32 else tx }

/-- The tributary bytes of a frame pass the slot aligner (R251): the output of the frame is none where the slot
starts afresh and has no whole E1 frame yet. -/
def Chip.alignSlot (c : Chip) (s : Nat) (fresh : Bool) (bytes : List Byte) : Chip × List Byte :=
  let r := c.slot s
  let store := (if fresh then [] else r.align) ++ bytes
  if fresh then
    if store.length < 32 then (c.setSlot s { r with align := store, out := ones32 }, ones32)
    else (c.setSlot s { r with align := store.drop 32, out := store.take 32 }, store.take 32)
  else if store.length < 32 then
    (((c.setSlot s { r with align := store }).count (N_TCM_DS_SLIP s)).raise TCM_ALARM_DS_SLIP, r.out)
  else
    let crowded := decide (64 < store.length)
    let c := if crowded then (c.count (N_TCM_DS_SLIP s)).raise TCM_ALARM_DS_SLIP else c
    let rest := if crowded then store.drop 32 else store
    (c.setSlot s { r with align := rest.drop 32, out := rest.take 32 }, rest.take 32)

/-- Table 10.2 for one slot and one word: the next state, and how the bytes of the frame are taken. -/
structure PtrStep where
  slot : SlotRx
  state : Nat
  p : Nat
  from_ : Nat := 4
  fresh : Bool := false
  take : Bool := true
  inc : Bool := false
  dec : Bool := false
  newPtr : Bool := false
  bad : Bool := false
  deriving DecidableEq, Repr

/-- The runs of an interpreter cleared. -/
def SlotRx.clearRuns (r : SlotRx) : SlotRx := { r with inv := 0, ais := 0, newRun := 0, sameRun := 0 }

/-- The invalid run of a slot in NORM or AIS: at 8 it goes to LOP (Table 10.2). -/
def SlotRx.invalidRun (r : SlotRx) (state p : Nat) (take : Bool) : PtrStep :=
  if r.inv + 1 = 8 then { slot := { r.clearRuns with out := [], align := [] }, state := 1, p := p, take := false, bad := true }
  else { slot := { r with inv := r.inv + 1 }, state := state, p := p, take := take, bad := true }

/-- One word in NORM (Table 10.2). -/
def SlotRx.stepNorm (r : SlotRx) (p : Nat) (w : PtrWord) : PtrStep :=
  let r' := { r with ais := 0 }
  match w with
  | .normal => { slot := r.clearRuns, state := 0, p := p }
  | .increment => { slot := { r.clearRuns with sinceAdj := 0 }, state := 0, p := (p + 1) % 32, from_ := 5, inc := true }
  | .decrement => { slot := { r.clearRuns with sinceAdj := 0 }, state := 0, p := (p + 31) % 32, from_ := 3, dec := true }
  | .newValue v =>
    if 2 ≤ r.newRun && r.newVal = v then { slot := r.clearRuns, state := 0, p := v, fresh := true, newPtr := true }
    else { r'.invalidRun 0 p true with slot := { (r'.invalidRun 0 p true).slot with newVal := v, newRun := if r.newRun = 0 || r.newVal ≠ v then 1 else r.newRun + 1 } }
  | .ais =>
    if r.ais + 1 = 3 then { slot := { r.clearRuns with out := [], align := [] }, state := 2, p := p, take := false }
    else { slot := { r with ais := r.ais + 1 }, state := 0, p := p }
  | .invalid => r'.invalidRun 0 p true

/-- One word in LOP (1) or AIS (2) (Table 10.2). -/
def SlotRx.stepLost (r : SlotRx) (state p : Nat) (w : PtrWord) : PtrStep :=
  let value : Option Nat := match w with
    | .normal => some p
    | .newValue v => some v
    | _ => none
  match w, value with
  | .ais, _ =>
    if r.ais + 1 = 3 then { slot := { r.clearRuns with sameRun := 0 }, state := 2, p := p, take := false }
    else { slot := { r with ais := r.ais + 1, sameRun := 0 }, state := state, p := p, take := false }
  | _, some v =>
    let n := if r.sameRun = 0 || r.sameVal ≠ v then 1 else r.sameRun + 1
    if n = 3 then { slot := { r.clearRuns with out := [], align := [] }, state := 0, p := v, take := false }
    else { slot := { r with ais := 0, inv := 0, sameVal := v, sameRun := n }, state := state, p := p, take := false }
  | .invalid, none =>
    let r' := { r with ais := 0, sameRun := 0 }
    if state = 2 then r'.invalidRun 2 p false else { slot := r', state := 1, p := p, take := false, bad := true }
  | _, none => { slot := { r with ais := 0, sameRun := 0 }, state := state, p := p, take := false }

/-- One frame of a downstream slot interpreted (R249 to R252): state, counters, alarms, and the output kept for its
delivery. -/
def Chip.interpret (c : Chip) (s fn : Nat) (k : ContainerRx) : Chip :=
  let c := match k with
    | .good b => c.recordContainer s b
    | _ => c.setSlot s { c.slot s with parity := none, rei := 0 }
  let r := c.slot s
  let p := c.f (TCM_DS_STAT_P s)
  let was := c.f (TCM_DS_STAT_STATE s)
  let w := match k with
    | .good b => readPointer p (beAt b 0 2) r.sinceAdj
    | _ => .invalid
  let r := { r with sinceAdj := min 3 (r.sinceAdj + 1), seen := some fn }
  let t := if was = 0 then r.stepNorm p w else r.stepLost was p w
  let fresh := t.fresh || (was == 0 && r.out == [])
  let c := (c.setSlot s t.slot).put (TCM_DS_STAT_P s) t.p
  let c := if t.inc then c.count (N_TCM_INC s) else c
  let c := if t.dec then c.count (N_TCM_DEC s) else c
  let c := if t.newPtr then (c.count (N_TCM_NEW_PTR s)).raise TCM_ALARM_NEW_PTR else c
  let c := if t.bad then c.count (N_TCM_INV_PTR s) else c
  let c := if t.state = was then c
    else
      let c := c.setSlotState s t.state
      if t.state = 1 then c.raise TCM_ALARM_LOP else if t.state = 2 then c.raise TCM_ALARM_AIS else c
  let gone := k == .absent
  let raw : List Byte := match k with
    | .good b => slice b t.from_ (36 - t.from_)
    | .errored b => slice b 4 32
    | .absent => ones32
  let raw := if t.take then raw else ones32
  let c := (c.directTakers s).foldl (fun c n => c.feedTrib n raw) c
  let a := if t.take then c.alignSlot s fresh (if fresh then raw.drop (4 + (if t.inc || t.dec then p else t.p) - t.from_) else raw) else (c, ones32)
  let bad := match k with
    | .good _ => false
    | _ => true
  let r := a.1.slot s
  a.1.setSlot s { r with frames := r.frames.drop (r.frames.length - 19) ++ [(fn, if gone then none else some a.2, bad)] }

/-- Whether a frame of a slot was interpreted already, or given up as late. -/
def SlotRx.done (r : SlotRx) (fn : Nat) : Bool := r.seen.any fun n => decide (fn ≤ n)

/-- The containers of a frame pass to the downstream slots of their line (R75, R248). `get` gives a container of the area
and whether any byte of it is errored. -/
def Chip.containersRx (c : Chip) (x : Line) (fn count : Nat) (get : Nat → List Byte × Bool) : Chip :=
  if !c.isOn 44 then c else
  (List.range 32).foldl (fun c n =>
    let s := slotOf x n
    if !c.flag (TCM_DS_SLOT_VALID s) || (c.slot s).done fn then c
    else
      let k := c.f (TCM_DS_SLOT_CONT s)
      if count ≤ k then c.interpret s fn .absent
      else let g := get k; c.interpret s fn (if g.2 then .errored g.1 else .good g.1)) c

/-- A frame without a usable header delivers its containers errored (R60); where they lie is not known. -/
def Chip.containersErrored (c : Chip) (x : Line) (fn : Nat) : Chip :=
  if !c.isOn 44 then c else
  (List.range 32).foldl (fun c n =>
    let s := slotOf x n
    if !c.flag (TCM_DS_SLOT_VALID s) || (c.slot s).done fn then c else c.interpret s fn (.errored ones32)) c

/-! ## Delivery and selection -/

/-- A delivery delay held between 1 and 17 frames. -/
def delayOf (d : Nat) : Nat := max 1 (min 17 d)

/-- The delivery delay of a line (R251). -/
def Chip.deliveryDelay (c : Chip) (x : Line) : Nat :=
  delayOf (match x with
    | .a => c.f TCM_CFG_DLY_A
    | .b => c.f TCM_CFG_DLY_B)

/-- The valid pair whose A side a slot is. -/
def Chip.pairOfA (c : Chip) (s : Nat) : Option Nat :=
  (List.range 32).find? fun k => c.flag (TWE_SEL_VALID k) && slotOf .a (c.f (TWE_SEL_SLOT_A k)) == s

/-- The output of a slot for the container of FN n, with whether that container came badly; a container that is not there by
its instant is late, or absent where its line is lost (R251, R255). -/
def Chip.takeOutput (c : Chip) (s fn : Nat) : Chip × List Byte × Bool × Bool :=
  let x := lineOf (s / 32)
  match (c.slot s).frames.find? fun e => e.1 == fn with
  | some (_, out, bad) => (c, out.getD ones32, bad, false)
  | none =>
    if (c.slot s).done fn then (c, ones32, true, false)
    else
      let late := !c.lineLost x
      let c := if late then (c.count (N_TCM_LATE s)).raise TCM_ALARM_LATE else c
      (c.interpret s fn .absent, ones32, true, late)

/-- The selection of a pair set to its preferred side without a count (Table 5.4). -/
def Chip.resetPair (c : Chip) (k : Nat) : Chip := c.put (TWE_SEL_STATUS_SEL k) (c.pairPref k).idx

/-- SEL_SWITCH (R133): the wait of a pair has ended, and the pair switches side at the next output instant. -/
def execSelSwitch (k : Nat) (s : State) : Out := run s fun c =>
  let key : TimerKey := if c.running (.selHold k) then .selHold k else .selWtr k
  c.expire key fun c =>
    let c := if c.nt.cif = 0 then c else c.elapse (frameCcy - c.nt.cif)
    ((c.put (TWE_SEL_STATUS_SEL k) (c.selected k).other.idx).count N_TWE_SEL_SWITCH).raise TWE_ALARM_SEL_SWITCH

/-- One side of a pair at its output instant: its output, with a late container counted (R132). -/
def Chip.pairSide (c : Chip) (k : Nat) (x : Line) (fn : Nat) : Chip × List Byte :=
  let s := slotOf x (match x with
    | .a => c.f (TWE_SEL_SLOT_A k)
    | .b => c.f (TWE_SEL_SLOT_B k))
  let t := c.takeOutput s fn
  let c := if t.2.2.2 then (t.1.count N_TWE_SEL_LATE).raise TWE_ALARM_SEL_LATE else t.1
  let bad := t.2.2.1
  let set := fun (m : Nat) => natPut m k 1 (b2n bad)
  ({ c with twoEnded := match x with
      | .a => { c.twoEnded with lateA := set c.twoEnded.lateA }
      | .b => { c.twoEnded with lateB := set c.twoEnded.lateB } }, t.2.1)

/-- Every valid pair at the output instant of one NT frame (R132). -/
def Chip.deliverPairs (c : Chip) (fn : Nat) : Chip :=
  if !c.isOn 7 then c else
  let d := delayOf (c.f TWE_CFG_SEL_DLY)
  (List.range 32).foldl (fun c k =>
    if !c.flag (TWE_SEL_VALID k) then c
    else
      let n := (fn + 2 ^ 48 - d) % 2 ^ 48
      let a := c.pairSide k .a n
      let b := a.1.pairSide k .b n
      b.1.putChannels fn (1024 + 32 * b.1.f (TWE_SEL_SLOT_A k)) (if b.1.selected k = .a then a.2 else b.2)) c

/-- CONTAINER_DELIVERY (R251, R132): at CIF 0 of NT frame n + DLY, or n + SEL_DLY for the A side of a pair, every valid
slot's payload of FN n enters its input channels. -/
def execContainerDelivery (s : State) : Out := run s fun c =>
  let c := c.nextFrame 10
  let fn := c.nt.fn
  if !c.isOn 44 then c else
  let c := (List.range 64).foldl (fun c k =>
    if !c.flag (TCM_DS_SLOT_VALID k) || (c.isOn 7 && (c.pairOfA k).isSome) then c
    else
      let t := c.takeOutput k ((fn + 2 ^ 48 - c.deliveryDelay (lineOf (k / 32))) % 2 ^ 48)
      t.1.putChannels fn (1024 + 32 * k) t.2.1) c
  (c.deliverPairs fn).modTsi fun w => w.toFrame fn

/-! ## Upstream containers -/

/-- The direct mapper's step of one frame for a tributary (R254): the bytes taken, the pointer word, and whether an adjustment
was signalled. -/
def Chip.mapTrib (c : Chip) (n : Nat) : Chip × List Byte × Nat × Bool :=
  let t := c.trib n
  let free := decide (3 ≤ t.adj)
  let dec := free && decide (65 < t.store.length)
  let inc := free && decide (t.store.length < 63) && !dec
  let k := if dec then 33 else if inc then 31 else 32
  let p := t.head % 32
  let word := 26 * 1024 + (if inc then p ^^^ 0x2AA else if dec then p ^^^ 0x155 else p)
  let gap := c.free
  let c := if t.store.length < k then gap.1 else c
  let bytes := t.store.take k ++ fill (k - t.store.length) gap.2
  let head := (p + (if dec then 31 else if inc then 1 else 0)) % 32
  (c.setTrib n { t with store := t.store.drop k, head := head, adj := if dec || inc then 0 else min 3 (t.adj + 1) }, bytes, word, dec || inc)

/-- The container of an upstream slot before BIP8 and its header byte (Table 10.1). -/
def containerBytes (word hdr : Nat) (data : List Byte) (bip : Nat) : List Byte :=
  let body := match data.length with
    | 33 => data
    | 31 => [0, 0] ++ data
    | _ => [0] ++ data
  beBytes 2 word ++ beBytes 1 hdr ++ slice body 0 33 ++ [0] ++ beBytes 1 bip ++ [0, 0]

/-- One upstream slot built for an NT frame (R253). `direct` gives what the mapper of a tributary took. -/
def Chip.buildSlot (c : Chip) (fn s : Nat) (direct : Nat → List Byte × Nat × Bool) : Chip :=
  let trib := c.f (TCM_US_SLOT_TRIB s)
  let src := c.flag (TCM_US_SLOT_SRC s)
  let r := c.slot s
  let rei := if c.flag (TCM_DS_SLOT_VALID s) then r.rei else 0
  let hdr := b2n r.rdiNext * 128 + rei * 8 + b2n (c.flag (TDM_STATUS_AIS trib)) * 4 + c.tribMode trib
  let d := direct trib
  let bytes :=
    if src then
      if c.flag (TDM_STATUS_LOS trib) || (c.tribMode trib != 2 && c.flag (TDM_STATUS_LOF trib)) then fill 40 0xFF
      else containerBytes d.2.1 hdr d.1 r.bip
    else
      let ch := 1024 + 32 * s
      containerBytes (26 * 1024) hdr ((List.range 32).map fun k => BitVec.ofNat 8 (Map.get 0xFF c.tsi.outputs (ch + k))) r.bip
  let c := if src && d.2.2 then c.count (N_TCM_US_ADJ s) else c
  let lost := c.flag (TCM_DS_SLOT_VALID s) && c.f (TCM_DS_STAT_STATE s) != 0
  let c := c.setSlot s { c.slot s with bip := bytes.foldl (fun a k => a ^^^ k.toNat) 0, rdiNext := lost }
  c.modTsi fun w => { w with built := w.built ++ [(fn, s, bytes)] }

/-- US_CONTAINER_BUILD (R134, R253, R254): every mapped upstream slot is built once each NT frame. -/
def execUsContainerBuild (s : State) : Out := run s fun c =>
  let c := c.nextFrame 12
  if !c.isOn 44 then c else
  let fn := c.nt.fn
  let used := (List.range 32).filter fun n => c.tribDirect n
  let m := used.foldl (fun (a : Chip × List (Nat × List Byte × Nat × Bool)) n =>
    let r := a.1.mapTrib n; (r.1, a.2 ++ [(n, r.2)])) (c, [])
  let direct := fun n => match m.2.find? fun e => e.1 == n with
    | some e => e.2
    | none => ([], 26 * 1024, false)
  let c := m.1.modTsi fun w => { w with built := w.built.filter fun e => decide (fn ≤ e.1 + 32) }
  (List.range 64).foldl (fun c s => if c.flag (TCM_US_SLOT_VALID s) then c.buildSlot fn s direct else c) c

/-- The upstream containers of a line built for a frame, by ascending slot (R86). -/
def Chip.builtFor (c : Chip) (x : Line) (fn : Nat) : List (List Byte) :=
  (c.tsi.built.filter fun e => e.1 == fn && e.2.1 / 32 == x.idx).map fun e => e.2.2

/-- How many upstream containers a line has mapped. -/
def Chip.mappedSlots (c : Chip) (x : Line) : Nat := ((List.range 32).filter fun n => c.flag (TCM_US_SLOT_VALID (slotOf x n))).length

/-- CDS of the burst header (R84). -/
def Chip.containerDefects (c : Chip) (x : Line) : Nat :=
  let ds := (List.range 32).filter fun n => c.flag (TCM_DS_SLOT_VALID (slotOf x n))
  let trs := ((List.range 32).filter fun n => c.flag (TCM_US_SLOT_VALID (slotOf x n))).map fun n => c.f (TCM_US_SLOT_TRIB (slotOf x n))
  let st := fun n => c.f (TCM_DS_STAT_STATE (slotOf x n))
  8 * b2n (ds.any fun n => st n == 1) + 4 * b2n (ds.any fun n => st n == 2) +
    2 * b2n (trs.any fun n => c.flag (TDM_STATUS_LOS n) || c.flag (TDM_STATUS_LOF n)) + b2n (trs.any fun n => c.flag (TDM_STATUS_AIS n))

end Sys2Proof.Machine
end

