-- ==== Sys2Proof/Machine/Tally.lean ====
section
/-! DEFINITION. The Tallyman: snapshots, freezes, overflows, samples and the bandwidth monitor
(spec/14_registers_and_counters.md, R359 to R367). -/

namespace Sys2Proof.Machine
open Sys2Proof

/-- The power domain of a register, by its address; 0 where the address holds none. -/
def addrDom (a : Nat) : Nat :=
  match findReg a with
  | some (r, is) => r.dom.of is
  | none => 0

/-- A snapshot (R363): every counter of a domain that is ON is copied; the copies of other domains read 0. -/
def Chip.snapshot (c : Chip) : Chip :=
  if !c.isOn 48 then c else
  let on := (List.range 50).map c.isOn
  let valid := fun lo n => BitVec.ofNat 32 ((List.range n).foldl (fun v k => if on.getD (lo + k) false then v + 2 ^ k else v) 0)
  let c := { c with copies := c.counters.filter fun e => on.getD (addrDom e.1) false }
  let c := ((c.setReg (TAL_SNAP_VALID 0) (valid 0 32)).setReg (TAL_SNAP_VALID 1) (valid 32 18)).setPair TAL_SNAP_FN_LO c.nt.fn
  ((c.setReg TAL_SNAP_CIF (BitVec.ofNat 32 c.nt.cif)).count N_TAL_SNAPS).raise TAL_ALARM_SNAP

/-- A freeze (R362). -/
def Chip.freeze (c : Chip) : Chip :=
  if !c.isOn 48 then c else (({ c with tal := { c.tal with frozen := true } }).raise TAL_STATUS_FROZEN).count N_TAL_FREEZES

/-- A release (R362). -/
def Chip.releaseCounters (c : Chip) : Chip :=
  if !c.isOn 48 then c else ({ c with tal := { c.tal with frozen := false } }).lower TAL_STATUS_FROZEN

/-- TAL_CTRL as written: snapshot first, then the freeze or release (R363). -/
def Chip.talControl (c : Chip) (w : Word) : Chip :=
  let c := if wordBits w 0 1 = 1 then c.snapshot else c
  let c := if wordBits w 1 1 = 1 then c.freeze else c
  if wordBits w 2 1 = 1 then c.releaseCounters else c

/-- COUNTER_OVERFLOW (R361, R364): counter `k` of group `g` takes `n` pulses of a ccy that carry it out of bit 63. -/
def execCounterOverflow (g k n : Nat) (attr : Option PacketAttr) (s : State) : Out := run s fun c =>
  let w := c.reg (TAL_G_CTL g k)
  let amt := talAmount (wordBits w 24 3) (c.f (TAL_G_THR_THR g k)) n
  if wordBits w 31 1 = 1 && !c.tal.frozen && c.isOn 48 && decide (2 ^ 64 ≤ (c.ctr (TAL_G_CNT_LO g k)).toNat + amt) then c.talCount g k n attr
  else c

/-- The oldest sample record removed for a master (R364): the value of TAL_SMP_W0. -/
def Chip.takeSample (c : Chip) (m : Nat) : Chip × Word :=
  match c.tal.samples with
  | [] => ({ c with tal := { c.tal with latched := Map.set {} c.tal.latched m {} } }, 0)
  | r :: rest =>
    let c := { c with tal := { c.tal with samples := rest, latched := Map.set {} c.tal.latched m r } }
    (c.put TAL_STATUS_SMP_COUNT rest.length, r.w0)

/-- The length of a bandwidth window in frames (R366). -/
def Chip.bwFrames (c : Chip) : Nat := max 1 (min 8000 (c.f TAL_BW_CFG_WIN))

/-- A bandwidth window begins. -/
def Chip.bwBegin (c : Chip) : Chip := { c with tal := { c.tal with bwRun := true, bwBytes := [], bwFrames := [] } }

/-- A bandwidth window in progress ends without results. -/
def Chip.bwDiscard (c : Chip) : Chip := { c with tal := { c.tal with bwRun := false, bwBytes := [], bwFrames := [] } }

/-- The results of one scheduler port (R366). -/
def Chip.bwResult (c : Chip) (p : Nat) : Chip :=
  let c := c.setReg (TAL_BW_RATE p) (BitVec.ofNat 32 (Map.get 0 c.tal.bwBytes p * 64 / c.bwFrames % 2 ^ 27))
  c.setReg (TAL_BW_FRAMES p) (BitVec.ofNat 32 (min (2 ^ 32 - 1) (Map.get 0 c.tal.bwFrames p)))

/-- BW_WINDOW_END (R366): at CIF 0 of the next FN that is a multiple of WIN, the results of the window in progress are
written, and the next one begins. -/
def execBwWindowEnd (s : State) : Out := run s fun c =>
  if !c.flag TAL_BW_CFG_EN || !c.isOn 48 then c
  else
    let win := c.bwFrames
    let c := c.toInstant { fn := (c.nt.fn / win + 1) * win, cif := 0 }
    if c.tal.bwRun then
      let c := (List.range 152).foldl Chip.bwResult c
      ((c.setReg TAL_BW_SEQ (c.reg TAL_BW_SEQ + 1)).raise TAL_ALARM_BW_WIN).bwBegin
    else c.bwBegin

/-- What a wake of PD48 leaves of the Tallyman (R367). -/
def Chip.talWake (c : Chip) : Chip := { c with tal := {}, copies := [] }

end Sys2Proof.Machine
end

