-- ==== Sys2Proof/Machine/TwoEnded.lean ====
section
/-! DEFINITION. The two-ended merge: active line, duplicate elimination and the ageing of references
(spec/05_two_ended_attachment.md, R116 to R127). -/

namespace Sys2Proof.Machine
open Sys2Proof

/-- The chip with the merge's state changed. -/
def Chip.modMerge (c : Chip) (g : TwoEnded → TwoEnded) : Chip := { c with twoEnded := g c.twoEnded }

/-- The active line changes (Table 5.3). -/
def Chip.setActive (c : Chip) (x : Line) : Chip :=
  ((c.put TWE_STATUS_ACT_LINE x.idx).count N_TWE_ACT_SWITCH).raise TWE_ALARM_ACT_SWITCH

/-- ACTIVE_LINE_SWITCH (R118, Table 5.3): at the next CIF 0 the active line changes to the fit line, to a newly
preferred one, or back after its wait. -/
def execActiveLineSwitch (s : State) : Out := run s fun c =>
  let c := c.nextFrame 8
  let x := c.activeLine
  let pref := c.preferred
  let m := c.twoEnded
  let c := c.modMerge fun m => { m with revertDue := false, prefDue := false }
  if !c.isOn 7 || c.mode = 0 then c
  else if !c.fit x && c.fit x.other then c.setActive x.other
  else if (m.prefDue || m.revertDue) && x != pref && c.fit pref then c.setActive pref
  else c

/-- ACT_WTR_EXPIRY (R118): the preferred line has been fit for WTR seconds, and a revert is due at the next CIF 0. -/
def execActWtrExpiry (s : State) : Out := run s fun c =>
  c.expire .actWtr fun c => c.modMerge fun m => { m with revertDue := true }

/-! ## Duplicate elimination -/

/-- The distance from one 24-bit sequence to another. -/
def seqDist (a b : Nat) : Nat := (b + 2 ^ 24 - a % 2 ^ 24) % 2 ^ 24

/-- Whether a sequence lies in a gap. -/
def Gap.holds (g : Gap) (s : Nat) : Bool := decide (seqDist g.first s < g.span)

/-- A gap without one of its sequences: nothing, one gap or two (R120). -/
def Gap.without (g : Gap) (s : Nat) : List Gap :=
  let d := seqDist g.first s
  [{ g with span := d }, { first := (s + 1) % 2 ^ 24, span := g.span - d - 1, opened := g.opened }].filter fun k => k.span != 0

/-- The gaps without the oldest, which is the first of those that opened earliest (R121). -/
def dropOldest (gs : List Gap) : List Gap :=
  let t := gs.foldl (fun m g => min m g.opened) (gs.headD ⟨0, 0, 0⟩).opened
  match gs.find? fun g => g.opened == t with
  | some g => gs.erase g
  | none => gs

/-- What the merge makes of one packet: whether it is accepted, the flow's new state, and what is counted (R120, R121). -/
structure MergeVerdict where
  accept : Bool
  flow : MergeFlow
  resync : Bool := false
  fill : Bool := false
  overflow : Bool := false
  deriving DecidableEq, Repr

/-- The judgement of sequence `s` of a flow (R120, R121). -/
def mergeJudge (m : MergeFlow) (s now : Nat) : MergeVerdict :=
  let d := seqDist m.h s
  if !m.seen then { accept := true, flow := { m with h := s, seen := true, last := now }, resync := true }
  else if 1 ≤ d && d ≤ 2 ^ 23 - 1 then
    let gs := if 1 < d then m.gaps ++ [{ first := (m.h + 1) % 2 ^ 24, span := d - 1, opened := now }] else m.gaps
    let crowded := decide (4 < gs.length)
    { accept := true, flow := { m with h := s, gaps := if crowded then dropOldest gs else gs, last := now }, overflow := crowded }
  else if m.gaps.any fun g => g.holds s then
    let gs := m.gaps.flatMap fun g => if g.holds s then g.without s else [g]
    let crowded := decide (4 < gs.length)
    { accept := true, flow := { m with gaps := if crowded then dropOldest gs else gs, last := now }, fill := true, overflow := crowded }
  else { accept := false, flow := m }

/-- A packet accepted by the merge goes on to the classifier (R120, R149). -/
def Chip.toClassifier (c : Chip) (p : MergePkt) : Chip :=
  { c with sorter := { c.sorter with input := c.sorter.input ++
    [{ ingress := 24 + p.line.idx, tag := p.cls, bytes := p.bytes, banks := p.banks, express := p.express }] } }

/-- The downstream line mode of a flow (R117). -/
def Chip.flowMode (c : Chip) (f : Nat) : Nat := natBits (c.tab 0 f) 26 2

/-- The packet that the merge judges next: the first to arrive, line A's first in one ccy (R123). -/
def nextMerge (ps : List MergePkt) : Option MergePkt :=
  match ps with
  | [] => none
  | p :: _ =>
    if p.line = .b then
      match ps.find? fun q => q.line == .a && q.flow == p.flow && q.arrived == p.arrived with
      | some q => some q
      | none => some p
    else some p

/-- MERGE_PACKET (R117, R120, R121, R123): the next complete packet is accepted or discarded. -/
def execMergePacket (s : State) : Out := run s fun c =>
  if !c.isOn 7 then c else
  match nextMerge c.twoEnded.waiting with
  | none => c
  | some p =>
    let c := c.modMerge fun m => { m with waiting := m.waiting.erase p }
    let lm := c.flowMode p.flow
    if lm = 1 || lm = 2 then
      if p.line.idx + 1 = lm then c.toClassifier p else (c.giveTransit p.banks).count N_TWE_WRONG_LINE
    else
      let v := mergeJudge (Map.get {} c.twoEnded.flows p.flow) p.seq c.now
      let c := c.modMerge fun m => { m with flows := Map.set {} m.flows p.flow v.flow }
      let c := if v.resync then c.count N_TWE_FLOW_RESYNC else c
      let c := if v.fill then c.count N_TWE_GAP_FILL else c
      let c := if v.overflow then (c.count N_TWE_GAP_OVF).raise TWE_ALARM_GAP_OVF else c
      if v.accept then c.toClassifier p else (c.giveTransit p.banks).count (N_TWE_DUP_DISC_A + 8 * p.line.idx)

/-- TWE_FLOW_ADDR.GO (R120): a flow's merge state enters TWE_FLOW_STATE. -/
def Chip.readMergeState (c : Chip) (flow : Nat) : Chip :=
  let m := Map.get {} c.twoEnded.flows (flow % 4096)
  let c := (c.put TWE_FLOW_ADDR_FLOW flow).raise TWE_FLOW_ADDR_DONE
  c.setReg TWE_FLOW_STATE (BitVec.ofNat 32 (b2n m.seen * 2 ^ 31 + m.gaps.length * 2 ^ 24 + m.h))

/-- GAP_EXPIRY (R121): 2 ms after it opened, a flow's oldest gap closes, with every other that is as old. -/
def execGapExpiry (flow : Nat) (s : State) : Out := run s fun c =>
  let m := Map.get {} c.twoEnded.flows flow
  match m.gaps with
  | [] => c
  | g :: r =>
    let t := r.foldl (fun a k => min a k.opened) g.opened
    let c := c.elapse (t + 3000000 - c.now)
    let old := m.gaps.filter fun k => decide (k.opened + 3000000 ≤ c.now)
    let c := c.modMerge fun e => { e with flows := Map.set {} e.flows flow { m with gaps := m.gaps.filter fun k => !old.contains k } }
    (c.count N_TWE_GAP_EXP old.length).raise TWE_ALARM_GAP_EXP

/-- FLOW_IDLE_EXPIRY (R122): a flow without an accepted packet for TWE_FLOW_IDLE ms loses SEEN. -/
def execFlowIdleExpiry (flow : Nat) (s : State) : Out := run s fun c =>
  let m := Map.get {} c.twoEnded.flows flow
  if !m.seen then c
  else
    let ms := max 10 (min 1000 (c.f TWE_FLOW_IDLE_MS))
    let c := c.elapse (m.last + ms * msCcy - c.now)
    c.modMerge fun e => { e with flows := Map.set {} e.flows flow { m with seen := false } }

/-- REFERENCE_AGEING (R127): at CIF 0, references at the heads of line queues older than AGE_LIMIT are released. -/
def execReferenceAgeing (s : State) : Out := run s fun c =>
  let c := c.nextFrame 9
  let lim := c.f TWE_CFG_AGE_LIMIT
  let limit := (if lim = 0 then 1 else min 40 lim) * (msCcy / 2)
  if !c.isOn 24 then c else
  (c.cooper.queues.map (·.1)).foldl (fun c q =>
    match c.queueLine q with
    | some x => Chip.ageQueue limit (c.queue q).length c x q
    | none => c) c

end Sys2Proof.Machine
end

