-- ==== Sys2Proof/Machine/NetTime.lean ====
section
/-! DEFINITION. Network time: the time states, steps of NT, the time master and holdover
(spec/11_network_time_and_deadlines.md, R266 to R271; spec/05_two_ended_attachment.md, R128 to R131). -/

namespace Sys2Proof.Machine
open Sys2Proof

/-- The chip with the Horologer changed. -/
def Chip.modTime (c : Chip) (g : Horologer → Horologer) : Chip := { c with time := g c.time }

/-- The chip with the configuration engine changed. -/
def Chip.modCfg (c : Chip) (g : Scrivener → Scrivener) : Chip := { c with cfg := g c.cfg }

/-! ## Pending commits that NT skips (R336) -/

/-- CFG_PENDn and CSTATE in line with the pending commits (R341). -/
def Chip.showPending (c : Chip) : Chip :=
  let show_ := fun (c : Chip) (n : Nat) => match c.cfg.pending[n]? with
    | some p => c.setPair (CFG_PEND_LO n) (2 ^ 63 + p.fn)
    | none => c.setPair (CFG_PEND_LO n) 0
  let c := show_ (show_ c 0) 1
  c.put CFG_STATUS_CSTATE (if c.cfg.checking.isSome then 1 else if c.cfg.pending = [] then 0 else 2)

/-- A commit ended without applying: LAST and REASON (R328, R336). -/
def Chip.commitLost (c : Chip) : Chip := (c.put CFG_STATUS_LAST 3).put CFG_STATUS_REASON 0x1C

/-- The first pending commit whose instant lies before an instant of NT; a commit for the next frame names none. -/
def Chip.lateCommit (c : Chip) (fn : Nat) : Option Nat := c.cfg.pending.findIdx? fun p => !p.next && decide (p.fn < fn)

/-- The pending commit whose instant lies before NT is missed, and those after it are cancelled (R336). -/
def Chip.missCommits (c : Chip) : Chip :=
  match c.lateCommit c.nt.fn with
  | none => c
  | some k =>
    let n := c.cfg.pending.length - k
    let c := ((c.count N_CFG_MISSED).count N_CFG_CANCELLED (n - 1)).raise CFG_ALARM_MISSED
    ((c.modCfg fun e => { e with pending := e.pending.take k }).commitLost).showPending

/-- The instant a slot fires at: CIF 0 for the actions that ignore the offset (R15, Table 11.4). -/
def EvSlot.instant (e : EvSlot) : NetTime := { fn := e.fn, cif := if e.action = 3 || e.action = 4 then 0 else e.cif }

/-- Every armed slot whose instant lies before NT is MISSED (R268). -/
def Chip.missSlots (c : Chip) : Chip :=
  let late := c.time.slots.filter fun e => e.2.state == 1 && NetTime.before e.2.instant c.nt
  if late = [] then c
  else
    let c := c.modTime fun t => { t with slots := t.slots.map fun e => if late.contains e then (e.1, { e.2 with state := 3 }) else e }
    (c.count N_NTU_EV_MISSED late.length).raise NTU_ALARM_MISSED

/-- NT takes a new value (R268): slots and commits passed over are missed, and the bandwidth window ends (R366). -/
def Chip.ntTo (c : Chip) (t : NetTime) : Chip :=
  let late := (c.lateCommit t.fn).isSome
  let c := { c with nt := t, lastFrame := [] }
  let c := if !late then c else (c.count N_NTU_EV_MISSED).raise NTU_ALARM_MISSED
  (c.missSlots.missCommits).bwDiscard

/-- A step of NT (R268). -/
def Chip.ntStep (c : Chip) (t : NetTime) : Chip := ((c.ntTo t).raise NTU_ALARM_NT_STEP).count N_NTU_NT_STEP

/-- A line adopts a new FN (R45, R269): on the time master NT's FN steps with it. -/
def Chip.fnAdopted (c : Chip) (x : Line) (fn : Nat) : Chip :=
  if c.flag TWE_STATUS_NO_MASTER || x != c.master || !c.ntValid then c
  else (c.ntStep { c.nt with fn := fn }).raise NTU_ALARM_FN_JUMP

/-! ## States -/

/-- A line is in use as time master. -/
def Chip.takeMaster (c : Chip) (x : Line) : Chip :=
  ((c.put TWE_STATUS_TM_ACT x.idx).lower TWE_STATUS_NO_MASTER).lower TWE_ALARM_STATE_NO_MASTER

/-- The seconds that an HO_TC field stands for (R291). -/
def Chip.hoTc (c : Chip) : Nat := max 1 (min 1024 (c.f NTU_HO_CFG_HO_TC))

/-- The next frame of a line, with CIF 0 of NT placed at its arrival. -/
def Chip.atNextFrame (c : Chip) (x : Line) : Chip × NetTime :=
  let at_ := c.f (LNx_SYNC_CIF_CIF x)
  let c := c.elapse (if c.nt.cif < at_ then at_ - c.nt.cif else frameCcy - c.nt.cif + at_)
  (c.put (LNx_SYNC_CIF_CIF x) 0, { fn := ((c.line x).fn + 1) % 2 ^ 48, cif := 0 })

/-- NT_SET (R267, R268, R271): a line that qualifies in FREE sets NT; in HOLDOVER, NT is stepped to a line that differs by
more than STEP_THR. -/
def execNtSet (x : Line) (s : State) : Out := run s fun c =>
  if !c.qualifies x then c
  else if c.timeState = 0 then
    let r := c.atNextFrame x
    let c := ((r.1.takeMaster x).ntTo r.2).setReg TWE_TM_OFS 0
    ((c.put NTU_STATUS_STATE 1).raise NTU_STATUS_NT_VALID).raise NTU_ALARM_NT_SET
  else if c.timeState = 3 then
    let r := c.atNextFrame x
    let c := ((r.1.takeMaster x).ntStep r.2).setReg TWE_TM_OFS 0
    ((c.put NTU_STATUS_STATE 1).lower NTU_STATUS_HO_AGED).lower NTU_STATUS_HO_UNLEARNT |>.stop .hoAged
  else c

/-- NT_LOCK (R267): CIF 0 has stayed within ±2 ns for 8 consecutive frames. -/
def execNtLock (s : State) : Out := run s fun c =>
  if c.timeState = 1 then (c.put NTU_STATUS_STATE 2).modTime fun t => { t with locked := 0 } else c

/-- Entry to HOLDOVER (R130, R267, R270). -/
def Chip.enterHoldover (c : Chip) : Chip :=
  let lim := c.f NTU_HO_CFG_HO_LIMIT
  let c := (c.put NTU_STATUS_STATE 3).count N_NTU_HO_ENTRY
  let c := ((c.raise NTU_ALARM_HOLDOVER).raise TWE_STATUS_NO_MASTER).raise TWE_ALARM_STATE_NO_MASTER
  let c := (c.raise TWE_ALARM_NO_MASTER).modTime fun t => { t with locked := 0 }
  let c := if c.flag NTU_STATUS_HO_READY then c else c.raise NTU_STATUS_HO_UNLEARNT
  c.start .hoAged ((if lim = 0 then 1 else lim) * secCcy)

/-- HOLDOVER_ENTRY (R267): no line qualifies in ACQUIRING or LOCKED. -/
def execHoldoverEntry (s : State) : Out := run s fun c =>
  if (c.timeState = 1 || c.timeState = 2) && !c.qualifies .a && !c.qualifies .b then c.enterHoldover else c

/-- HOLDOVER_AGED (Table 11.1): HO_LIMIT seconds have passed in HOLDOVER. -/
def execHoldoverAged (s : State) : Out := run s fun c =>
  c.expire .hoAged fun c => if c.timeState = 3 then (c.raise NTU_STATUS_HO_AGED).raise NTU_ALARM_HO_AGED else c

/-- A word with a signed value, saturating. -/
def signedWord (v : Int) : Word := BitVec.ofNat 32 (toField 32 (clampInt (-2147483648) 2147483647 v))

/-- HOLDOVER_EXIT (R271): a line qualifies in HOLDOVER. `e` is E, CIF 0 of the NT frame of the same FN less its frame's arrival, in
1/256 ccy: within STEP_THR NT stays continuous with O = E, else NT is stepped. -/
def execHoldoverExit (x : Line) (e : Int) (s : State) : Out := run s fun c =>
  if c.timeState ≠ 3 || !c.qualifies x then c
  else
    let near := decide (e.natAbs * 2 ≤ c.f NTU_TIME_CFG_STEP_THR * 3 * 256)
    let c := ((c.lower NTU_STATUS_HO_AGED).lower NTU_STATUS_HO_UNLEARNT).stop .hoAged
    if near then ((c.takeMaster x).setReg TWE_TM_OFS (signedWord e)).put NTU_STATUS_STATE 1
    else
      let r := c.atNextFrame x
      (((r.1.takeMaster x).ntStep r.2).setReg TWE_TM_OFS 0).put NTU_STATUS_STATE 1

/-- HO_WINDOW_END (R270): a 1 s window of HOLD_OSC counting ends with the measured offset in 0.01 ppb; HO_READY rises after
HO_TC seconds of LOCKED. The average is a value the spec does not state. -/
def execHoWindowEnd (measured : BitVec 32) (s : State) : Out := run s fun c =>
  if c.timeState ≠ 2 then c
  else
    let c := c.setReg NTU_HO_FREQ (Config.averagedOffset (c.reg NTU_HO_FREQ) measured c.hoTc)
    let c := c.modTime fun t => { t with window := some measured, locked := t.locked + 1 }
    if c.hoTc ≤ c.time.locked then c.raise NTU_STATUS_HO_READY else c

/-! ## Tracking and the change of master -/

/-- TRACK_UPDATE (R129): one frame's offset D of the other line in 1/256 ccy, its frequency in ppb, and whether its frame
could be paired with the master's. With no line in use there is no offset, and the conditions of the alarms are false.
DEDUCED (assumption 104). -/
def execTrackUpdate (d ppb : Int) (paired : Bool) (s : State) : Out := run s fun c =>
  if !c.isOn 7 then c else
  let known := !c.flag TWE_STATUS_NO_MASTER
  let c := if known then (c.setReg TWE_TRACK_OFS (signedWord d)).put TWE_TRACK_FREQ_PPB (toField 16 (clampInt (-32768) 32767 ppb)) else c
  let skew := known && (!paired || decide (3000000 * 256 ≤ d.natAbs))
  let freq := known && decide (500 < ppb.natAbs)
  let m := c.twoEnded
  let c := c.modMerge fun t => { t with skewClear := if skew then 0 else t.skewClear + 1, freqClear := if freq then 0 else t.freqClear + 1 }
  let c := if skew then (if c.flag TWE_ALARM_STATE_SKEW then c else (c.raise TWE_ALARM_STATE_SKEW).raise TWE_ALARM_SKEW)
    else if 64 ≤ m.skewClear + 1 then c.lower TWE_ALARM_STATE_SKEW else c
  if freq then (if c.flag TWE_ALARM_STATE_FREQ then c else (c.raise TWE_ALARM_STATE_FREQ).raise TWE_ALARM_FREQ)
  else if 64 ≤ m.freqClear + 1 then c.lower TWE_ALARM_STATE_FREQ else c

/-- The core relocks to the other line with its phase pre-loaded from D, and NT goes on (R130): with CIF 0 at the arrival of
the master's frame plus O (R266), O becomes O less D. DEDUCED (assumption 40). -/
def Chip.switchMaster (c : Chip) (x : Line) : Chip :=
  let o := signed 32 (c.reg TWE_TM_OFS).toNat - signed 32 (c.reg TWE_TRACK_OFS).toNat
  (((c.takeMaster x).setReg TWE_TM_OFS (signedWord o)).count N_TWE_TM_SWITCH).raise TWE_ALARM_TM_SWITCH

/-- TM_SWITCH (R130): LOS or LOF on the master line: the core relocks to the other line, or enters holdover. -/
def execTmSwitch (s : State) : Out := run s fun c =>
  let x := c.master
  if c.flag TWE_STATUS_NO_MASTER || !c.lineLost x || !c.isOn 7 || (c.timeState != 1 && c.timeState != 2) then c
  else if c.qualifies x.other then c.switchMaster x.other
  else c.enterHoldover

/-- TM_REVERT (R131): TM_LINE has qualified for WTR seconds without a break. -/
def execTmRevert (s : State) : Out := run s fun c =>
  c.expire .tmRevert fun c =>
    let x := lineOf (c.f TWE_CFG_TM_LINE)
    if !c.flag TWE_STATUS_NO_MASTER && x != c.master && c.qualifies x && c.flag TWE_CFG_TM_REVERT then c.switchMaster x else c

/-! ## The watch over grants (R290) -/

/-- What a frame's grants show of the assumptions behind the bounds (R290): CG_MISS, XG_LATE and XG_SHORT. -/
def Chip.watchGrants (c : Chip) (x : Line) (grants : List Grant) : Chip :=
  if c.actState x ≠ stWorking || c.f (LPx_ACT_STATUS_SLEEP x) ≠ 0 then c
  else
    let c := if 0 < c.mappedSlots x && !(grants.any fun g => g.c) then (c.count N_NTU_CG_MISS).raise NTU_ALARM_CG_MISS else c
    grants.foldl (fun c g =>
      match g.kind, g.e with
      | .port p, true =>
        let k := 64 * x.idx + p
        let e := c.tab 8 k
        if !entryValid e then c
        else
          let at_ := g.fn * frameCcy + g.start
          let late := match Map.get 0 c.time.lastE k with
            | 0 => false
            | l => decide (natBits e 32 22 < at_ + 1 - l)
          let c := if late then (c.count N_NTU_XG_LATE).raise NTU_ALARM_XG_LATE else c
          let c := if g.len < natBits e 0 20 then (c.count N_NTU_XG_SHORT).raise NTU_ALARM_XG_SHORT else c
          c.modTime fun t => { t with lastE := Map.set 0 t.lastE k (at_ + 1) }
      | _, _ => c) c

end Sys2Proof.Machine
end

