-- ==== Sys2Proof/Machine/LineCode.lean ====
section
/-! DEFINITION. The line codes of spec/02_access_line_physical.md: Gray mapping, the scrambler, downstream
and upstream stuffing, and the codewords of both directions (R30, R36 to R40, R49 to R51, R81). -/

namespace Sys2Proof.Machine
open Sys2Proof

/-- The two bits of a PAM4 level, b1 then b0 (R30). -/
def grayBits : Nat → List Bool
  | 0 => [false, false]
  | 1 => [false, true]
  | 2 => [true, true]
  | _ => [true, false]

/-- The level that two bits select (R30). -/
def grayLevel : Bool → Bool → Nat
  | false, false => 0
  | false, true => 1
  | true, true => 2
  | true, false => 3

/-- The sync field, row by row (Table 2.3). -/
def syncField : List Nat :=
  [3, 0, 3, 3, 0, 0, 3, 0, 3, 3, 3, 0, 0, 0, 3, 0] ++
  [0, 3, 3, 0, 3, 0, 0, 3, 3, 0, 0, 3, 0, 3, 3, 3] ++
  [3, 3, 0, 0, 0, 0, 3, 0, 3, 0, 0, 3, 3, 0, 3, 0] ++
  [0, 0, 3, 3, 0, 3, 3, 3, 0, 3, 0, 0, 0, 3, 0, 3]

/-- The errors of 64 received levels against the sync field, true or inverted (R41). -/
def syncErrors (inv : Bool) (levels : List Nat) : Nat :=
  ((syncField.zip levels).filter fun p => (if inv then 3 - p.1 else p.1) != p.2).length + (64 - levels.length)

/-- The scrambler's next state; its low bit is the output bit (R38). -/
def scramblerNext (s : Nat) : Nat := (2 * s + b2n (s.testBit 48 ^^ s.testBit 39)) % 2 ^ 49

/-- Bits XORed with the scrambler's output from a state; the state runs on. -/
def scramble : Nat → List Bool → List Bool
  | _, [] => []
  | s, b :: bs => let t := scramblerNext s; (b ^^ t.testBit 0) :: scramble t bs

/-- The downstream seed (R38). -/
def downSeed (fn : Nat) : Nat := (2 * (fn % 2 ^ 48) + 1) % 2 ^ 49

/-- The upstream seed; all zeros is replaced by bit 48 alone (R50). -/
def upSeed (fn tid : Nat) : Nat := let s := fn % 2 ^ 39 * 1024 + tid % 1024; if s = 0 then 2 ^ 48 else s

/-- The symbols left when every symbol that follows a run of 11 is deleted, the symbols deleted, and those
of them that were not the stuff value (R39). `run` counts the identical symbols so far. -/
def destuffDown : List Nat → Nat → Nat → List Nat × Nat × Nat
  | [], _, _ => ([], 0, 0)
  | s :: r, prev, run =>
    if run = 11 then
      let t := destuffDown r s 1
      (t.1, t.2.1 + 1, t.2.2 + b2n (s != (if prev < 2 then 3 else 0)))
    else
      let t := destuffDown r s (if s = prev then run + 1 else 1)
      (s :: t.1, t.2.1, t.2.2)

/-- Bits of a symbol string. -/
def levelBits (ls : List Nat) : List Bool := ls.flatMap grayBits

/-- Groups of `n` bits as numbers, most significant bit first; a short last group is left out. -/
def bitGroups (n : Nat) : Nat → List Bool → List Nat
  | 0, _ => []
  | k + 1, bs => if bs.length < n || n = 0 then [] else
    (bs.take n).foldl (fun a b => 2 * a + b2n b) 0 :: bitGroups n k (bs.drop n)

/-- The bits of bytes, most significant first. -/
def bytesBits (bs : List Byte) : List Bool := bs.flatMap fun b => (List.range 8).map fun k => b.toNat.testBit (7 - k)

/-- The codewords of a frame decoded one by one (R47): data symbols, the uncorrectable ones, and the totals. -/
def decodeWords : Nat → List Nat → FrameBody × List Bool → FrameBody × List Bool
  | 0, _, acc => acc
  | k + 1, syms, (f, bits) =>
    let i := 2204 - (k + 1)
    if syms.length < 544 then (f, bits)
    else
      let word := syms.take 544
      let r := Config.rs544Decode word
      let data := match r with
        | some (d, _, _) => d
        | none => word.take 514
      let f := match r with
        | some (_, s, b) => { f with complete := i + 1, corrSymbols := f.corrSymbols + s, corrWords := f.corrWords + b2n (s != 0), corrBits := f.corrBits + b }
        | none => { f with complete := i + 1, bad := f.bad ++ [i] }
      let bits' := data.flatMap fun v => (List.range 10).map fun b => v.testBit (9 - b)
      decodeWords k (syms.drop 544) (f, bits ++ bits')

/-- The symbols of a frame after its sync field decoded (R38, R39, R44, R47, R56): inverted when PINV is 1,
destuffed, descrambled, cut into codewords and corrected. -/
def decodeFrame (fn : Nat) (pinv : Bool) (symbols : List Nat) : FrameBody :=
  let ls := if pinv then symbols.map (3 - ·) else symbols
  let d := destuffDown ls 4 0
  let bits := scramble (downSeed fn) (levelBits d.1)
  let f : FrameBody := { payload := [], complete := 0, stuffed := d.2.1, stuffBad := d.2.2 }
  let r := decodeWords 2204 (bitGroups 10 (2204 * 544) bits) (f, [])
  let bad := r.1.bad ++ (List.range (2204 - r.1.complete)).map (· + r.1.complete)
  { r.1 with bad := bad, payload := (bitGroups 8 (r.2.length / 8 + 1) r.2).map (BitVec.ofNat 8) }

/-- Upstream stuffing (R51) of a string: after 22 identical bits the complement is inserted, and the run starts again.
The bits with their insertions, how many there are, and the last bit and run reached. -/
def stuffUp : List Bool → Bool → Nat → List Bool × Nat × Bool × Nat
  | [], prev, run => ([], 0, prev, run)
  | b :: r, prev, run =>
    let run' := if run != 0 && b == prev then run + 1 else 1
    if run' = 22 then
      let t := stuffUp r (!b) 0
      (b :: (!b) :: t.1, t.2.1 + 1, t.2.2)
    else
      let t := stuffUp r b run'
      (b :: t.1, t.2)

/-- The data bytes of the codewords after the `G` full groups, and the pad words (Table 3.8). -/
def lastPart (r : Nat) : List Nat × Nat :=
  if r = 0 then ([], 0) else if r ≤ 12 then ([], r) else if r ≤ 63 then ([4 * r - 20], 0)
  else if r ≤ 74 then ([232], r - 63) else ([232, 4 * r - 268], 0)

/-- The data bytes of each codeword of a burst, in order (R81). -/
def burstCodewords (len : Nat) : List Nat :=
  let w := len - 1
  List.replicate (2 * (w / 125)) 232 ++ (lastPart (w % 125)).1

/-- The data capacity D of a burst (R81). -/
def burstCapacity (len : Nat) : Nat := 464 * ((len - 1) / 125) + (lastPart ((len - 1) % 125)).1.foldl (· + ·) 0

/-- The first grant word of codeword `i`: two codewords of 62 words and a slack word make a group (R81). -/
def codewordStart (i : Nat) : Nat := 125 * (i / 2) + 62 * (i % 2)

end Sys2Proof.Machine
end

