-- ==== Sys2Proof/Machine/Receiver.lean ====
section
/-! DEFINITION. The line receiver: signal, acquisition, the equaliser, the figure of merit and the frame
hunt (spec/02_access_line_physical.md, R31 to R48). -/

namespace Sys2Proof.Machine
open Sys2Proof

/-- Whether a line's receiver works: its domains are ON and RX_EN is 1 (R35). -/
def Chip.rxWorks (c : Chip) (x : Line) : Bool := c.isOn (rxDom x) && c.isOn (protoDom x) && c.flag (LNx_RX_CTRL_RX_EN x)

/-- LOS_RISE (R35): the energy detector, or Lx_SD when SD_USE is 1, has shown no signal for 2 µs. -/
def execLosRise (x : Line) (bySd : Bool) (s : State) : Out := run s fun c =>
  let c := if bySd then c.put (LNx_RX_STATUS_SD_PIN x) (c.f (LNx_RX_CTRL_SD_POL x)) else c
  if c.flag (LNx_RX_STATUS_LOS x) || (bySd && !c.flag (LNx_RX_CTRL_SD_USE x)) || !c.isOn (protoDom x) ||
      c.f (LPx_ACT_STATUS_SLEEP x) == 2 then c
  else c.losRise x

/-- LOS_CLEAR (R35, R32): every source in use has shown signal for 125 µs; an acquisition starts. `sd` is the
level at Lx_SD. -/
def execLosClear (x : Line) (sd : Bool) (s : State) : Out := run s fun c =>
  let c := c.putB (LNx_RX_STATUS_SD_PIN x) sd
  let sdOk := !c.flag (LNx_RX_CTRL_SD_USE x) || (sd != c.flag (LNx_RX_CTRL_SD_POL x))
  if c.rxWorks x && sdOk && c.flag (LNx_RX_STATUS_LOS x) then
    let c := (c.lower (LNx_RX_STATUS_LOS x)).lowerBit (LNx_ALARM_STATE_LEVEL x) 0
    let hold := c.f (LPx_FRAME_CFG_RDI_HOLD x)
    let c := c.modLine x fun l => { l with rdiUntil := c.now + 16 * (if hold = 0 then 1 else hold) * frameCcy }
    c.start (.line x .acquire) (1500 * usCcy)
  else c

/-- The CTLE code with the highest FOM, the lower code on a tie (R32). -/
def bestCtle (foms : List Nat) : Nat :=
  ((List.range 16).foldl (fun b k => if foms.getD b 0 < foms.getD k 0 then k else b) 0)

/-- The equaliser register `k` of a line: 0 the control register, 1 to 3 the DFE taps, 4 to 15 the FFE taps. -/
def eqAddr (x : Line) (k : Nat) : Nat :=
  if k = 0 then LNx_EQ_CTRL x else if k ≤ 3 then LNx_EQ_DFE x (k - 1) else LNx_EQ_FFE x (k - 4)

/-- The override bit that holds equaliser register `k`. -/
def eqOverride (x : Line) (k : Nat) : Fld :=
  if k = 0 then LNx_EQ_CTRL_CTLE_OVR x else if k ≤ 3 then LNx_EQ_CTRL_DFE_OVR x else LNx_EQ_CTRL_FFE_OVR x

/-- An adaptive update of an equaliser value: an override or ADAPT_FREEZE holds it (R33). -/
def Chip.adapt (c : Chip) (x : Line) (k v : Nat) : Chip :=
  if c.flag (eqOverride x k) || c.flag (LNx_RX_CTRL_ADAPT_FREEZE x) then c
  else if k = 0 then c.put (LNx_EQ_CTRL_CTLE x) v else c.put ⟨eqAddr x k, 0, 8⟩ v

/-- A FOM value taken (R31, R34): FOM, FOM_Q and the lowest value since RX_READY rose. -/
def Chip.takeFom (c : Chip) (x : Line) (fom : Nat) (first : Bool) : Chip :=
  let lowest := if first then fom else min fom (c.f (LNx_FOM_FOM_MIN x))
  ((c.put (LNx_FOM_FOM x) fom).put (LNx_FOM_FOM_Q x) (fom / 16)).put (LNx_FOM_FOM_MIN x) lowest

/-- ACQUISITION (R32): the CDR locks, the best of the 16 CTLE codes is kept, RX_READY is set and the hunt
starts. `foms` are the FOM values measured at the codes, `taps` the three DFE and twelve FFE taps settled at. -/
def execAcquisition (x : Line) (foms : List (BitVec 8)) (taps : List (BitVec 8)) (s : State) : Out := run s fun c =>
  if c.rxWorks x && !c.flag (LNx_RX_STATUS_LOS x) && !c.flag (LNx_RX_STATUS_RX_READY x) then
    let fs := foms.map (·.toNat)
    let code := if c.flag (LNx_EQ_CTRL_CTLE_OVR x) then c.f (LNx_EQ_CTRL_CTLE x) else bestCtle fs
    let c := c.adapt x 0 code
    let c := (List.range 15).foldl (fun c k => c.adapt x (k + 1) (taps.getD k 0).toNat) c
    let c := (c.raise (LNx_RX_STATUS_CDR_LOCK x)).raise (LNx_RX_STATUS_RX_READY x)
    let c := c.takeFom x (fs.getD code 0) true
    let c := (c.stop (.line x .acquire)).put (LNx_RX_STATUS_FRAME_STATE x) 0
    c.start (.line x .lofAcq) (4 * frameCcy)
  else c

/-- ACQUISITION_RESTART (R32): the CDR has not locked in 1.5 ms, and the acquisition starts again. -/
def execAcquisitionRestart (x : Line) (s : State) : Out := run s fun c =>
  c.expire (.line x .acquire) fun c =>
    if c.flag (LNx_RX_STATUS_RX_READY x) then c
    else (c.lower (LNx_RX_STATUS_CDR_LOCK x)).start (.line x .acquire) (1500 * usCcy)

/-- LOF_REACQUIRE (R33): LOF for 4 frames without a new candidate starts a new acquisition. -/
def execLofReacquire (x : Line) (s : State) : Out := run s fun c =>
  c.expire (.line x .lofAcq) fun c =>
    if c.inSync x || !c.flag (LNx_RX_STATUS_RX_READY x) then c
    else
      let c := (c.lower (LNx_RX_STATUS_RX_READY x)).lower (LNx_RX_STATUS_CDR_LOCK x)
      let c := ((c.put (LNx_FOM_FOM x) 0).put (LNx_FOM_FOM_Q x) 0).put (LNx_RX_STATUS_FRAME_STATE x) 0
      let c := (c.modLine x fun l => { l with cands := [] }).setReg (LNx_HUNT_STATUS x) 0
      c.start (.line x .acquire) (1500 * usCcy)

/-- One FOM alarm after a measurement (R34): the runs below the threshold and at or above threshold plus
hysteresis, and the alarm's level. -/
def fomAlarm (persist thr hyst fom low high : Nat) (level : Bool) : Nat × Nat × Bool :=
  let low := if fom < thr then low + 1 else 0
  let high := if thr + hyst ≤ fom then high + 1 else 0
  (low, high, if level then !decide (persist ≤ high) else decide (persist ≤ low))

/-- FOM_UPDATE (R31, R34): a background value enters LNx_FOM, and the FOM alarms rise or clear. -/
def execFomUpdate (x : Line) (fom : BitVec 8) (s : State) : Out := run s fun c =>
  if !c.flag (LNx_RX_STATUS_RX_READY x) then c else
  let c := c.takeFom x fom.toNat false
  let p := c.f (LNx_FOM_THR_PERSIST x)
  let persist := if p = 0 then 1 else p
  let hyst := c.f (LNx_FOM_THR_HYST x)
  let l := c.line x
  let lev := c.f (LNx_ALARM_STATE_LEVEL x)
  let w := fomAlarm persist (c.f (LNx_FOM_THR_WARN x)) hyst fom.toNat l.warnLow l.warnHigh (bitOf lev 4)
  let g := fomAlarm persist (c.f (LNx_FOM_THR_FAIL x)) hyst fom.toNat l.failLow l.failHigh (bitOf lev 5)
  let c := c.setLine x { l with warnLow := w.1, warnHigh := w.2.1, failLow := g.1, failHigh := g.2.1 }
  let c := if w.2.2 && !bitOf lev 4 then c.raise (LNx_ALARM_FOM_WARN x) else c
  let c := if g.2.2 && !bitOf lev 5 then c.raise (LNx_ALARM_FOM_FAIL x) else c
  c.put (LNx_ALARM_STATE_LEVEL x) (natPut (natPut lev 4 1 (b2n w.2.2)) 5 1 (b2n g.2.2))

/-- An equaliser write taken by the slow domain (R33): the override bits apply at once, and the written values
of a stage apply while its override bit is 1. -/
def Chip.eqTaken (c : Chip) (x : Line) (k : Nat) (v : Word) : Chip :=
  let c := c.modLine x fun l => { l with eqWritten := Map.insert l.eqWritten k v }
  let c := if k = 0 then
      ((c.put (LNx_EQ_CTRL_DFE_OVR x) (wordBits v 10 1)).put (LNx_EQ_CTRL_FFE_OVR x) (wordBits v 9 1)).put (LNx_EQ_CTRL_CTLE_OVR x) (wordBits v 8 1)
    else c
  (List.range 16).foldl (fun c j =>
    if c.flag (eqOverride x j) then
      match (c.line x).eqWritten.find? (fun e => e.1 == j) with
      | some e => if j = 0 then c.put (LNx_EQ_CTRL_CTLE x) (wordBits e.2 0 4) else c.put ⟨eqAddr x j, 0, 8⟩ (wordBits e.2 0 8)
      | none => c
    else c) c

/-! ## The frame hunt -/

/-- LNx_HUNT_STATUS follows the open candidates. -/
def Chip.setCands (c : Chip) (x : Line) (cs : List Cand) : Chip :=
  let c := c.modLine x fun l => { l with cands := cs }
  (c.put (LNx_HUNT_STATUS_CAND_CNT x) cs.length).putB (LNx_HUNT_STATUS_TRK_FULL x) (decide (4 ≤ cs.length))

/-- The CRC-32C of R59. -/
def crc32c (bs : List Byte) : Nat := crcLsb 0x82F63B78 0xFFFFFFFF bs ^^^ 0xFFFFFFFF

/-- The CRC-16 of R59. -/
def crc16 (bs : List Byte) : Nat := crcMsb 16 0x1021 0xFFFF bs

/-- Whether a frame header's CRC holds (Table 3.2). -/
def headerCrcOk (h : List Byte) : Bool := crc32c (slice h 0 28) == beAt h 28 4

/-- The FN of a frame header. -/
def headerFn (h : List Byte) : Nat := beAt h 0 6

/-- Sync declared (Table 2.4): FN from the header, FN_VALID, PINV, LOF clear, SYNC_ACQ. The frame of that
header is the first one delivered (R44), so the FN before it is recorded. -/
def Chip.declareSync (c : Chip) (x : Line) (inv : Bool) (fn pos : Nat) : Chip :=
  let c := if c.flag (LNx_RX_STATUS_PINV x) != inv then c.raise (LNx_ALARM_PINV_CHG x) else c
  let c := (c.putB (LNx_RX_STATUS_PINV x) inv).put (LNx_RX_STATUS_FRAME_STATE x) 2
  let c := (c.raise (LNx_RX_STATUS_FN_VALID x)).raise (LNx_ALARM_SYNC_ACQ x)
  let c := (c.setCands x []).modLine x fun l => { l with fn := (fn + 2 ^ 48 - 1) % 2 ^ 48, badRun := 0, recalled := none, syncPos := pos }
  c.syncGained x

/-- A candidate's check (R41): the sync field in its polarity, a valid header, and at the second check the
header's FN. -/
def checkPasses (k : Cand) (inv : Bool) (errors : Nat) (hdr : List Byte) : Bool :=
  decide (errors ≤ 4) && (k.inv == inv) && headerCrcOk hdr && (k.checks == 0 || headerFn hdr == (k.fn + 1) % 2 ^ 48)

/-- SYNC_FIELD (R37, R41, R42): 64 symbols at stream position `pos` compared with the sync pattern of one
polarity, with the header that follows them. `cif` is the CIF at which they began on this terminal. -/
def execSyncField (x : Line) (pos : Nat) (inv : Bool) (errors : BitVec 7) (hdr : List Byte) (cif : Nat) (s : State) : Out := run s fun c =>
  if !c.flag (LNx_RX_STATUS_RX_READY x) || !c.isOn (protoDom x) then c else
  let e := errors.toNat
  if c.inSync x then
    let c := ((c.toCif (2 + x.idx) cif).put (LNx_SYNC_CIF_CIF x) cif).modLine x fun l => { l with syncPos := pos }
    if e ≤ 4 && inv == c.flag (LNx_RX_STATUS_PINV x) then c.modLine x fun l => { l with badRun := 0 }
    else
      let n := (c.line x).badRun + 1
      let c := (c.count (N_LNx_BAD_SYNC x)).modLine x fun l => { l with badRun := n }
      if 4 ≤ n then (c.lofRise x).start (.line x .lofAcq) (4 * frameCcy) else c
  else
    let cs := (c.line x).cands
    match cs.find? fun k => k.pos + 6000000 == pos with
    | some k =>
      let rest := cs.filter (· != k)
      let c := (c.elapse (k.found + frameCcy / 2 - c.now)).reachCif cif
      if checkPasses k inv e hdr then
        if k.checks = 0 then c.setCands x (cs.map fun q => if q = k then { k with pos := pos, found := c.now, checks := 1, fn := headerFn hdr } else q)
        else (c.declareSync x inv (headerFn hdr) pos).put (LNx_SYNC_CIF_CIF x) cif
      else
        let c := (c.count (N_LNx_CAND_DROP x)).setCands x rest
        c.put (LNx_RX_STATUS_FRAME_STATE x) (if rest = [] then 0 else 1)
    | none =>
      let c := c.reachCif cif
      if 4 < e then c
      else if 4 ≤ cs.length then c.count (N_LNx_CAND_FULL x)
      else
        let k : Cand := { pos := pos, found := c.now, inv := inv, checks := 0, fn := headerFn hdr }
        ((c.setCands x (cs ++ [k])).put (LNx_RX_STATUS_FRAME_STATE x) 1).start (.line x .lofAcq) (4 * frameCcy)

/-- DIRECTED_REACQ (R46, R112): at a deep-sleep wake FN one candidate opens at the predicted position with the
stored equaliser values. Each try gives the sync errors and the header found; the second is made at FN + 1. -/
def execDirectedReacq (x : Line) (e0 : BitVec 7) (h0 : List Byte) (e1 : BitVec 7) (h1 : List Byte) (s : State) : Out := run s fun c =>
  match (c.line x).sleep with
  | none => c
  | some p =>
    if p.mode ≠ 2 || !c.isOn (rxDom x) || !c.isOn (protoDom x) then c else
    let c := c.toInstant { fn := p.wake, cif := (c.line x).saved.cif }
    let sv := (c.line x).saved
    let c := sv.eq.foldl (fun c e => c.setReg e.1 e.2) c
    let c := ((c.raise (LNx_RX_STATUS_CDR_LOCK x)).raise (LNx_RX_STATUS_RX_READY x)).put (LNx_RX_STATUS_FRAME_STATE x) 3
    let c := (c.putB (LNx_RX_STATUS_PINV x) sv.pinv).lower (LNx_RX_STATUS_LOS x) |>.lowerBit (LNx_ALARM_STATE_LEVEL x) 0
    let c := (c.put (LPx_ACT_STATUS_SLEEP x) 3).modLine x fun l => { l with sleep := none }
    let ok := fun (e : BitVec 7) (h : List Byte) (fn : Nat) => decide (e.toNat ≤ 4) && headerCrcOk h && headerFn h == fn % 2 ^ 48
    if ok e0 h0 p.wake then (c.declareSync x sv.pinv p.wake 0).put (LPx_ACT_STATUS_SLEEP x) 0
    else
      let c := c.toInstant { fn := (p.wake + 1) % 2 ^ 48, cif := sv.cif }
      if ok e1 h1 (p.wake + 1) then (c.declareSync x sv.pinv (p.wake + 1) 0).put (LPx_ACT_STATUS_SLEEP x) 0
      else
        let c := (c.raise (LNx_ALARM_REACQ_FAIL x)).put (LPx_ACT_STATUS_SLEEP x) 0
        let c := ((c.lower (LNx_RX_STATUS_RX_READY x)).lower (LNx_RX_STATUS_CDR_LOCK x)).lofRise x
        c.start (.line x .acquire) (1500 * usCcy)

/-- The threshold of an error-rate alarm: floor(frames × 11,989,760 × 10^-exp) (R48). -/
def berThreshold (frames exp : Nat) : Nat := frames * 11989760 / 10 ^ exp

/-- The exponents and windows of SD and SF, held in their ranges (LNx_BER_CFG, LNx_BER_WIN). -/
def Chip.sdParams (c : Chip) (x : Line) : Nat × Nat :=
  (max 5 (min 9 (c.f (LNx_BER_CFG_SD_EXP x))), max 8 (c.f (LNx_BER_WIN_SD_WIN x)))

/-- As `sdParams`, for SF. -/
def Chip.sfParams (c : Chip) (x : Line) : Nat × Nat :=
  (max 3 (min 5 (c.f (LNx_BER_CFG_SF_EXP x))), max 8 (c.f (LNx_BER_WIN_SF_WIN x)))

/-- A frame's errored bits enter both windows, and SD or SF rises when a window's sum exceeds its threshold (R48). -/
def Chip.erroredBits (c : Chip) (x : Line) (bits : Nat) : Chip :=
  let l := c.line x
  let sd := l.sdBits + bits
  let sf := l.sfBits + bits
  let c := c.setLine x { l with sdBits := sd, sfBits := sf, sdFrames := l.sdFrames + 1, sfFrames := l.sfFrames + 1 }
  let lev := c.f (LNx_ALARM_STATE_LEVEL x)
  let p := c.sdParams x
  let q := c.sfParams x
  let c := if berThreshold p.2 p.1 < sd && !bitOf lev 2 then (c.raise (LNx_ALARM_SD x)).raiseBit (LNx_ALARM_STATE_LEVEL x) 2 else c
  if berThreshold q.2 q.1 < sf && !bitOf lev 3 then (c.raise (LNx_ALARM_SF x)).raiseBit (LNx_ALARM_STATE_LEVEL x) 3 else c

/-- BER_WINDOW_END (R48): at the end of an SD or SF window the alarm clears when its errored bits are at most a
tenth of the threshold, and the next window starts. -/
def execBerWindowEnd (x : Line) (sf : Bool) (s : State) : Out := run s fun c =>
  let l := c.line x
  let p := if sf then c.sfParams x else c.sdParams x
  let frames := if sf then l.sfFrames else l.sdFrames
  let bits := if sf then l.sfBits else l.sdBits
  if !c.inSync x || frames < p.2 then c else
  let c := c.setLine x (if sf then { l with sfBits := 0, sfFrames := 0 } else { l with sdBits := 0, sdFrames := 0 })
  if bits ≤ berThreshold p.2 p.1 / 10 then c.lowerBit (LNx_ALARM_STATE_LEVEL x) (if sf then 3 else 2) else c

end Sys2Proof.Machine
end

