-- ==== Sys2Proof/Machine/Downstream.lean ====
section
/-! DEFINITION. The downstream frame: header, BWmap, grants and Porter windows, unknown messages and
containers (spec/03_access_line_frames.md, R56 to R76). -/

namespace Sys2Proof.Machine
open Sys2Proof

/-- Whether a payload byte lies in an uncorrectable codeword (R56). -/
def byteErrored (bad : List Nat) (j : Nat) : Bool := bad.contains (8 * j / 5140) || bad.contains ((8 * j + 7) / 5140)

/-- Whether any of `n` bytes from `i` on is errored. -/
def anyErrored (bad : List Nat) (i n : Nat) : Bool := (List.range n).any fun k => byteErrored bad (i + k)

/-- A BWmap entry (Table 3.3). -/
structure BwEntry where
  alloc : Nat
  start : Nat
  len : Nat
  b : Bool
  q : Bool
  c : Bool
  e : Bool
  prof : Nat
  ecrcOk : Bool
  deriving DecidableEq, Repr

/-- The entry that 16 bytes spell. -/
def parseEntry (bs : List Byte) : BwEntry :=
  let f := byteAt bs 8
  { alloc := beAt bs 0 2 % 2 ^ 14, start := beAt bs 2 3 % 2 ^ 18, len := beAt bs 5 3 % 2 ^ 20
    b := bitOf f 7, q := bitOf f 6, c := bitOf f 5, e := bitOf f 4, prof := f / 4 % 4
    ecrcOk := crc16 (slice bs 0 14) == beAt bs 14 2 }

/-- The allocation port bound to an alloc ID on a line. -/
def Chip.boundPort (c : Chip) (x : Line) (alloc : Nat) : Option Nat :=
  (List.range 64).find? fun n => c.flag (LPx_ALLOC_VALID x n) && c.f (LPx_ALLOC_ALLOC x n) == alloc

/-- What an entry's alloc ID addresses on this terminal, if anything (R64). -/
def Chip.addressed (c : Chip) (x : Line) (alloc : Nat) : Option GrantKind :=
  let tid := c.f (LPx_IDENT_TID x)
  if alloc = 0x3FFF then (if c.actState x = stAnnouncing then some .announce else none)
  else if tid ≠ 0x3FF && alloc = tid then some .default
  else (c.boundPort x alloc).map .port

/-- The range rules of R65: START, LEN, their sum, and the container flag. -/
def Chip.entryInRange (c : Chip) (x : Line) (k : GrantKind) (n : BwEntry) : Bool :=
  decide (n.start ≤ 187499) && decide (14 ≤ n.len) && decide (n.start + n.len ≤ 187500) &&
    (!n.c || (match k with
      | .port p => c.flag (LPx_ALLOC_CONT x p)
      | _ => false))

/-- The instant at which a grant's word 0 leaves, in ccy from FN 0 on the line's own frames (R77). -/
def grantInstant (g : Grant) : Nat := g.fn * frameCcy + 52500 + g.eqd + g.start

/-- The transmit span of a grant: BEN_LEAD before the first preamble word to BEN_LAG after the terminator (R68). -/
def Chip.grantSpan (c : Chip) (x : Line) (g : Grant) : PorterWindow :=
  { opens := grantInstant g - 2 - g.plen - c.f (LNx_TX_CTRL_BEN_LEAD x)
    closes := grantInstant g + g.len + c.f (LNx_TX_CTRL_BEN_LAG x) }

/-- Whether two spans overlap. -/
def PorterWindow.overlaps (a b : PorterWindow) : Bool := decide (a.opens < b.closes) && decide (b.opens < a.closes)

/-- Whether a grant's transmit span has begun on this line (R68). -/
def Chip.grantBegun (c : Chip) (x : Line) (g : Grant) : Bool :=
  decide ((c.grantSpan x g).opens + c.f (LNx_SYNC_CIF_CIF x) ≤ c.nt.ccy)

/-- Whether the new grant is the one dropped of an overlapping pair (R68): the later start loses, then the higher
FN, then the later entry; a begun span never loses. -/
def Chip.newLoses (c : Chip) (x : Line) (old new : Grant) : Bool :=
  c.grantBegun x old || decide (grantInstant old ≤ grantInstant new)

/-- An accepted grant joins the pending ones under R68, with its Porter window (R66). -/
def Chip.addGrant (c : Chip) (x : Line) (g : Grant) : Chip :=
  let gs := (c.line x).grants
  let clash := gs.filter fun h => (c.grantSpan x h).overlaps (c.grantSpan x g)
  if clash.any (fun h => c.newLoses x h g) then (c.count (N_LPx_GRANT_OVLP x)).raise (LPx_FRM_ALARM_GRANT_OVLP x)
  else
    let keep := gs.filter fun h => !clash.contains h
    let c := if clash = [] then c else (c.count (N_LPx_GRANT_OVLP x) clash.length).raise (LPx_FRM_ALARM_GRANT_OVLP x)
    let c := (c.unplaceGrants x clash).setGrants x (keep ++ [g])
    c.modLine x fun l => { l with windows := (keep ++ [g]).map (c.grantSpan x) }

/-- Whether the line takes grants in its state (Table 4.1, R112, R391). -/
def Chip.takesGrants (c : Chip) (x : Line) : Bool :=
  let st := c.actState x
  !c.flag ITM_SAFE_ACTIVE && (st == stAnnouncing || st == stRanging || st == stProving || st == stWorking)

/-- One BWmap entry (R64 to R68): ignored, rejected and counted, or accepted. The number counts the grants
accepted from this BWmap. -/
def Chip.bwEntry (c : Chip) (x : Line) (fn : Nat) (bs : List Byte) (errored : Bool) (n : Nat) : Chip × Nat :=
  let e := parseEntry bs
  match c.addressed x e.alloc with
  | none => (c, n)
  | some k =>
    if c.f (LPx_ACT_STATUS_SLEEP x) != 0 then (c.count (N_LPx_SLEEP_GRANT_IGN x), n)
    else if !c.takesGrants x then (c, n)
    else if errored then ((c.count (N_LPx_BWMAP_ERRD x)).raise (LPx_FRM_ALARM_BWMAP_CRC x), n)
    else if !e.ecrcOk then ((c.count (N_LPx_BWMAP_CRC x)).raise (LPx_FRM_ALARM_BWMAP_CRC x), n)
    else if !c.entryInRange x k e then ((c.count (N_LPx_GRANT_BAD x)).raise (LPx_FRM_ALARM_GRANT_BAD x), n)
    else if 128 ≤ n then (c.count (N_LPx_GRANT_EXCESS x), n)
    else
      let g : Grant :=
        { kind := k, alloc := e.alloc, start := e.start, len := e.len, b := e.b, q := e.q, c := e.c, e := e.e, prof := e.prof
          fn := fn, eqd := c.eqdFor x fn, plen := c.f (LPx_PROF_LEN_LEN x e.prof), pat := c.reg (LPx_PROF_PAT x e.prof) }
      (c.addGrant x g, n + 1)

/-- The BWmap of a frame, in order. -/
def Chip.bwMap (c : Chip) (x : Line) (fn cnt : Nat) (f : FrameBody) : Chip :=
  let r := (List.range cnt).foldl (fun r i =>
    let at_ := 32 + 16 * i
    Chip.bwEntry r.1 x fn (slice f.payload at_ 16) (anyErrored f.bad at_ 16) r.2) (c, 0)
  r.1.put (LPx_GRANT_STATUS_ACCEPTED x) r.2

/-- The FN of a frame in Sync (R45): the header's when it continues, else the previous FN plus 1 with a jump
remembered, and the jump adopted when a second header continues it. The answer tells the FN and whether it
was adopted. -/
def Chip.frameNumber (c : Chip) (x : Line) (crcOk : Bool) (fn : Nat) : Chip × Nat × Bool :=
  let l := c.line x
  let want := (l.fn + 1) % 2 ^ 48
  if !crcOk then
    (((c.count (N_LNx_HDR_ERR x)).raise (LNx_ALARM_HDR_ERR x)).modLine x fun l => { l with fn := want }, want, false)
  else if fn = want then (c.modLine x fun l => { l with fn := want, recalled := none }, want, false)
  else if l.recalled.any fun r => (r + 1) % 2 ^ 48 == fn then
    ((c.modLine x fun l => { l with fn := fn, recalled := none }).raise (LNx_ALARM_FN_JUMP x), fn, true)
  else (c.modLine x fun l => { l with fn := want, recalled := some fn }, want, false)

/-- What the decoder reports of a frame enters the counters and alarms (R39, R40, R47, R48). -/
def Chip.decoderReport (c : Chip) (x : Line) (f : FrameBody) (bad : List Nat) : Chip :=
  let c := (c.count (N_LNx_CORR_SYM x) f.corrSymbols).count (N_LNx_CORR_CW x) f.corrWords
  let c := (c.count (N_LNx_CORR_BITS x) f.corrBits).count (N_LNx_UCW x) bad.length
  let c := if bad = [] then c else c.count (N_LNx_ERR_FRAMES x)
  let slack := decide (f.complete < 2204)
  let c := c.count (N_LNx_STUFF_SYM x) f.stuffed
  let c := c.put (LNx_STUFF_MAX_MAX x) (max (c.f (LNx_STUFF_MAX_MAX x)) (if slack then 5056 else f.stuffed))
  let c := if slack then (c.count (N_LNx_SLACK_OVR x)).raise (LNx_ALARM_SLACK_OVR x) else c
  let c := if f.stuffBad = 0 then c else (c.count (N_LNx_STUFF_VIOL x) f.stuffBad).raise (LNx_ALARM_STUFF_VIOL x)
  c.erroredBits x (f.corrBits + 16 * bad.length)

/-- Whether a header is usable under R60, before the checks of R61; the counts out of range are counted. -/
def Chip.headerUsable (c : Chip) (x : Line) (h : List Byte) (crcOk : Bool) : Chip × Bool :=
  if !crcOk then (c, false)
  else
    let c := c.put (LPx_HDR_STATUS_VER x) (byteAt h 9 / 16)
    if byteAt h 9 / 16 ≠ 1 || 512 < beAt h 10 2 % 1024 || 64 < byteAt h 12 % 128 || 4096 < beAt h 13 2 % 8192 then
      ((c.count (N_LPx_AREA_BAD x)).raise (LPx_FRM_ALARM_AREA_BAD x), false)
    else (c, true)

/-- The checks of R61 on a header usable under R60, with HE_ID_CHG. -/
def Chip.headerIdentity (c : Chip) (x : Line) (h : List Byte) : Chip × Bool :=
  let he := beAt h 6 2
  let lineId := byteAt h 8 / 128
  let c := if (c.line x).heSeen.any (· != he) then c.raise (LPx_FRM_ALARM_HE_ID_CHG x) else c
  let c := (c.modLine x fun l => { l with heSeen := some he }).put (LPx_HDR_STATUS_HE_ID x) he
  let badLine := c.flag (LPx_FRAME_CFG_LINE_ID_CHK x) && lineId != x.idx
  let badHe := c.flag (LPx_FRAME_CFG_HE_ID_CHK x) && he != c.f (LPx_FRAME_CFG_HE_ID_EXP x)
  let c := if badLine then c.raise (LPx_FRM_ALARM_LINE_MISMATCH x) else c
  let c := if badHe then c.raise (LPx_FRM_ALARM_HE_ID_MISMATCH x) else c
  if badLine || badHe then (c.count (N_LPx_ID_MISMATCH x), false) else (c, true)

/-- A usable header with or without ESA (R62, R107): the ESA run, and the stop it leads to. -/
def Chip.esa (c : Chip) (x : Line) (esa : Bool) : Chip :=
  if !esa then c.modLine x fun l => { l with esaRun := 0 }
  else
    let n := (c.line x).esaRun + 1
    let c := (c.dropGrants x).raise (LPx_FRM_ALARM_ESA_SEEN x)
    let c := if n = 1 then c.raise (LPx_ACT_ALARM_ESA_STOP x) else c
    let c := c.modLine x fun l => { l with esaRun := n }
    let lim := c.f (LPx_ACT_TMR0_ESA_SIL x)
    if (if lim = 0 then 1 else lim) ≤ n && c.actState x ≠ stDark && c.actState x ≠ stSilenced then
      c.modLine x fun l => { l with stopSrc := some 1 }
    else c

/-- The downstream types of Table 3.5. -/
def knownType (t : Nat) : Bool := [0x01, 0x02, 0x03, 0x04, 0x05, 0x06, 0x07, 0x08, 0x09, 0x0A, 0x10, 0x11, 0x12, 0x13].contains t

/-- A message of a frame whose type is not downstream (R72 steps 1 and 2); the types of Table 3.5 are rows of
their own. -/
def Chip.strayMessage (c : Chip) (x : Line) (m : List Byte) (errored : Bool) : Chip :=
  let tid := beAt m 0 2 / 64
  if knownType (byteAt m 2) || (tid != c.f (LPx_IDENT_TID x) && tid != 0x3FF) || !c.hearsMessages x then c
  else if errored then c.count (N_LPx_MSG_ERRD x)
  else c.count (N_LPx_MSG_UNKNOWN x)

/-- A frame delivered to the line protocol (R57 to R76). -/
def Chip.frame (c : Chip) (x : Line) (f : FrameBody) : Chip :=
  let bad := f.bad ++ ((List.range (2204 - f.complete)).map (· + f.complete)).filter fun i => !f.bad.contains i
  let f := { f with bad := bad }
  let c := c.decoderReport x f bad
  let h := slice f.payload 0 32
  let crcOk := headerCrcOk h && !anyErrored bad 0 32
  let n := c.frameNumber x crcOk (headerFn h)
  let c := if n.2.2 then n.1.fnAdopted x n.2.1 else n.1
  let fn := n.2.1
  let u := c.headerUsable x h crcOk
  let i := if u.2 then u.1.headerIdentity x h else (u.1, false)
  let c := i.1
  if !i.2 then (((c.count (N_LPx_PKT_AREA_LOST x)).containersErrored x fn).modLine x fun l => { l with area := none }).watchGrants x []
  else
    let flags := byteAt h 8
    let nb := beAt h 10 2 % 1024
    let nm := byteAt h 12 % 128
    let nc := beAt h 13 2 % 8192
    let c := ((((c.put (LPx_HDR_STATUS_LINE_ID x) (flags / 128)).putB (LPx_HDR_STATUS_TM x) (bitOf flags 6)).putB (LPx_HDR_STATUS_TODV x) (bitOf flags 5)).putB (LPx_HDR_STATUS_ESA x) (bitOf flags 4))
    let c := ((c.put (LPx_AREA_STATUS_BWMAP_CNT x) nb).put (LPx_AREA_STATUS_MSG_CNT x) nm).put (LPx_AREA_STATUS_CONT_CNT x) nc
    let c := c.esa x (bitOf flags 4)
    let c := if c.actState x = stListening then (c.modLine x fun l => { l with usableRun := l.usableRun + 1 }).tryAnnounce x else c
    let before := (c.line x).grants
    let c := if bitOf flags 4 then c.put (LPx_GRANT_STATUS_ACCEPTED x) 0 else c.bwMap x fn nb f
    let c := (List.range nm).foldl (fun c i => let at_ := 32 + 16 * nb + 64 * i
      c.strayMessage x (slice f.payload at_ 64) (anyErrored bad at_ 64)) c
    let base := 32 + 16 * nb + 64 * nm
    let c := c.containersRx x fn nc fun i => (slice f.payload (base + 40 * i) 40, anyErrored bad (base + 40 * i) 40)
    let c := c.advance x (base + 40 * nc)
    c.watchGrants x ((c.line x).grants.filter fun g => !before.contains g)

/-- DOWNSTREAM_FRAME (R57): one frame of a line in Sync. -/
def execDownstreamFrame (x : Line) (r : FrameRx) (s : State) : Out := run s fun c =>
  if c.inSync x && c.isOn (protoDom x) then
    let c := c.toCif (4 + x.idx) (c.f (LNx_SYNC_CIF_CIF x))
    let f := match r with
      | .decoded f => f
      | .symbols ls => decodeFrame ((c.line x).fn + 1) (c.flag (LNx_RX_STATUS_PINV x)) ls
    c.frame x f
  else c

end Sys2Proof.Machine
end

