-- ==== Sys2Proof/Machine/LinkDown.lean ====
section
/-! DEFINITION. The fall of an Ethernet port's link, which a link report, a commit and the safe state share
(spec/09_ethernet_ports.md, R213, R220, R226; spec/16_integrity.md, R391). -/

namespace Sys2Proof.Machine
open Sys2Proof

/-- An Ethernet port's state. -/
def Chip.port (c : Chip) (n : Nat) : EthPort := Map.get {} c.ports n

/-- The chip with an Ethernet port's state changed. -/
def Chip.modPort (c : Chip) (n : Nat) (g : EthPort → EthPort) : Chip := { c with ports := Map.set {} c.ports n (g (c.port n)) }

/-- The PTP master stops on a port (R344). -/
def Chip.ptpStop (c : Chip) (n : Nat) : Chip :=
  if bitOf (c.f MBX_PTP_STATUS_SENDING) n then
    let c := c.lowerBit MBX_PTP_STATUS_SENDING n
    if bitOf (c.f NTU_PTP_PORTS_EN) n then c.raise MBX_ALARM_PTP_STOP else c
  else c

/-- Preemption of a port with its link down: not in use, and verification waits to begin again (R226, R290). -/
def Chip.mmDown (c : Chip) (n : Nat) : Chip :=
  if 4 ≤ n then c else
  let c := ((c.stop (.verify n)).modPort n fun e => { e with tries := 0 }).lower (ETH_STATUS_MM_ACTIVE n)
  let c := c.put (ETH_STATUS_MM_VERIFY n) (b2n (c.flag (ETH_MM_PREEMPT_EN n) && !c.flag (ETH_MM_VERIFY_DIS n)))
  c.lowerBit NTU_BND_LOST_PORTS n

/-- LINK falls (R213, R220): its alarm, and the frame that was leaving is lost and counted. -/
def Chip.linkFalls (c : Chip) (n : Nat) : Chip :=
  if !c.flag (ETH_STATUS_LINK n) then c else
  let e := c.port n
  let c := ((c.lower (ETH_STATUS_LINK n)).raise (ETH_ALARM_LINK_DOWN n)).count (N_ETHP_TX_LINKDOWN_DROP n) (b2n e.tx.isSome + b2n e.parked.isSome)
  ((c.modPort n fun e => { e with tx := none, parked := none, rebuild := none }).mmDown n).ptpStop n

end Sys2Proof.Machine
end

