-- ==== Sys2Proof/Machine/Integrity.lean ====
section
/-! DEFINITION. The integrity monitor: fault classes, the fault log, reactions, the safe state and the
Porters (spec/16_integrity.md, R387 to R402). -/

namespace Sys2Proof.Machine
open Sys2Proof

/-- A fault-log entry written at the ring's next position (R401, R402). -/
def Chip.logEntry (c : Chip) (r : FaultReport) (react : Nat) : Chip :=
  let i := c.itm
  let e : LogEntry :=
    { w0 := BitVec.ofNat 32 c.nt.fn
      w1 := BitVec.ofNat 32 (c.nt.cif * 2 ^ 14 + r.cls * 2 ^ 4 + react)
      w2 := BitVec.ofNat 32 (r.dom % 64 * 2 ^ 26 + r.loc % 2 ^ 26)
      w3 := BitVec.ofNat 32 (i.seq % 2 ^ 16 * 2 ^ 16 + r.detail % 2 ^ 16) }
  let full := decide (256 ≤ i.uncopied)
  let c := { c with itm := { i with
    log := Map.set {} i.log i.next e, seq := (i.seq + 1) % 2 ^ 16, next := (i.next + 1) % 256,
    uncopied := if full then 256 else i.uncopied + 1 } }
  if full then c.count N_ITM_LOG_LOST else c

/-- One fault detected: its counter, its status and active bits, and its log entry. A class 0 entry for a
location logged within the last second is counted and not written (R387, R388, R401). -/
def Chip.detect (c : Chip) (r : FaultReport) : Chip :=
  let c := c.count (N_ITM_CLASS0 + 8 * r.cls)
  let c := c.raiseBit ITM_FAULT_STATUS_CLASS r.cls
  let c := if r.active then c.raiseBit ITM_FAULT_ACTIVE_CLASS r.cls else c
  let key := r.dom % 64 * 2 ^ 26 + r.loc % 2 ^ 26
  if r.cls = 0 && (c.itm.eccSeen.any fun e => e.1 == key && decide (c.now < e.2 + secCcy)) then c.count N_ITM_ECC_CORR
  else
    let c := if r.cls = 0 then
        { c with itm := { c.itm with eccSeen := (key, c.now) :: c.itm.eccSeen.filter (fun e => e.1 != key) } } else c
    c.logEntry r (c.reaction r.cls)

/-- Entry to the safe state (R391): FAULT_N low, both Porters shut, every pending grant discarded, and every
Ethernet lane idle, so that no link is up. The tributaries follow the ACTIVE bit. -/
def Chip.enterSafe (c : Chip) (cls : Nat) : Chip :=
  if c.flag ITM_SAFE_ACTIVE then c else
  let c := (c.put ITM_SAFE_ACTIVE 1).put ITM_SAFE_CLASS cls
  let c := { c.count N_ITM_SAFE_ENTRY with itm := { c.itm with faultLow := true } }
  (List.range 20).foldl Chip.linkFalls ((c.darken .a).darken .b)

/-- What a reset reaction keeps: the log and its pointers, ITM_RST_CAUSE, each Porter's violation and count,
and the OTP values read; the flash, the pins and the outside world are no part of the reset (R393). -/
def Chip.restart (c : Chip) (cls : Nat) : Chip :=
  let z : Chip := {}
  let z := { z with
    now := c.now, trust := c.trust, keys := { z.keys with imports := c.keys.imports }, cfg := { z.cfg with maps := c.cfg.maps, nextFw := c.cfg.nextFw }, freeCtr := c.freeCtr, emitted := c.emitted, pins := c.pins, flash := c.flash, boot := { z.boot with fromStep := 3, otpRead := c.boot.otpRead }
    itm := { z.itm with log := c.itm.log, seq := c.itm.seq, next := c.itm.next, uncopied := c.itm.uncopied, copied := c.itm.copied, eccSeen := c.itm.eccSeen, resets := c.now :: c.itm.resets, wdog := cls == 10 } }
  let z := z.setReg ITM_RST_CAUSE (c.reg ITM_RST_CAUSE)
  let z := z.setReg (ITM_PTR_STATUS .a) (c.reg (ITM_PTR_STATUS .a))
  let z := z.setReg (ITM_PTR_STATUS .b) (c.reg (ITM_PTR_STATUS .b))
  let z := z.lower TOP_INT_STATUS_PORST
  let z := ((z.raise ITM_RST_CAUSE_VALID).put ITM_RST_CAUSE_CLASS cls)
  z.put ITM_RST_CAUSE_COUNT z.itm.resets.length

/-- A reset reaction, or the safe state when too many fell within 600 s (R393). -/
def Chip.resetReaction (c : Chip) (cls : Nat) : Chip :=
  let recent := c.itm.resets.filter fun t => decide (c.now < t + 600 * secCcy)
  let c := { c with itm := { c.itm with resets := recent } }
  let lim := c.f ITM_RST_CAUSE_RST_MAX
  if (if lim = 0 then 3 else lim) < recent.length + 1 then
    (c.put ITM_RST_CAUSE_COUNT recent.length).raise ITM_RST_CAUSE_STORM |>.enterSafe cls
  else c.restart cls

/-- The class with the strongest reaction, the lowest class first. -/
def Chip.strongest (c : Chip) (rs : List FaultReport) : Option FaultReport :=
  rs.foldl (fun b r => match b with
    | none => some r
    | some q => if c.reaction q.cls < c.reaction r.cls then some r else some q) none

/-- Faults detected in one ccy: entries in ascending class order, then the strongest reaction among them; a reset supersedes
a safe state in progress, but not one that class 17 led to, which only power-on reset ends (R388, R389, R394). -/
def Chip.faults (c : Chip) (rs : List FaultReport) : Chip :=
  let rs := (List.range 18).flatMap fun k => rs.filter fun r => r.cls == k
  let c' := rs.foldl Chip.detect c
  let c' := if rs.any fun r => r.cls == 17 then { c' with itm := { c'.itm with monitorLost := true } } else c'
  match c.strongest rs with
  | none => c'
  | some r =>
    match c.reaction r.cls with
    | 2 => c'.enterSafe r.cls
    | 3 => if c'.itm.monitorLost then c'.enterSafe 17 else c'.resetReaction r.cls
    | _ => c'

/-- One fault. -/
def Chip.fault (c : Chip) (cls dom loc detail : Nat) (active : Bool) : Chip :=
  c.faults [{ cls := cls, dom := dom, loc := loc, detail := detail, active := active }]

/-- A Porter violation (R395, R397): the kind, the count, class 14, the gate shut and the line rogue. -/
def Chip.porterViolation (c : Chip) (x : Line) (kinds : Nat) : Chip :=
  if kinds % 64 = 0 then c else
  let c := c.put (ITM_PTR_STATUS_KIND x) (c.f (ITM_PTR_STATUS_KIND x) ||| kinds)
  let c := c.put (ITM_PTR_STATUS_COUNT x) (min 15 (c.f (ITM_PTR_STATUS_COUNT x) + 1))
  let c := c.raise (ITM_PTR_STATUS_HELD x)
  let c := (c.shutGate x).rogue x
  c.fault 14 0 x.idx kinds false

/-- Whether a Porter violation may be cleared: the conditions of R397. -/
def Chip.porterClearable (c : Chip) (x : Line) (pinIdle checkOk : Bool) : Bool :=
  let k := c.f (ITM_PTR_STATUS_KIND x)
  let lim := c.f (ITM_PTR_CFG_MAX x)
  (pinIdle || !(bitOf k 2 || bitOf k 3)) && (checkOk || !(bitOf k 4 || bitOf k 5)) &&
    decide (c.f (ITM_PTR_STATUS_COUNT x) < (if lim = 0 then 1 else lim))

/-- ITM_PTRx_CTRL.CLR from a local master (R397); announcing is no longer barred (Table 4.2). -/
def Chip.porterClear (c : Chip) (x : Line) (pinIdle checkOk : Bool) : Chip :=
  if c.porterClearable x pinIdle checkOk then
    (((c.lower (ITM_PTR_STATUS_HELD x)).put (ITM_PTR_STATUS_KIND x) 0).lower (LPx_ACT_ALARM_STATE_ROGUE x)).tryAnnounce x
  else c.raise (ITM_PTR_STATUS_CLR_REF x)

/-- ITM_SAFE.EXIT (R392, R394): accepted only when no class with reaction 2 is active. -/
def Chip.safeExit (c : Chip) : Chip :=
  if !c.flag ITM_SAFE_ACTIVE then c
  else if c.itm.monitorLost || (List.range 18).any (fun k => c.reaction k == 2 && bitOf (c.f ITM_FAULT_ACTIVE_CLASS) k) then
    c.raise ITM_SAFE_EXIT_REF
  else
    let c := c.lower ITM_SAFE_ACTIVE
    { c with itm := { c.itm with faultLow := false } }

/-- A fault-log entry read into ITM_LOG_DATA0 to 3 (R401, R358). -/
def Chip.logRead (c : Chip) (index : Nat) : Chip :=
  let e := Map.get {} c.itm.log (index % 256)
  let c := (c.put ITM_LOG_ADDR_INDEX index).raise ITM_LOG_ADDR_DONE
  (((c.setReg (ITM_LOG_DATA 0) e.w0).setReg (ITM_LOG_DATA 1) e.w1).setReg (ITM_LOG_DATA 2) e.w2).setReg (ITM_LOG_DATA 3) e.w3

/-- A write of ITM_WDOG_KICK restarts the watchdogs of the pairs named (R405). -/
def Chip.kick (c : Chip) (pairs : Nat) : Chip :=
  (List.range 2).foldl (fun c p => if bitOf pairs p then c.start (.watchdog p) msCcy else c) c

/-- The class 9 and TWARN thresholds in °C: the registers, or the grade's values of Table 17.14. -/
def Chip.tempLimits (o : Otp) (c : Chip) : Int × Int :=
  let crit := c.f ITM_TEMP_THR_CRIT
  let warn := c.f ITM_TEMP_THR_WARN
  let top := if o.grade = 1 then 110 else 125
  (if crit = 0 then top + 5 else crit, if warn = 0 then top - 10 else warn)

/-- One sensor cycle (R387): the four temperatures, TWARN, and class 9 above the critical threshold. -/
def Chip.tempSample (c : Chip) (o : Otp) (ts : List Nat) : Chip :=
  let c := (List.range 4).foldl (fun c n => c.put (ITM_TEMP_TJ n) (ts.getD n 0)) c
  let lim := c.tempLimits o
  let hot := (List.range 4).filter fun n => decide (signed 9 (ts.getD n 0) > lim.1)
  let c := c.putB ITM_VMON_STATUS_TWARN ((List.range 4).any fun n => decide (signed 9 (ts.getD n 0) > lim.2))
  match hot with
  | [] => c.lowerBit ITM_FAULT_ACTIVE_CLASS 9
  | n :: _ => if bitOf (c.f ITM_FAULT_ACTIVE_CLASS) 9 then c else c.fault 9 49 n 0 true

end Sys2Proof.Machine
end

