-- ==== Sys2Proof/Machine/Burst.lean ====
section
/-! DEFINITION. Upstream bursts: the assembler, late binding, the burst header and the burst itself
(spec/03_access_line_frames.md R79 to R87, spec/06_carriage_and_bursts.md R152 to R158, spec/04 R95 and R97). -/

namespace Sys2Proof.Machine
open Sys2Proof

/-! ## Grants being built -/

/-- The instant of a grant's word 0 in ccy of NT from FN 0: the line's own frames begin SYNC_CIF after NT's. -/
def Chip.grantAt (c : Chip) (x : Line) (g : Grant) : Nat := grantInstant g + c.f (LNx_SYNC_CIF_CIF x)

/-- A grant replaced; no two pending grants of a line start at one instant (R68). -/
def Chip.putGrant (c : Chip) (x : Line) (g : Grant) : Chip :=
  c.modLine x fun l => { l with grants := l.grants.map fun h => if grantInstant h = grantInstant g then g else h }

/-- The earlier of two grants. -/
def earlier (a b : Grant) : Grant := if grantInstant b < grantInstant a then b else a

/-- The earliest pending grant of a line that meets a condition. -/
def Chip.firstGrant (c : Chip) (x : Line) (p : Grant → Bool) : Option Grant :=
  match (c.line x).grants.filter p with
  | [] => none
  | g :: r => some (r.foldl earlier g)

/-- Whether a grant is assembled from codewords that commit: every one but announce grants, and default grants in
Ranging (R95, R97). -/
def Chip.assembled (c : Chip) (x : Line) (g : Grant) : Bool :=
  g.kind != .announce && c.actState x != stRanging

/-- The data bytes of the first `n` codewords of a grant. -/
def codewordBytes (len n : Nat) : Nat := ((burstCodewords len).take n).foldl (· + ·) 0

/-- The report set of a line (R85): its allocation ports bound with the report flag, ascending. -/
def Chip.reportSet (c : Chip) (x : Line) : List Nat :=
  (List.range 64).filter fun n => c.flag (LPx_ALLOC_VALID x n) && c.flag (LPx_ALLOC_REPORT x n)

/-- The bytes of the burst header, of the queue report and of the containers of a grant (R82, R85, R86). -/
def Chip.regionParts (c : Chip) (x : Line) (g : Grant) : Nat × Nat × Nat :=
  let d := burstCapacity g.len
  let h := if g.b || g.q then 16 else 0
  let r := if g.q then 4 * min (c.reportSet x).length ((d - 16) / 4) else 0
  let k := if g.c then 40 * min (c.builtFor x g.fn).length ((d - h - r) / 40) else 0
  (h, r, k)

/-- The bytes before the carriage part. -/
def Chip.regionLength (c : Chip) (x : Line) (g : Grant) : Nat :=
  match g.hdr with
  | some h => h.length
  | none => let p := c.regionParts x g; p.1 + p.2.1 + p.2.2

/-- Where the carriage frames placed so far end. -/
def Chip.placedEnd (c : Chip) (x : Line) (g : Grant) : Nat :=
  g.placed.foldl (fun n p => max n (p.start + p.wire.length)) (c.regionLength x g)

/-- The data bytes left in a grant. -/
def Chip.room (c : Chip) (x : Line) (g : Grant) : Nat := burstCapacity g.len - c.placedEnd x g

/-! ## Carriage frames going up -/

/-- The generation of a flow's key for a grant's FN, and its roll count (R110). -/
def LineState.upRoll (l : LineState) (f fn : Nat) : Nat :=
  l.rolled f + b2n (l.rolls.any fun r => decide (r.first ≤ f) && decide (f ≤ r.last) && decide (r.fn ≤ fn))

/-- The key of a line's flow going up, when PD09 holds it (R145). -/
def Chip.upKey (c : Chip) (x : Line) (flow fn : Nat) : Option (List Byte) :=
  if !c.isOn 9 then none else (c.line x).lineKey.map fun lk => carriageKey lk flow ((c.line x).upRoll flow fn)

/-- Whether a frame of a flow can be sent on a line now: untagged, or with its key at hand. -/
def Chip.sendable (c : Chip) (x : Line) (flow fn : Nat) : Bool := !c.tagged x flow || (c.upKey x flow fn).isSome

/-- The bytes that a carriage frame has beside its payload: header and tag (R137). -/
def Chip.frameCost (c : Chip) (x : Line) (flow : Nat) : Nat := if c.tagged x flow then 26 else 10

/-- A carriage frame as sent (R137, R138, R144, R152). -/
def Chip.wireFrame (c : Chip) (x : Line) (g : Grant) (h : CarriageHeader) (payload : List Byte) : List Byte :=
  let hb := h.bytes
  if c.tagged x h.flow then
    let key := (c.upKey x h.flow g.fn).getD []
    let r := Config.gcmEncrypt key (carriageIv x true g.fn h.flow h.seq h.fidx) (slice hb 0 8) payload
    hb ++ slice r.1 0 payload.length ++ slice r.2 0 16
  else hb ++ payload

/-- Idle fill of a number of data bytes (R154): idle frames, and 0x00 where none fits. -/
def idleFill : Nat → Nat → List (List Byte)
  | 0, _ => []
  | n + 1, room =>
    if room < 10 then [] else
    let len := min (room - 10) 16383
    let h : CarriageHeader := { len := len, flow := 0xFFF, first := true, last := true, kg := 0, express := false, seq := 0, fidx := 0 }
    (h.bytes ++ fill len 0) :: idleFill n (room - 10 - len)

/-- One carriage frame of a stored frame placed at the end of those placed (R153, R155, R199): `n` payload bytes from
those not yet sent. -/
def Chip.placeFrame (c : Chip) (x : Line) (g : Grant) (q : Nat) (r : QRef) (f : Frame) (p n : Nat) : Chip × Grant :=
  let rest := f.bytes.length - r.sent
  let last := decide (rest ≤ n)
  let h : CarriageHeader :=
    { len := n, flow := f.uflow, first := r.fidx == 0, last := last, kg := (c.line x).upRoll f.uflow g.fn % 2
      express := c.isExpress q, seq := f.seq, fidx := r.fidx }
  let pf : PlacedFrame :=
    { start := c.placedEnd x g, queue := some q, frame := r.frame, offset := r.sent, len := n
      wire := c.wireFrame x g h (slice f.bytes r.sent n), flow := f.uflow, fidx := r.fidx, last := last }
  let c := c.modRef q r.frame fun r => { r with sent := r.sent + n, fidx := if last then r.fidx else r.fidx + 1, taken := last }
  let g := { g with placed := g.placed ++ [pf] }
  ((c.owe q (n + c.overhead p)).putGrant x g, g)

/-- The bytes of a bulk packet (Table 6.5): a line message has the MIC of the grant that carries it. -/
def Chip.bulkPacket (c : Chip) (x : Line) (g : Grant) (b : BulkItem) : List Byte :=
  let body := if b.message then
      b.bytes ++ (match (c.line x).micKey with
        | some k => slice (micOf k g.fn true x b.bytes) 0 8
        | none => fill 8 0)
    else b.bytes
  beBytes 1 (if b.message then 1 else 2) ++ beBytes 1 b.type ++ fill 2 0 ++ beBytes 4 body.length ++ beBytes 4 0 ++ body

/-- One bulk carriage frame placed. -/
def Chip.placeBulk (c : Chip) (x : Line) (g : Grant) (b : BulkItem) (n : Nat) : Chip × Grant :=
  let bytes := c.bulkPacket x g b
  let last := decide (bytes.length - b.sent ≤ n)
  let h : CarriageHeader :=
    { len := n, flow := 0xFFE, first := b.fidx == 0, last := last, kg := (c.line x).upRoll 0xFFE g.fn % 2
      express := false, seq := b.id % 2 ^ 24, fidx := b.fidx }
  let pf : PlacedFrame :=
    { start := c.placedEnd x g, queue := none, frame := b.id, offset := b.sent, len := n
      wire := c.wireFrame x g h (slice bytes b.sent n), flow := 0xFFE, fidx := b.fidx, last := last }
  let c := c.modBulk x b.id fun b => { b with sent := b.sent + n, fidx := if last then b.fidx else b.fidx + 1, taken := last }
  let g := { g with placed := g.placed ++ [pf] }
  (c.putGrant x g, g)

/-- What R153 decides for a frame with `rest` bytes to go: the bytes to send, or none; and whether the 16th fragment
stopped it. -/
def fragmentRule (frag : Bool) (cost room rest fidx : Nat) : Option Nat × Bool :=
  if rest + cost ≤ room then (some rest, false)
  else if fidx = 15 then (none, true)
  else if !frag || room < 64 + cost || rest < 128 then (none, false)
  else (some (min (room - cost) (rest - 64)), false)

/-- A frame of a flow not enabled upstream discarded at selection (R152). -/
def Chip.flowOffUp (c : Chip) (x : Line) (q id : Nat) : Chip :=
  (((c.release q id).emptied q).count (N_CAR_US_FLOW_OFF x)).raise (carAlarm x 7)

/-- Whether a flow is enabled upstream on a line (Table 6.2). -/
def Chip.flowUp (c : Chip) (x : Line) (flow : Nat) : Bool := natBits (c.tab 0 flow) (29 - x.idx) 1 == 1

/-- What one step of the assembler did. -/
inductive PlaceStep where
  | again | expressDone | stop
  deriving DecidableEq, Repr

/-- One selection among the express queues of a grant's port (R155). -/
def Chip.stepExpress (c : Chip) (x : Line) (g : Grant) (p : Nat) : Chip × Grant × PlaceStep :=
  if g.deferred then (c, g, .expressDone) else
  match c.selectExpress p (some g.fn) g.e with
  | none => (c, g, .expressDone)
  | some (c, q, _) =>
    match (c.headRef q).bind fun r => (c.frame? r.frame).map fun f => (r, f) with
    | none => (c, g, .expressDone)
    | some (r, f) =>
      let parts := c.regionParts x g
      if !c.readable f then (c.bankLoss f.id, g, .again)
      else if !c.flowUp x f.uflow then (c.flowOffUp x q f.id, g, .again)
      else if !c.sendable x f.uflow g.fn then (c, g, .expressDone)
      else if f.bytes.length + 26 ≤ c.room x g then
        let r := c.placeFrame x g q r f p f.bytes.length
        (r.1, r.2, .again)
      else if g.e && decide (burstCapacity g.len - (parts.1 + parts.2.1 + parts.2.2) < f.bytes.length + 26) then
        ((((c.release q f.id).emptied q).count (N_CAR_EXP_TOOBIG x)).raise (carAlarm x 6), g, .again)
      else
        let g := { g with deferred := true }
        let c := c.modRef q r.frame fun r => { r with waitsE := true }
        ((c.count (N_CAR_EXP_DEFER x)).putGrant x g, g, .expressDone)

/-- One selection among the hierarchy of a grant's port (R153). -/
def Chip.stepOther (c : Chip) (x : Line) (g : Grant) (p : Nat) : Chip × Grant × PlaceStep :=
  match c.selectOther p (some g.fn) with
  | none => (c, g, .stop)
  | some (c, q, _) =>
    match (c.headRef q).bind fun r => (c.frame? r.frame).map fun f => (r, f) with
    | none => (c, g, .stop)
    | some (r, f) =>
      if !c.readable f then (c.bankLoss f.id, g, .again)
      else if !c.flowUp x f.uflow then (c.flowOffUp x q f.id, g, .again)
      else if !c.sendable x f.uflow g.fn then (c, g, .stop)
      else
        let rest := f.bytes.length - r.sent
        match fragmentRule (c.flag CAR_CFG_UP_FRAG_EN) 26 (c.room x g) rest r.fidx with
        | (some n, _) =>
          let t := c.placeFrame x g q r f p n
          (t.1, t.2, if n = rest then .again else .stop)
        | (none, true) =>
          if g.held then (c, g, .stop)
          else let g := { g with held := true }; ((c.count (N_CAR_FRAG_WAIT x)).putGrant x g, g, .stop)
        | (none, false) => (c, g, .stop)

/-- One bulk item of a default grant (R150, R153). -/
def Chip.stepBulk (c : Chip) (x : Line) (g : Grant) : Chip × Grant × PlaceStep :=
  match (c.line x).bulkOut.find? fun b => !b.taken with
  | none => (c, g, .stop)
  | some b =>
    if (b.afterFn.any fun a => decide (g.fn ≤ a)) || !c.sendable x 0xFFE g.fn then (c, g, .stop)
    else
      let rest := (c.bulkPacket x g b).length - b.sent
      match fragmentRule (c.flag CAR_CFG_UP_FRAG_EN) (c.frameCost x 0xFFE) (c.room x g) rest b.fidx with
      | (some n, _) => let t := c.placeBulk x g b n; (t.1, t.2, if n = rest then .again else .stop)
      | (none, true) =>
        if g.held then (c, g, .stop)
        else let g := { g with held := true }; ((c.count (N_CAR_FRAG_WAIT x)).putGrant x g, g, .stop)
      | (none, false) => (c, g, .stop)

/-- One step of the assembler in a grant. -/
def Chip.placeStep (c : Chip) (x : Line) (g : Grant) (express : Bool) : Chip × Grant × PlaceStep :=
  match g.kind with
  | .port k => if express then c.stepExpress x g (allocPort x k) else c.stepOther x g (allocPort x k)
  | _ => if express then (c, g, .expressDone) else c.stepBulk x g

/-- The assembler run until it can place nothing more: express first, then the rest. -/
def Chip.assemble : Nat → Chip → Line → Grant → Bool → Chip × Grant
  | 0, c, _, g, _ => (c, g)
  | n + 1, c, x, g, express =>
    match c.placeStep x g express with
    | (c, g, .again) => Chip.assemble n c x g express
    | (c, g, .expressDone) => Chip.assemble n c x g false
    | (c, g, .stop) => (c, g)

/-- Whether the carriage part can be built: the carriage block works, and for a port's grant the scheduler too. -/
def Chip.canAssemble (c : Chip) (g : Grant) : Bool :=
  c.isOn 8 && (match g.kind with
    | .port _ => c.schedulerWorks
    | .default => true
    | .announce => false)

/-- The steps the assembler may need: every frame placed or discarded once, and the turn to the hierarchy. -/
def Chip.assembleFuel (c : Chip) (x : Line) : Nat :=
  2 + (c.cooper.queues.foldl (fun n e => n + e.2.length) 0) + (c.line x).bulkOut.length

/-- A grant built again from its open bytes (R156). -/
def Chip.rebuild (c : Chip) (x : Line) (g : Grant) : Chip × Grant :=
  let c := (g.placed.reverse.filter fun p => !p.fixed).foldl (fun c p => c.displace x p) c
  let g := { g with placed := g.placed.filter (·.fixed) }
  let c := c.putGrant x g
  let ended := g.placed.any fun p => !p.last || p.flow == 0xFFF && decide (burstCapacity g.len < p.start + p.wire.length + 10)
  if c.canAssemble g && !ended then Chip.assemble (c.assembleFuel x) c x g true else (c, g)

/-! ## The burst header -/

/-- The bytes of a port's frames not yet fixed, with OVERHEAD once for each frame, in 256-byte units (R204). -/
def Chip.occupancyOf (c : Chip) (x : Line) (k : Nat) : Nat :=
  let p := allocPort x k
  let open_ := fun (q id : Nat) => (c.line x).grants.foldl (fun n g =>
    g.placed.foldl (fun n f => if f.queue = some q ∧ f.frame = id ∧ f.fixed = false then n + f.len else n) n) 0
  let b := (c.queuesOf p).foldl (fun n q =>
    (c.queue q).foldl (fun n r => n + c.restBytes r + open_ q r.frame + c.overhead p) n) 0
  min 0x3FFFF (ceilDiv b 256)

/-- Whether a line has LOS, LOF or SF. -/
def Chip.lineDefect (c : Chip) (x : Line) : Bool := c.lineLost x || bitOf (c.f (LNx_ALARM_STATE_LEVEL x)) 3

/-- RDI of the burst header (R84). -/
def Chip.rdi (c : Chip) (x : Line) : Bool := bitOf (c.f (LNx_ALARM_STATE_LEVEL x)) 3 || decide (c.now < (c.line x).rdiUntil)

/-- XRDI of the burst header (R84). -/
def Chip.xrdi (c : Chip) (x : Line) : Bool := c.mode != 0 && c.lineDefect x.other

/-- The 16 bytes of the burst header (Table 3.10). -/
def Chip.headerBytes (c : Chip) (x : Line) (g : Grant) (entries : Nat) : List Byte :=
  let b := beBytes 2 (c.f (LPx_IDENT_TID x) % 1024 * 64 + b2n (c.rdi x) * 32 + b2n (c.xrdi x) * 16 + c.f (LNx_FOM_FOM_Q x) % 16) ++
    beBytes 1 (c.containerDefects x * 16) ++ beBytes 1 (b2n g.q * 128 + entries) ++ beBytes 2 (g.alloc % 2 ^ 14) ++
    beBytes 2 (c.line x).burstSeq ++ beBytes 2 (g.fn % 2 ^ 16) ++ fill 4 0
  b ++ beBytes 2 (crc16 b)

/-- The ports that a report of `n` entries names (R85): all of them, or the next `n` cyclically. -/
def reportPorts (set : List Nat) (n from_ : Nat) : List Nat :=
  if set.length ≤ n then set
  else ((set.filter fun p => decide (from_ ≤ p)) ++ (set.filter fun p => decide (p < from_))).take n

/-- The header region sampled at the commit of codeword 0 (R84 to R86). -/
def Chip.sampleHeader (c : Chip) (x : Line) (g : Grant) : Chip × Grant :=
  let d := burstCapacity g.len
  let set := if g.q then c.reportSet x else []
  let n := min set.length ((d - 16) / 4)
  let ports := reportPorts set n (c.line x).reportFrom
  let h := if g.b || g.q then c.headerBytes x g n else []
  let r := ports.flatMap fun p => beBytes 4 (c.f (LPx_ALLOC_ALLOC x p) * 2 ^ 18 + c.occupancyOf x p)
  let cut := decide (n < set.length)
  let c := if cut then ((c.count (N_LPx_QR_TRUNC x)).raise (LPx_FRM_ALARM_QR_TRUNC x)).modLine x fun l => { l with reportFrom := ports.getLastD 0 + 1 } else c
  let all := if g.c then c.builtFor x g.fn else []
  let k := (d - h.length - r.length) / 40
  let c := if k < all.length then (c.count (N_LPx_CONT_SHORT x)).raise (LPx_FRM_ALARM_CONT_SHORT x) else c
  let c := (((c.put (LPx_BURST_STATUS_CDS x) (c.containerDefects x)).putB (LPx_BURST_STATUS_XRDI x) (c.xrdi x)).putB (LPx_BURST_STATUS_RDI x) (c.rdi x)).put (LPx_BURST_STATUS_SEQ x) (c.line x).burstSeq
  let c := c.modLine x fun l => { l with burstSeq := (l.burstSeq + 1) % 2 ^ 16 }
  let g := { g with hdr := some (h ++ r ++ (all.take k).flatMap id) }
  (c.putGrant x g, g)

/-! ## Commits -/

/-- A placed frame fixed and charged (R156, R199). -/
def Chip.fixFrame (c : Chip) (p : PlacedFrame) : Chip :=
  match p.queue with
  | some q =>
    let port := (c.portOf q).getD 0
    let cost := p.len + c.overhead port
    ((c.forgive q cost).charge q port cost).bwLeave port p.len (b2n p.last)
  | none => c

/-- The idle frames from a data byte on, of which the first byte lies before `limit` (R154). -/
def idleFrames (len from_ limit : Nat) : List PlacedFrame :=
  ((idleFill 64 (burstCapacity len - from_)).foldl (fun (a : Nat × List PlacedFrame) w =>
    if a.1 < limit then
      (a.1 + w.length, a.2 ++ [{ start := a.1, queue := none, frame := 0, offset := 0, len := w.length - 10, wire := w, flow := 0xFFF, fidx := 0, last := true, fixed := true }])
    else a) (from_, [])).2

/-- The idle frames of which the first byte lies before `limit` become fixed content (R154, R156). -/
def Chip.fixIdle (c : Chip) (x : Line) (g : Grant) (limit : Nat) : Chip × Grant :=
  let from_ := c.placedEnd x g
  if limit ≤ from_ then (c, g) else
  let g := { g with placed := g.placed ++ idleFrames g.len from_ limit }
  (c.putGrant x g, g)

/-- The next codeword of a grant committed (R84, R156, R199). -/
def Chip.commitCodeword (c : Chip) (x : Line) (g : Grant) : Chip × Grant :=
  let first := decide (g.committed = 0)
  let stale := first && (g.placed = [] || (g.placed.headD ⟨0, none, 0, 0, 0, [], 0, 0, true, false⟩).start != c.regionLength x g)
  let r := if stale then c.rebuild x g else (c, g)
  let r := if first then r.1.sampleHeader x r.2 else r
  let c := r.1
  let g := r.2
  let limit := codewordBytes g.len (g.committed + 1)
  let new := g.placed.filter fun p => !p.fixed && decide (p.start < limit)
  let c := new.foldl (fun c p => c.fixFrame p) c
  let g := { g with committed := g.committed + 1, placed := g.placed.map fun p => if p.start < limit then { p with fixed := true } else p }
  (c.putGrant x g).fixIdle x g limit

/-- When the next codeword of a grant commits, in ccy of NT. -/
def Chip.commitAt (c : Chip) (x : Line) (g : Grant) : Nat := c.grantAt x g + codewordStart g.committed - 960

/-- Whether a grant has a codeword to commit. -/
def Chip.uncommitted (c : Chip) (x : Line) (g : Grant) : Bool :=
  c.assembled x g && decide (g.committed < (burstCodewords g.len).length)

/-- The grant of a line whose next commit comes first. -/
def Chip.nextCommit (c : Chip) (x : Line) : Option Grant :=
  match (c.line x).grants.filter (c.uncommitted x) with
  | [] => none
  | g :: r => some (r.foldl (fun a b => if c.commitAt x b < c.commitAt x a then b else a) g)

/-- CODEWORD_COMMIT (R156): the line's next codeword becomes final 960 ccy before its first word. -/
def execCodewordCommit (x : Line) (s : State) : Out := run s fun c =>
  if !c.isOn (txDom x) then c else
  match c.nextCommit x with
  | none => c
  | some g => ((c.elapse (c.commitAt x g - c.nt.ccy)).commitCodeword x g).1

/-- The check of the cells read for egress (R184): what it counts and reports, and whether the frame fails. -/
def Chip.cellCheck (c : Chip) (k : CellCheck) : Chip × Bool :=
  let c := c.count N_COP_ECC_CORR k.corrected
  let c := if k.uncorrectable then ((c.count N_COP_ECC_UNC).raise COP_ALARM_ECC_UNC).fault 1 24 0 0 false else c
  let c := if k.crc then ((c.count N_COP_CRC_ERR).raise COP_ALARM_CRC_ERR).fault 3 24 0 0 false else c
  (c, k.uncorrectable || k.crc)

/-- A grant built again, and the check of the cells of the first frame it read; a failing frame is never placed (R184). -/
def Chip.checkedRebuild (c : Chip) (x : Line) (g : Grant) (k : CellCheck) : Chip :=
  let r := c.rebuild x g
  match r.2.placed.find? fun p => !p.fixed && p.queue.isSome with
  | none => r.1
  | some p =>
    let t := r.1.cellCheck k
    if t.2 then
      let c := (r.2.placed.reverse.filter fun p => !p.fixed).foldl (fun c p => c.displace x p) t.1
      let g := { r.2 with placed := r.2.placed.filter (·.fixed) }
      (((c.putGrant x g).dropFrame p.frame).rebuild x g).1
    else t.1

/-- CODEWORD_REBUILD (R153 to R156): the line's earliest open grant is built again. -/
def execCodewordRebuild (x : Line) (k : CellCheck) (s : State) : Out := run s fun c =>
  match c.firstGrant x (c.uncommitted x) with
  | none => c
  | some g => c.checkedRebuild x g k

/-- EXPRESS_STAGE (R155 to R157): an express frame of an allocation port is staged for the port's next E grant. -/
def execExpressStage (x : Line) (p : Nat) (s : State) : Out := run s fun c =>
  if c.expressQueues (allocPort x p) none = [] then c else
  match c.firstGrant x fun g => g.kind == .port p && g.e && c.uncommitted x g with
  | none => c
  | some g => (c.rebuild x g).1

/-- Whether an Ethernet port works: its mode is not 0, and both its domains are ON (R211, R212). -/
def Chip.portWorks (c : Chip) (n : Nat) : Bool := c.isOn (macDom n) && c.isOn (laneDom n) && c.f (ETH_MODE_MODE n) != 0

/-- Whether the egress of a port takes frames: an Ethernet port that works, is not paused, and has its link up or drops
while it is down (R212, R220, R223); the host port while PD41 is ON; pair 1's always. -/
def Chip.asks (c : Chip) (p : Nat) : Bool :=
  if p < 20 then c.portWorks p && !c.flag (ETH_STATUS_PAUSED p) && (c.flag (ETH_STATUS_LINK p) || c.flag (ETH_MODE_LINKDOWN_DROP p))
  else if p = 20 then c.isOn 41 else true

/-- The egress of a scheduler port asks for a frame (R200): allocation ports place it in their earliest grant, ports
0 to 20 and 22 hold it for their egress, port 21 sends it to pass 2, and port 23 hands it to pair 1. -/
def Chip.schedulerSelect (c : Chip) (p : Nat) : Chip :=
  match portLine p with
  | some x =>
    match c.firstGrant x fun g => g.kind == .port (p - allocPort x 0) && c.uncommitted x g with
    | none => c
    | some g =>
      if !c.canAssemble g then c else
      let r := c.placeStep x g true
      match r.2.2 with
      | .expressDone => (r.1.placeStep x r.2.1 false).1
      | _ => r.1
  | none =>
    let held := fun (k : Nat) => c.drover.chosen.any fun e => e.1 == k
    if p = 21 then
      let t := c.takeFrame 21
      match t.2 with
      | none => t.1
      | some f => t.1.modSorter fun s => { s with input := s.input ++ [{ ingress := f.ingress, tag := f.tag, bytes := f.bytes, pass := 1, epoch := f.epoch, ride := f.ride }] }
    else if p = 22 then
      let m := c.f DRV_CFG_MIRROR_DEST
      let d := if 19 < m then 0 else m
      if held d || !c.asks d || (c.select d none).isSome then c else
      let t := c.takeFrame 22
      match t.2 with
      | none => t.1
      | some f => t.1.modDrover fun v => { v with chosen := v.chosen ++ [(d, f)] }
    else if held p || !c.asks p then c
    else
      let t := c.takeFrame p
      match t.2 with
      | none => t.1
      | some f => if p = 23 then t.1 else t.1.modDrover fun v => { v with chosen := v.chosen ++ [(p, f)] }

/-- SCHEDULER_SELECT (R200). -/
def execSchedulerSelect (p : Nat) (s : State) : Out := run s fun c => c.schedulerSelect p

/-! ## The burst on the fibre -/

/-- Bits as 32-bit words, most significant bit first; a short last word is filled with zeros. -/
def bitWords (bs : List Bool) : List Word :=
  (bitGroups 32 (bs.length / 32 + 1) (bs ++ List.replicate (31 - (bs.length + 31) % 32) false)).map (BitVec.ofNat 32)

/-- The codeword groups of a burst: the codewords of each group before its slack word (R81). -/
def groupCodewords : Nat → List Nat → List (List Nat)
  | 0, _ => []
  | _, [] => []
  | _, [a] => [[a]]
  | n + 1, a :: b :: r => [a, b] :: groupCodewords n r

/-- A group's words: its data, scrambled and stuffed into its slack word (R50, R51, R81); `none` is a stuff overrun.
The answer carries the data left, the scrambler's state, the stuffing's last bit and run, and the bits inserted. -/
structure GroupOut where
  words : Option (List Word)
  rest : List Byte
  scr : Nat
  prev : Bool
  run : Nat
  inserted : Nat
  deriving DecidableEq, Repr

/-- The scrambler's state after `n` bits. -/
def scrambleState : Nat → Nat → Nat
  | 0, s => s
  | n + 1, s => scrambleState n (scramblerNext s)

/-- One codeword group sent. -/
def sendGroup (ks : List Nat) (data : List Byte) (scr : Nat) (prev : Bool) (run : Nat) : GroupOut :=
  let total := ks.foldl (· + ·) 0
  let cws := (ks.foldl (fun (a : List Byte × List Byte) k =>
    let w := a.2.take k
    (a.1 ++ w ++ slice (Config.rs248Parity w) 0 16, a.2.drop k)) ([], data)).1
  let bits := bytesBits cws
  let s := stuffUp (scramble scr bits) prev run
  let slack := scramble (scrambleState bits.length scr) (List.replicate 32 false)
  let st := stuffUp (slack.take (32 - s.2.1)) s.2.2.1 s.2.2.2
  { words := if 32 < s.2.1 then none else some (bitWords ((s.1 ++ st.1).take (bits.length + 32)))
    rest := data.drop total, scr := scrambleState (bits.length + 32) scr, prev := st.2.2.1, run := st.2.2.2, inserted := s.2.1 }

/-- The groups of a burst sent in order, up to one that overruns: the words, the bits inserted, the groups that passed,
and whether one overran (R87). -/
def sendGroups : List (List Nat) → List Byte → Nat → Bool → Nat → List Word × Nat × Nat × Bool
  | [], _, _, _, _ => ([], 0, 0, false)
  | ks :: r, data, scr, prev, run =>
    let o := sendGroup ks data scr prev run
    match o.words with
    | none => ([], 0, 0, true)
    | some ws =>
      let t := sendGroups r o.rest o.scr o.prev o.run
      (ws ++ t.1, o.inserted + t.2.1, t.2.2.1 + 1, t.2.2.2)

/-- The data bytes of the first `n` groups. -/
def groupBytes (gs : List (List Nat)) (n : Nat) : Nat := (gs.take n).foldl (fun a ks => a + ks.foldl (· + ·) 0) 0

/-- A burst's data bytes, from its header region, its carriage frames and zeros (R82). -/
def burstData (len : Nat) (hdr : List Byte) (placed : List PlacedFrame) : List Byte :=
  let d := placed.foldl (fun d p => splice d p.start p.wire) (slice hdr 0 (burstCapacity len))
  slice d 0 (burstCapacity len)

/-- A complete burst: preamble, delimiter, groups, pad and terminator (Tables 3.7 and 3.8). -/
def burstWords (g : Grant) (tid : Nat) (data : List Byte) : List Word × Nat × Nat × Bool :=
  let gs := groupCodewords (burstCodewords g.len).length (burstCodewords g.len)
  let r := sendGroups gs data (upSeed g.fn tid) false 0
  let pad := if r.2.2.2 then 0 else (lastPart ((g.len - 1) % 125)).2
  (List.replicate g.plen g.pat ++ [0x4B3CE1D0, 0x9F2657A8] ++ r.1 ++ List.replicate pad 0xAAAAAAAA ++ [0x5A5AA5A5], r.2)

/-- A carriage frame whose last byte was sent (R127, R153, R158): its reference released, or its bulk item done. One that a
stuff overrun had cut off was sent again. -/
def Chip.frameSent (c : Chip) (x : Line) (p : PlacedFrame) : Chip :=
  let c := c.count (N_CAR_TX_FRAMES x)
  let c := if p.last then c else c.count (N_CAR_TX_FRAGS x)
  match p.queue with
  | some q =>
    let again := (c.queue q).any fun r => r.frame == p.frame && r.afterFn.isSome
    let c := if again then (c.count (N_CAR_RESEND x)).modRef q p.frame fun r => { r with afterFn := none } else c
    if p.last then (c.release q p.frame).emptied q else c
  | none =>
    let again := (c.line x).bulkOut.any fun b => b.id == p.frame && b.afterFn.isSome
    let c := if again then (c.count (N_CAR_RESEND x)).modBulk x p.frame fun b => { b with afterFn := none } else c
    if !p.last then c else
    let attest := (c.line x).bulkOut.any fun b => b.id == p.frame && b.attest
    let c := c.modLine x fun l => { l with bulkOut := l.bulkOut.filter fun b => b.id != p.frame }
    if attest && c.actState x = stProving then
      (c.modLine x fun l => { l with proof := l.proof.map fun q => { q with sent := true } }).put (LPx_PROVE_STATUS_STEP x) 2
    else c

/-- A carriage frame cut off by a stuff overrun (R87, R158): it goes again in a grant of a later FN. -/
def Chip.frameCut (c : Chip) (x : Line) (fn : Nat) (p : PlacedFrame) : Chip :=
  let c := c.unplace x p
  match p.queue with
  | some q => c.modRef q p.frame fun r => { r with afterFn := some fn }
  | none => c.modBulk x p.frame fun b => { b with afterFn := some fn }

/-- One frame of a burst that ends after `good` data bytes (R87, R154). -/
def Chip.frameLeft (c : Chip) (x : Line) (fn good : Nat) (p : PlacedFrame) : Chip :=
  if p.flow = 0xFFF then c.count (N_CAR_IDLE_BYTES x) (min p.wire.length (good - p.start))
  else if p.start + p.wire.length ≤ good then c.frameSent x p
  else c.frameCut x fn p

/-- A burst put on the fibre at its grant's instant, and the grant done with (R49 to R52, R79 to R87). `data` are its data
bytes, `placed` the carriage frames in them. -/
def Chip.sendBurst (c : Chip) (x : Line) (g : Grant) (data : List Byte) (placed : List PlacedFrame) : Chip :=
  let lead := c.f (LNx_TX_CTRL_BEN_LEAD x)
  let opens := c.grantAt x g - 2 - g.plen - lead
  let c := c.elapse (opens - c.nt.ccy)
  let c := c.setGrants x ((c.line x).grants.filter fun h => grantInstant h != grantInstant g)
  if !c.isOn (txDom x) || c.ldoff x then (placed.foldl (fun c p => c.unplace x p) c).count (N_LPx_GRANT_LOST x) else
  let w := burstWords g (c.f (LPx_IDENT_TID x)) data
  let gs := groupCodewords (burstCodewords g.len).length (burstCodewords g.len)
  let good := groupBytes gs w.2.2.1
  let c := c.count (N_LNx_TX_STUFF_BITS x) w.2.1
  let c := if w.2.2.2 then (c.count (N_LPx_STUFF_OVR x)).raise (LPx_FRM_ALARM_STUFF_OVR x) else c
  let c := placed.foldl (fun c p => c.frameLeft x g.fn good p) c
  let c := (c.count (N_LPx_BURSTS x)).emit (.burst x g.fn (g.start) (if c.flag (LNx_TX_CTRL_TX_POL_INV x) then w.1.map (fun v => ~~~v) else w.1))
  let ends := c.now + lead + w.1.length + c.f (LNx_TX_CTRL_BEN_LAG x)
  ((c.raise (LNx_TX_STATUS_IN_BURST x)).raise (LNx_TX_STATUS_BEN x)).modLine x fun l => { l with burstEnd := some ends }

/-- The codewords that are still open at a burst's start committed, and the burst's data bytes. -/
def Chip.commitRest : Nat → Chip → Line → Grant → Chip × Grant
  | 0, c, _, g => (c, g)
  | n + 1, c, x, g => if c.uncommitted x g then let r := c.commitCodeword x g; Chip.commitRest n r.1 x r.2 else (c, g)

/-- UPSTREAM_BURST (R77 to R87): the line's earliest grant is sent. -/
def execUpstreamBurst (x : Line) (s : State) : Out := run s fun c =>
  match c.firstGrant x (c.assembled x) with
  | none => c
  | some g =>
    let c := c.elapse (c.grantAt x g - 2 - g.plen - c.f (LNx_TX_CTRL_BEN_LEAD x) - c.nt.ccy)
    let r := Chip.commitRest (burstCodewords g.len).length c x g
    r.1.sendBurst x r.2 (burstData g.len (r.2.hdr.getD []) r.2.placed) r.2.placed

/-- An announce or ranging burst: the header, one line message, and idle fill (R82). -/
def Chip.messageBurst (c : Chip) (x : Line) (g : Grant) (msg : List Byte) : Chip :=
  let g := { g with b := true, q := false, c := false }
  let r := c.sampleHeader x g
  let hd := (r.2.hdr.getD []) ++ msg
  let idle := idleFrames g.len hd.length (burstCapacity g.len)
  r.1.sendBurst x g (burstData g.len hd idle) idle

/-- A line message that no key covers: its 56 bytes and a MIC of zeros (R71). -/
def Chip.plainMessage (c : Chip) (x : Line) (type : Nat) (content : List Byte) : Chip × List Byte :=
  let n := (c.line x).txSeq
  (c.modLine x fun l => { l with txSeq := (n + 1) % 2 ^ 32 }, msgBytes (c.f (LPx_IDENT_TID x)) type false n content ++ fill 8 0)

/-- ANNOUNCE (R95, Table 4.2): an accepted announce grant used, or skipped. -/
def execAnnounce (x : Line) (s : State) : Out := runO s fun o c =>
  match c.firstGrant x fun g => g.kind == .announce with
  | none => c
  | some g =>
    let gone := c.setGrants x ((c.line x).grants.filter fun h => grantInstant h != grantInstant g)
    if c.actState x ≠ stAnnouncing then gone
    else if 0 < (c.line x).skip then gone.modLine x fun l => { l with skip := l.skip - 1 }
    else if g.len < 26 then gone
    else
      let r := c.free
      let d := r.2 % (if g.len < 72026 then g.len - 26 + 1 else 72001)
      let h := { g with start := g.start + d, len := 26 }
      let c := r.1.modLine x fun l => { l with
        grants := l.grants.map fun k => if grantInstant k = grantInstant g then h else k
        windows := (l.grants.map fun k => if grantInstant k = grantInstant g then h else k).map (r.1.grantSpan x) }
      let m := c.plainMessage x 0x81 (beBytes 8 o.serial ++ beBytes 4 (c.reg TOP_CHIP_ID).toNat ++ beBytes 1 x.idx ++ beBytes 1 c.mode ++ beBytes 3 d)
      let c := (m.1.messageBurst x h m.2).count (N_LPx_ANN_SENT x)
      let w := c.f (LPx_ACT_TMR0_ANN_WAIT x)
      c.start (.line x .annWait) ((g.fn + max 8 w) * frameCcy + c.f (LNx_SYNC_CIF_CIF x) - c.nt.ccy)

/-- RANGING_RESP (R97): an accepted default grant used in Ranging. -/
def execRangingResp (x : Line) (s : State) : Out := runO s fun o c =>
  if c.actState x ≠ stRanging then c else
  match c.firstGrant x fun g => g.kind == .default with
  | none => c
  | some g =>
    if g.len < 26 then c.messageBurst x g []
    else
      let m := c.plainMessage x 0x82 (beBytes 8 o.serial ++ beBytes 2 (c.f (LPx_IDENT_TID x)))
      (m.1.messageBurst x g m.2).count (N_LPx_RNG_RESP x)

end Sys2Proof.Machine
end

