-- ==== Sys2Proof/Machine/TimeOfDay.lean ====
section
/-! DEFINITION. Time of day, the pulse and PTP outputs, event slots and the NTU tables
(spec/11_network_time_and_deadlines.md, R272 to R284, R290 to R292). -/

namespace Sys2Proof.Machine
open Sys2Proof

/-! ## Time of day -/

/-- The ns of a slew done by an instant: 1 ns per ms (R274). -/
def Horologer.slewed (t : Horologer) (at_ : Nat) : Int :=
  let k : Int := (at_ - t.slewFrom) / msCcy
  clampInt (-k) k t.slew

/-- Three times ToD in ns at an instant, where `tod` is the value held. -/
def Horologer.todThirds (t : Horologer) (tod : Int) (at_ : Nat) : Int :=
  tod + 2 * (at_ : Int) + 3 * t.slewed at_ + (match t.step with
    | some (due, e) => if due ≤ at_ then e else 0
    | none => 0)

/-- Three times ToD in ns now, when ToD has been set (R274). -/
def Chip.tod3 (c : Chip) : Option Int := c.time.tod.map fun v => c.time.todThirds v c.now

/-- Three times the ToD of a TOD message at the present instant (R273). `o` is the offset of the line's frames from NT in
1/256 ccy. DEDUCED (assumption 40): for the line that is not master it is O less D. -/
def Chip.todOfMessage (c : Chip) (x : Line) (fn sec ns : Nat) (o : Int) : Int :=
  let he := c.f (NTU_TOD_CFG_HE_EQ x.idx)
  let rtt3 : Int := (he : Int) - 52500 - c.f (LPx_IDENT_EQD x)
  let km : Int := let k := c.f NTU_ASYM_KM_NS; if k = 0 then 4896 else k
  let d3 : Int := if he = 0 then 0 else rtt3 + rtt3 * signed 16 (c.f NTU_ASYM_ASYM) / (1000 * km)
  3 * ((sec : Int) * 1000000000 + ns + ((c.nt.fn : Int) - fn) * 125000) + d3 + 2 * o / 256 + 2 * c.nt.cif

/-- Thirds of ns rounded to the nearest ns. -/
def nearestNs (v : Int) : Int := (v + 1) / 3

/-- An accepted TOD (R274): it sets ToD, or slews or steps it by the error. -/
def Chip.takeTod (c : Chip) (x : Line) (v : Int) : Chip :=
  let c := (c.count N_NTU_TOD_OK).putB NTU_STATUS_TOD_NOCORR (c.f (NTU_TOD_CFG_HE_EQ x.idx) == 0)
  match c.tod3 with
  | none => (c.modTime fun t => { t with tod := some (v - 2 * (c.now : Int)) }).raise NTU_STATUS_TOD_VALID
  | some cur =>
    let e := v - cur
    let ns := nearestNs e
    let c := c.setReg NTU_TOD_ERR (signedWord ns)
    let base := cur - 2 * (c.now : Int)
    if ns.natAbs ≤ c.f NTU_TIME_CFG_TOD_SLEW_THR then
      c.modTime fun t => { t with tod := some base, slew := ns, slewFrom := c.now, step := none }
    else
      let due := c.now + (frameCcy - c.nt.cif)
      (((c.modTime fun t => { t with tod := some base, slew := 0, slewFrom := c.now, step := some (due, e), stepped := true }).count N_NTU_TOD_STEP)).raise NTU_ALARM_TOD_STEP

/-- TOD (R272 to R274): a TOD message of a line. -/
def execTod (x : Line) (m : Msg) (fn sec ns : Nat) (s : State) : Out := runO s fun o c =>
  c.message o x m 0x0A false false (beBytes 6 fn ++ beBytes 6 sec ++ beBytes 4 ns) none [stWorking] fun c =>
    let fn := fn % 2 ^ 48
    let sec := sec % 2 ^ 48
    let ns := ns % 2 ^ 32
    let good := c.flag (LPx_HDR_STATUS_TODV x) && decide (ns < 1000000000) && decide (fn ≤ c.nt.fn + 80000) && decide (c.nt.fn ≤ fn + 80000)
    let off : Int := signed 32 (c.reg TWE_TM_OFS).toNat
    let done := if !good then c.count N_NTU_TOD_IGN
      else if c.flag TWE_STATUS_NO_MASTER then c.count N_NTU_TOD_IGN
      else if x = c.master then c.takeTod x (c.todOfMessage x fn sec ns off)
      else
        let v := c.todOfMessage x fn sec ns (off - signed 32 (c.reg TWE_TRACK_OFS).toNat)
        match c.tod3 with
        | some cur => c.setReg NTU_TOD_XERR (signedWord (nearestNs (v - cur)))
        | none => c
    done.answer x m 0x0A 0

/-- NTU_CAP (R291): NT and ToD captured in one ccy. A ToD that has not been set leaves free values. -/
def Chip.ntCapture (c : Chip) : Chip :=
  let c := (c.setPair NTU_CAP_FN_LO c.nt.fn).setReg NTU_CAP_CIF (BitVec.ofNat 32 (c.nt.cif * 256))
  let r := match c.tod3 with
    | some v => (c, ((v / 3).toNat / 1000000000, (v / 3).toNat % 1000000000))
    | none => let a := c.free; let b := a.1.free; (b.1, (a.2 % 2 ^ 48, b.2 % 2 ^ 30))
  (r.1.setPair NTU_CAP_SEC_LO r.2.1).setReg NTU_CAP_NS (BitVec.ofNat 32 r.2.2)

/-! ## The pulse outputs and input -/

/-- The ccy until ToD next passes a whole second. -/
def Chip.toWholeSecond (c : Chip) (tod : Int) : Nat :=
  let v := c.time.todThirds tod c.now
  let target := (v / 3000000000 + 1) * 3000000000
  let n0 := ((target - v + 1) / 2).toNat
  let fix := fun (n : Nat) => ((n : Int) + (target - c.time.todThirds tod (c.now + n) + 1) / 2).toNat
  fix (fix n0)

/-- PPS_OUT_PULSE (R275): the next rise of 1PPS_OUT. -/
def execPpsOutPulse (s : State) : Out := run s fun c =>
  if !c.flag NTU_PPS_CFG_PPS_EN || !c.ntValid then c else
  let width := max 1 (min 999 (c.f NTU_PPS_CFG_WIDTH))
  match c.time.tod with
  | some v =>
    let c := c.elapse (c.toWholeSecond v)
    let early := c.time.stepped && c.time.ppsOut.any fun t => decide (c.now < t + 500 * msCcy)
    if early then c.count N_NTU_PPS_SUPP
    else (c.modTime fun t => { t with ppsOut := some c.now, stepped := false }).emit (.pps width)
  | none =>
    if !c.flag NTU_PPS_CFG_PPS_NOTOD then c else
    let fn := (c.nt.fn / 8000 + (if c.nt.cif = 0 && c.nt.fn % 8000 = 0 then 0 else 1)) * 8000
    let c := c.toInstant { fn := fn, cif := 0 }
    (c.modTime fun t => { t with ppsOut := some c.now }).emit (.pps width)

/-- PPS_IN_EDGE (R277): a rising edge of 1PPS_IN now, `frac` 256ths of a ccy into it. -/
def execPpsInEdge (frac : Nat) (s : State) : Out := run s fun c =>
  let t := c.time
  let near := t.ppsIn.any fun p => decide (secCcy - 15000 ≤ c.now - p) && decide (c.now - p ≤ secCcy + 15000)
  let n := if near then t.ppsRun + 1 else 1
  let c := (c.modTime fun t => { t with ppsIn := some c.now, ppsRun := n }).start .ppsIn (3 * secCcy / 2)
  let c := (c.setReg NTU_PPSIN_FN (BitVec.ofNat 32 c.nt.fn)).setReg NTU_PPSIN_CIF (BitVec.ofNat 32 (c.nt.cif * 256 + frac % 256))
  let c := if 3 ≤ n then c.raise NTU_STATUS_PPSIN_OK else c
  match c.tod3 with
  | none => c
  | some v =>
    let r := (v + 2 * (frac % 256 : Nat) / 256) % 3000000000
    let e := nearestNs (if 1500000000 ≤ r then r - 3000000000 else r)
    let c := c.setReg NTU_PPSIN_ERR (signedWord e)
    if 1000 < e.natAbs then c.raise NTU_ALARM_PPSIN_ERR else c

/-- PPS_IN_LOSS (R277): 1.5 s have passed without an edge. -/
def execPpsInLoss (s : State) : Out := run s fun c => c.expire .ppsIn fun c => (c.lower NTU_STATUS_PPSIN_OK).raise NTU_ALARM_PPSIN_LOS

/-! ## The PTP master -/

/-- The delays of Table 11.3 for a port, receive and transmit, in tenths of ns. -/
def Chip.miiDelays (c : Chip) (n : Nat) : Nat × Nat :=
  let fec := c.f (ETH_MODE_FEC n)
  match c.f (ETH_MODE_MODE n) with
  | 1 => (match c.f (ETH_STATUS_SPEED n) with
    | 0 => (113200, 60800)
    | 1 => (12080, 6400)
    | _ => (1960, 1040))
  | 2 => (1960, 1040)
  | 3 => (840, 448)
  | 4 => if fec = 1 then (924, 781) else (524, 381)
  | 5 => if fec = 1 then (686, 612) else if fec = 2 then (1083, 720) else (286, 212)
  | 6 => (785, 603)
  | _ => (0, 0)

/-- Whether pair 1 may send Announce and Sync on a port (R278, R344). -/
def Chip.ptpSends (c : Chip) (n : Nat) : Bool :=
  c.isOn 46 && bitOf (c.f NTU_PTP_PORTS_EN) n && c.flag (ETH_STATUS_LINK n) && c.flag NTU_STATUS_TOD_VALID

/-- The next sequence number of a message type on a port. -/
def Chip.ptpSeq (c : Chip) (n type : Nat) : Chip × Nat :=
  let k := 8 * n + type
  let q := Map.get 0 c.time.ptpSeq k
  (c.modTime fun t => { t with ptpSeq := Map.set 0 t.ptpSeq k ((q + 1) % 65536) }, q)

/-- A log interval held within its range (R291). -/
def logWithin (lo hi : Int) (v : Nat) : Int := clampInt lo hi (signed 4 v)

/-- What every PTP message of the master carries. -/
def Chip.ptpBase (c : Chip) (type seq : Nat) : PtpMessage :=
  let tr := c.f NTU_PTP_CFG_TRANSPORT
  let dm := c.f NTU_PTP_CFG_DOMAIN
  { type := type, transport := if tr = 3 then 0 else tr, domain := if 127 < dm then 0 else dm, seq := seq, identity := c.time.ptpId }

/-- ToD now in 1/30 ns, with a delay in tenths of ns. -/
def Chip.ptpTime (c : Chip) (tenths : Int) : Option Int := c.tod3.map fun v => 10 * v + 3 * tenths

/-- PTP_SYNC (R278, R235): Sync on a port, one-step on U0 to U3 with TWO_STEP 0, else with its Follow_Up. -/
def execPtpSync (n : Nat) (s : State) : Out := run s fun c =>
  if !c.ptpSends n then c.ptpStop n else
  let c := c.raiseBit MBX_PTP_STATUS_SENDING n
  let q := c.ptpSeq n 0
  let c := q.1
  let log := logWithin (-7) 1 (c.f NTU_PTP_CFG_SYNC_LOG)
  let one := decide (n < 4) && !c.flag NTU_PTP_CFG_TWO_STEP
  let t := c.ptpTime (c.miiDelays n).2
  if one then c.emit (.ptp n { c.ptpBase 0 q.2 with logInterval := log, time := t, oneStep := true })
  else (c.emit (.ptp n { c.ptpBase 0 q.2 with logInterval := log })).emit (.ptp n { c.ptpBase 2 q.2 with logInterval := log, time := t })

/-- The clock quality of Table 11.2: class, the two traceable flags and the time source. -/
def Chip.clockQuality (c : Chip) : Nat × Bool × Bool × Nat :=
  let tr := c.flag NTU_STATUS_TRACEABLE
  if c.flag NTU_STATUS_HO_AGED then (248, false, false, 0xA0)
  else if c.timeState = 3 then (if tr then (7, true, true, 0xA0) else (187, false, false, 0xA0))
  else if tr then (6, true, true, 0x50) else (52, false, true, 0x50)

/-- PTP_ANNOUNCE (R278, R279). -/
def execPtpAnnounce (n : Nat) (s : State) : Out := run s fun c =>
  if !c.ptpSends n then c.ptpStop n else
  let c := c.raiseBit MBX_PTP_STATUS_SENDING n
  let q := c.ptpSeq n 1
  let c := q.1
  let k := c.clockQuality
  c.emit (.ptp n { c.ptpBase 1 q.2 with
    logInterval := logWithin (-3) 3 (c.f NTU_PTP_CFG_ANN_LOG), clockClass := k.1, timeTraceable := k.2.1
    freqTraceable := k.2.2.1, timeSource := k.2.2.2, utcOffset := c.f NTU_PTP_CFG_UTC_OFS })

/-- PTP_DELAY_REQ (R278, R280): a delay request of the mechanism in use, received now on an enabled port, is answered
with its receive instant at the pins. -/
def execPtpDelayReq (n : Nat) (peer : Bool) (seq : Nat) (s : State) : Out := run s fun c =>
  if !c.isOn 46 || !bitOf (c.f NTU_PTP_PORTS_EN) n || !c.flag (ETH_STATUS_LINK n) || peer != c.flag NTU_PTP_CFG_P2P then c else
  c.emit (.ptp n { c.ptpBase (if peer then 4 else 3) (seq % 65536) with
    logInterval := logWithin (-7) 5 (c.f NTU_PTP_CFG_DREQ_LOG), time := c.ptpTime (-((c.miiDelays n).1 : Int)) })

/-! ## Event slots -/

/-- An event slot of the table. -/
def Chip.evSlot (c : Chip) (k : Nat) : EvSlot := Map.get {} c.time.slots k

/-- The chip with an event slot replaced. -/
def Chip.setEvSlot (c : Chip) (k : Nat) (e : EvSlot) : Chip := c.modTime fun t => { t with slots := Map.set {} t.slots k e }

/-- The resource of a slot (Table 11.4): none for a user interrupt. -/
def EvSlot.resource (e : EvSlot) : Option Nat :=
  match e.action with
  | 1 => some 0
  | 2 => some 0
  | 3 => some 1
  | 4 => some 2
  | 5 => some (3 + e.arg % 64)
  | _ => none

/-- Whether the action code and its argument are in Table 11.4. -/
def EvSlot.known (e : EvSlot) : Bool :=
  match e.action with
  | 1 => e.arg == 0
  | 2 => decide (e.arg < 2)
  | 3 => decide (e.arg < 2)
  | 4 => e.arg == 0
  | 5 => decide (natBits e.arg 0 6 ≤ 49) && decide (natBits e.arg 8 2 ≤ 2) && natBits e.arg 6 2 == 0 && natBits e.arg 10 6 == 0
  | 6 => true
  | _ => false

/-- The ccy between two instants. -/
def distance (a b : Nat) : Nat := (a - b) + (b - a)

/-- Why a slot may not be armed beside the other armed slots (R282): 0 when it may. -/
def armError (valid : Bool) (now : NetTime) (others : List EvSlot) (e : EvSlot) : Nat :=
  let at_ := e.instant.ccy
  let same := others.filter fun f => e.resource.isSome && f.resource == e.resource
  if !e.known || e.rep = 1 || 187499 < e.cif then 3
  else if valid && decide (at_ < now.ccy + 64) then 1
  else if same.any fun f => decide (distance f.instant.ccy at_ < 375000) || f.rep != 0 then 2
  else if e.rep ≠ 0 && same != [] then 2
  else 0

/-- The armed slots but one. -/
def Chip.armedBut (c : Chip) (k : Nat) : List EvSlot := (c.time.slots.filter fun e => e.1 != k && e.2.state == 1).map (·.2)

/-- A slot from its words (Table 11.9). -/
def slotOfWords (w : Nat → Nat) : EvSlot :=
  { fn := w 0 + natBits (w 1) 0 16 * 2 ^ 32, cif := natBits (w 2) 0 18, action := natBits (w 2) 24 8, arg := natBits (w 3) 0 16, rep := natBits (w 3) 16 16, state := 1 }

/-- The words of a slot; ARM reads 1 while it is armed. -/
def EvSlot.words (e : EvSlot) : List Nat :=
  [e.fn % 2 ^ 32, e.state * 2 ^ 30 + b2n (e.state == 1) * 2 ^ 29 + e.fn / 2 ^ 32 % 2 ^ 16, e.action * 2 ^ 24 + e.cif, e.rep * 2 ^ 16 + e.arg]

/-- A slot armed, or the reason why not (R282). -/
def Chip.armSlot (c : Chip) (k : Nat) (e : EvSlot) : Chip × Nat :=
  let err := armError c.ntValid c.nt (c.armedBut k) e
  if err = 0 then (c.setEvSlot k { e with state := 1 }, 0) else (c, err)

/-- An event-schedule entry arms the lowest-numbered slot that is not armed (R432). -/
def Chip.armSchedule (c : Chip) (e : EvSlot) : Chip :=
  match (List.range 64).find? fun k => (c.evSlot k).state != 1 with
  | some k => (c.armSlot k e).1
  | none => c

/-- The place of an action in the order of R17. -/
def EvSlot.rank (e : EvSlot) : Nat :=
  match e.action with
  | 1 => 0 | 2 => 0 | 3 => 1 | 4 => 2 | _ => 3

/-- Whether slot `a` fires before slot `b`: by instant, by R17, by number (R283). -/
def firesBefore (a b : Nat × EvSlot) : Bool :=
  let x := a.2.instant.ccy
  let y := b.2.instant.ccy
  decide (x < y) || (x == y && (decide (a.2.rank < b.2.rank) || (a.2.rank == b.2.rank && decide (a.1 < b.1))))

/-- The armed slot that fires next. -/
def Chip.nextSlot (c : Chip) : Option (Nat × EvSlot) :=
  match c.time.slots.filter fun e => e.2.state == 1 with
  | [] => none
  | e :: r => some (r.foldl (fun a b => if firesBefore b a then b else a) e)

/-- What a slot does when it fires (Table 11.4). -/
def Chip.eventAction (c : Chip) (k : Nat) (e : EvSlot) : Chip :=
  match e.action with
  | 1 => c.snapshot
  | 2 => if e.arg % 2 = 1 then c.freeze else c.releaseCounters
  | 3 => c.epochSwap e.arg
  | 4 => c.pageSwap c.nt.fn
  | 5 => c.powerRequest .event [{ dom := e.arg % 64, target := natBits e.arg 8 2 }]
  | _ =>
    let c := if c.flag NTU_ALARM_USER then c.raise NTU_ALARM_USER_OVF else c
    ((c.put NTU_USER_EVT_SLOT k).put NTU_USER_EVT_CODE e.arg).raise NTU_ALARM_USER

/-- EVENT_FIRE (R283, R17): the armed slot whose instant comes next fires. -/
def execEventFire (s : State) : Out := run s fun c =>
  match c.nextSlot with
  | none => c
  | some (k, e) =>
    if !c.ntValid then c else
    let c := (c.toInstant e.instant).count N_NTU_EV_FIRED
    let c := c.setEvSlot k (if 2 ≤ e.rep then { e with fn := (e.fn + e.rep) % 2 ^ 48 } else { e with state := 2 })
    c.eventAction k e

/-! ## The NTU tables (R292) -/

/-- NTU_TBL_ADDR as an access leaves it. -/
def Chip.ntuAddr (c : Chip) (write : Bool) (table index err : Nat) : Chip :=
  c.setReg NTU_TBL_ADDR (BitVec.ofNat 32 (2 ^ 30 + b2n write * 2 ^ 29 + table % 4 * 2 ^ 27 + err * 2 ^ 24 + index % 512))

/-- The data words of an NTU table access. -/
def Chip.ntuData (c : Chip) (ws : List Nat) : Chip :=
  (List.range 4).foldl (fun c k => c.setReg (NTU_TBL_DATA k) (BitVec.ofNat 32 (ws.getD k 0))) c

/-- A GO of NTU_TBL_ADDR (R281, R282, R292): the access named by WRITE, TABLE and INDEX. -/
def Chip.ntuAccess (c : Chip) (write : Bool) (table index : Nat) : Chip :=
  let w := fun k => (c.reg (NTU_TBL_DATA k)).toNat
  let size := match table with
    | 0 => 64
    | 2 => 128
    | _ => 512
  if size ≤ index || (write && table == 3) then c.ntuAddr write table index 4
  else if write then
    match table with
    | 0 =>
      if bitOf (w 1) 29 then let r := c.armSlot index (slotOfWords w); r.1.ntuAddr write table index r.2
      else (c.setEvSlot index { c.evSlot index with state := 0 }).ntuAddr write table index 0
    | 1 => (c.stageTab 7 index (w 0)).ntuAddr write table index 0
    | _ => (c.stageTab 8 index (w 0 + w 1 * 2 ^ 32)).ntuAddr write table index 0
  else
    let ws := match table with
      | 0 => (c.evSlot index).words
      | 1 => [c.tab 7 index]
      | 2 => [entryWord (c.tab 8 index) 0, entryWord (c.tab 8 index) 1]
      | _ => let b := c.time.bounds.getD index (0, 0); [b.1, b.2]
    (c.ntuData ws).ntuAddr write table index 0

/-- Whether a port's kind-1 guarantee is lost (R290). -/
def Chip.boundLost (c : Chip) (n : Nat) : Bool :=
  (c.time.bounds.any fun b => natBits b.1 28 3 == 1 && natBits b.1 13 8 == n) && c.flag (ETH_STATUS_LINK n) &&
    c.flag (ETH_MM_PREEMPT_EN n) && !c.flag (ETH_STATUS_MM_ACTIVE n)

/-- NTU_BND_LOST of one port judged (R290). -/
def Chip.judgeBound (c : Chip) (n : Nat) : Chip :=
  if 4 ≤ n then c
  else if c.boundLost n then
    if bitOf (c.f NTU_BND_LOST_PORTS) n then c else (c.raiseBit NTU_BND_LOST_PORTS n).raise NTU_ALARM_BOUND_LOST
  else c.lowerBit NTU_BND_LOST_PORTS n

/-- BOUND_LOST (R290): the guarantee of a port among U0 to U3 judged. -/
def execBoundLost (n : Nat) (s : State) : Out := run s fun c => c.judgeBound n

end Sys2Proof.Machine
end

