-- ==== Sys2Proof/Machine/Ethernet.lean ====
section
/-! DEFINITION. The Ethernet ports: receiving, transmitting, pause, preemption, the link, listen and timestamps
(spec/09_ethernet_ports.md, R211 to R236). -/

namespace Sys2Proof.Machine
open Sys2Proof

/-! ## Ports -/

/-- A port's own address ETH_SA, as a number of 48 bits. -/
def Chip.portAddr (c : Chip) (n : Nat) : Nat := c.f (ETH_SA_HI_ADDR n) * 2 ^ 32 + c.f (ETH_SA_LO_ADDR n)

/-- The bytes of a port's receive FIFO: the frames that the classifier has not taken. -/
def Chip.fifoBytes (c : Chip) (n : Nat) : Nat :=
  (c.sorter.input.filter fun p => p.pass == 0 && p.ingress == n).foldl (fun k p => k + p.bytes.length) 0

/-- A frame as sent: padded to 60 bytes, with its FCS, or with the FCS inverted (R219). -/
def withFcs (bs : List Byte) (bad : Bool) : List Byte :=
  let b := bs ++ fill (60 - bs.length) 0
  b ++ leBytes 4 (if bad then fcs32 b ^^^ 0xFFFFFFFF else fcs32 b)

/-- Whether a frame's last four bytes are its FCS. -/
def fcsOk (bs : List Byte) : Bool := leNat (bs.drop (bs.length - 4)) == fcs32 (bs.take (bs.length - 4))

/-! ## Receiving -/

/-- MAX_FRAME as it acts (R216). -/
def Chip.maxFrame (c : Chip) (n : Nat) : Nat := max 64 (min 16000 (c.f (ETH_RXF_MAX_FRAME n)))

/-- The hash index of a destination address (R217): the first 12 bits of its FCS as sent, the first of them bit 0. -/
def hashIndex (addr : List Byte) : Nat := fcs32 addr % 4096

/-- The address filter (R217). -/
def Chip.filter (c : Chip) (n : Nat) (bs : List Byte) : Bool :=
  let a := beAt bs 0 6
  let broad := a == 0xFFFFFFFFFFFF
  let i := hashIndex (slice bs 0 6)
  c.flag (ETH_RXF_PROMISC n) || (broad && c.flag (ETH_RXF_BCAST_EN n)) ||
  (List.range 32).any (fun k => c.flag (ETH_EXACT_HI_VALID n k) && c.f (ETH_EXACT_HI_ADDR n k) * 2 ^ 32 + c.f (ETH_EXACT_LO_ADDR n k) == a) ||
  (bitOf (byteAt bs 0) 0 && !broad && (c.flag (ETH_RXF_ALLGROUPS n) || bitOf (c.f (ETH_MCHASH_BITS n (i / 32))) (i % 32)))

/-- The ccy that `q` units of 512 bit times last on a port (R223). -/
def Chip.pauseCcy (c : Chip) (n q : Nat) : Nat := c.byteCcy n (64 * q)

/-- A received pause frame obeyed, or only counted (R222, R223). -/
def Chip.takePause (c : Chip) (n q : Nat) : Chip :=
  let c := c.count (N_ETHP_RX_PAUSE n)
  if !c.flag (ETH_PAUSE_OBEY n) then c
  else if q = 0 then (c.lower (ETH_STATUS_PAUSED n)).stop (.pause n)
  else (c.raise (ETH_STATUS_PAUSED n)).start (.pause n) (c.pauseCcy n q)

/-- A MAC control frame is consumed (R222). -/
def Chip.macControl (c : Chip) (n : Nat) (bs : List Byte) : Chip :=
  let a := beAt bs 0 6
  if beAt bs 14 2 = 1 && (a == 0x0180C2000001 || a == c.portAddr n) then c.takePause n (beAt bs 16 2)
  else c.count (N_ETHP_RX_MACCTL_OTHER n)

/-- The PTP header of a frame and its messageType, where the frame is a PTP event frame (R164, R234). -/
def Chip.ptpEvent (c : Chip) (bs : List Byte) : Option (Nat × Nat) :=
  match (c.parse bs).ptp with
  | some o => if byteAt bs o % 16 < 4 then some (o, byteAt bs o % 16) else none
  | none => none

/-- The checks of Table 9.3 on a whole frame, and its way into the receive FIFO (R216 to R218, R234). -/
def Chip.receive (c : Chip) (n : Nat) (r : RxFrame) : Chip :=
  let bs := r.bytes
  if r.cutOff then c.count (N_ETHP_RX_ABORT n)
  else if r.code then c.count (N_ETHP_RX_CODE_ERR n)
  else if bs.length < 64 then c.count (N_ETHP_RX_RUNT n)
  else if c.maxFrame n < bs.length then c.count (N_ETHP_RX_OVERSIZE n)
  else if !fcsOk bs then c.count (N_ETHP_RX_FCS_ERR n)
  else if beAt bs 12 2 = 0x8808 then c.macControl n bs
  else if !c.filter n bs then c.count (N_ETHP_RX_FILT_DROP n)
  else if 65536 < c.fifoBytes n + bs.length then (c.count (N_ETHP_RX_OVF_FRAMES n)).raise (ETH_ALARM_RX_OVF n)
  else
    let body := bs.take (bs.length - 4)
    let stamp := if c.flag (ETH_TS_CFG_TS_EN_RX n) && (c.ptpEvent body).isSome then some (c.nt.fn % 2 ^ 30, c.nt.cif, r.frac % 256) else none
    let c := c.modSorter fun t => { t with input := t.input ++ [{ ingress := n, tag := c.f (SRT_PORT_TAG_TAG n), bytes := body, ride := { stamp := stamp } }] }
    let at_ : PacketAttr := { len := body.length, port := n }
    (c.count (N_ETHP_RX_FRAMES n) 1 (some at_)).count (N_ETHP_RX_BYTES n) body.length (some at_)

/-- A fragment of a preempted frame (R228): the frame rebuilt so far grows, is complete, or is discarded. -/
def Chip.fragment (c : Chip) (n : Nat) (r : RxFrame) : Chip :=
  let c := c.count (N_ETHP_RX_MM_FRAGS n)
  match r.part with
  | .continuation k more =>
    match (c.port n).rebuild with
    | some (bs, want) =>
      if k % 4 = want then
        if more then c.modPort n fun e => { e with rebuild := some (bs ++ r.bytes, (want + 1) % 4) }
        else (c.modPort n fun e => { e with rebuild := none }).receive n { r with bytes := bs ++ r.bytes }
      else (c.modPort n fun e => { e with rebuild := none }).count (N_ETHP_RX_MM_ASSY_ERR n)
    | none => c.count (N_ETHP_RX_MM_ASSY_ERR n)
  | _ => c.modPort n fun e => { e with rebuild := some (r.bytes, 0) }

/-- Preemption in use from now on or no longer, and the port's guarantee judged (R226, R290). -/
def Chip.mmActive (c : Chip) (n : Nat) (b : Bool) : Chip := (c.putB (ETH_STATUS_MM_ACTIVE n) b).judgeBound n

/-- VERIFY_TIME as it acts, in ccy. -/
def Chip.verifyCcy (c : Chip) (n : Nat) : Nat := max 1 (min 128 (c.f (ETH_MM_VERIFY_TIME n))) * msCcy

/-- The link partner has answered a verify (R226). -/
def Chip.verified (c : Chip) (n : Nat) : Chip :=
  if c.f (ETH_STATUS_MM_VERIFY n) = 1 then ((c.put (ETH_STATUS_MM_VERIFY n) 2).stop (.verify n)).mmActive n true else c

/-- A verify mPacket sent, and the time for its answer (R226). -/
def Chip.sendVerify (c : Chip) (n : Nat) : Chip :=
  (((c.modPort n fun e => { e with tries := e.tries + 1 }).put (ETH_STATUS_MM_VERIFY n) 1).emit (.mPacket n false)).start (.verify n) (c.verifyCcy n)

/-- Verification from the beginning (R226): off without PREEMPT_EN, waived by VERIFY_DIS, and waiting while LINK is 0. -/
def Chip.mmRestart (c : Chip) (n : Nat) : Chip :=
  if 4 ≤ n then c else
  let c := (c.stop (.verify n)).modPort n fun e => { e with tries := 0 }
  if !c.flag (ETH_MM_PREEMPT_EN n) then (c.put (ETH_STATUS_MM_VERIFY n) 0).mmActive n false
  else if c.flag (ETH_MM_VERIFY_DIS n) then (c.put (ETH_STATUS_MM_VERIFY n) 0).mmActive n (c.flag (ETH_STATUS_LINK n))
  else
    let c := c.mmActive n false
    if c.flag (ETH_STATUS_LINK n) then c.sendVerify n else c.put (ETH_STATUS_MM_VERIFY n) 1

/-- ETH_RX_FRAME (R216, R226, R228): what arrives at a port that works and has its link up. -/
def execEthRxFrame (n : Nat) (r : RxFrame) (s : State) : Out := run s fun c =>
  if 20 ≤ n || !c.portWorks n || !c.flag (ETH_STATUS_LINK n) then c else
  let c := (c.count (N_ETHP_FEC_CORR_CW n) r.fecCorr).count (N_ETHP_FEC_UNC_CW n) r.fecUnc
  match r.part with
  | .whole => c.receive n r
  | .verify => if n < 4 && c.flag (ETH_MM_PREEMPT_EN n) then c.emit (.mPacket n true) else c
  | .respond => if n < 4 then c.verified n else c
  | .initial => if n < 4 then c.fragment n r else c.receive n { r with code := true }
  | .continuation _ _ => if n < 4 then c.fragment n r else c.receive n { r with code := true }

/-- PAUSE_TIMER_EXPIRY (R223). -/
def execPauseTimerExpiry (n : Nat) (s : State) : Out := run s fun c => c.expire (.pause n) fun c => c.lower (ETH_STATUS_PAUSED n)

/-! ## Pause frames sent -/

/-- A pause frame sent at the next frame boundary, ahead of every queued frame (R225). -/
def Chip.sendPause (c : Chip) (n q : Nat) : Chip :=
  if !c.flag (ETH_STATUS_LINK n) then c else
  (c.emit (.frame n (withFcs (beBytes 6 0x0180C2000001 ++ beBytes 6 (c.portAddr n) ++ beBytes 2 0x8808 ++ beBytes 2 1 ++ beBytes 2 q) false))).count (N_ETHP_TX_PAUSE n)

/-- The bytes at which a port enters XOFF, and those at which it may leave it (R225). -/
def Chip.xoffBytes (c : Chip) (n : Nat) : Nat × Nat :=
  let x := max 1 (c.f (ETH_PAUSE_THR_XOFF_FIFO n))
  let y := c.f (ETH_PAUSE_THR_XON_FIFO n)
  (1024 * x, 1024 * (if x ≤ y then x - 1 else y))

/-- Whether a port enters XOFF (R225). -/
def Chip.entersXoff (c : Chip) (n : Nat) : Bool :=
  let k := c.f (ETH_PAUSE_THR_F_XOFF n)
  c.flag (ETH_PAUSE_GEN_EN n) && (decide ((c.xoffBytes n).1 ≤ c.fifoBytes n) || (k != 0 && decide (c.freeShared < 1024 * k)))

/-- Whether a port leaves XOFF (R225). -/
def Chip.leavesXoff (c : Chip) (n : Nat) : Bool :=
  let k := c.f (ETH_PAUSE_THR_F_XOFF n)
  !c.flag (ETH_PAUSE_GEN_EN n) || (decide (c.fifoBytes n ≤ (c.xoffBytes n).2) && (k == 0 || decide (1024 * k + 1024 ≤ c.freeShared)))

/-- The ccy between pause frames in XOFF: QUANTA times 256 bit times. -/
def Chip.refreshCcy (c : Chip) (n : Nat) : Nat := c.byteCcy n (32 * c.f (ETH_PAUSE_QUANTA n))

/-- XOFF_CHANGE (R225): the port enters XOFF, or leaves it. -/
def execXoffChange (n : Nat) (s : State) : Out := run s fun c =>
  if 20 ≤ n || !c.portWorks n then c
  else if c.flag (ETH_STATUS_PAUSING n) then
    if c.leavesXoff n then ((c.lower (ETH_STATUS_PAUSING n)).stop (.xoff n)).sendPause n 0 else c
  else if c.entersXoff n then
    ((c.raise (ETH_STATUS_PAUSING n)).sendPause n (c.f (ETH_PAUSE_QUANTA n))).start (.xoff n) (c.refreshCcy n)
  else c

/-- XOFF_REFRESH (R225): another pause frame while the port stays in XOFF. -/
def execXoffRefresh (n : Nat) (s : State) : Out := run s fun c =>
  c.expire (.xoff n) fun c =>
    if c.flag (ETH_STATUS_PAUSING n) then (c.sendPause n (c.f (ETH_PAUSE_QUANTA n))).start (.xoff n) (c.refreshCcy n) else c

/-! ## Transmitting -/

/-- A timestamp stored in a port's queue, or lost with 64 entries held (R236). -/
def Chip.storeStamp (c : Chip) (n type seq : Nat) (t : NetTime) (frac : Nat) : Chip :=
  let e := c.port n
  if e.stamps.length < 64 then
    (c.modPort n fun p => { p with gap := false, stamps := p.stamps ++ [{ gap := p.gap, type := type, seq := seq, fn := t.fn % 2 ^ 30, cif := t.cif, frac := frac }] }).put
      (ETH_TSQ_STATUS_COUNT n) (e.stamps.length + 1)
  else ((c.modPort n fun p => { p with gap := true }).count (N_ETHP_TS_LOST n)).raise (ETH_ALARM_TS_LOST n)

/-- The one's-complement sum updated for bytes that change (R235). -/
def sumUpdate (sum : Nat) (old new : List Byte) : Nat :=
  if sum = 0 then 0
  else
    let v := 65535 - onesSum (beBytes 2 (65535 - sum) ++ old.map (fun b => ~~~b) ++ new) % 65536
    if v = 0 then 65535 else v

/-- A Sync frame with its originTimestamp written, and its UDP checksum updated where UDP carries it (R235). -/
def oneStep (bs : List Byte) (o : Nat) (stamp : List Byte) : List Byte :=
  let old := slice bs (o + 34) 10
  let b := splice bs (o + 34) stamp
  if beAt bs (o - 2) 2 = 0x88F7 then b else splice b (o - 2) (beBytes 2 (sumUpdate (beAt bs (o - 2) 2) old stamp))

/-- The 10 bytes of a PTP timestamp at a later ccy, from ToD in units of 1/30 ns; with ToD unset they are a free value. -/
def Chip.ptpStamp (c : Chip) (later : Nat) (tenths : Int) : Chip × List Byte :=
  match ({ c with now := c.now + later } : Chip).ptpTime tenths with
  | some v => let ns := (v / 30).toNat; (c, beBytes 6 (ns / 1000000000) ++ beBytes 4 (ns % 1000000000))
  | none => let r := c.free; (r.1, beBytes 10 r.2)

/-- The egress timestamp of a frame that asks for one (R235): in the port's queue, or in the frame itself. The frame's bytes as
they leave. -/
def Chip.stampFrame (c : Chip) (n : Nat) (f : Frame) (frac : Nat) : Chip × List Byte :=
  if f.ride.request = 0 || !c.flag (ETH_TS_CFG_TS_EN_TX n) then (c, f.bytes) else
  match c.ptpEvent f.bytes with
  | none => (c, f.bytes)
  | some (o, type) =>
    if f.ride.request = 2 && n < 4 && type = 0 then
      let r := c.ptpStamp (c.byteCcy n 8) (c.miiDelays n).2
      (r.1, oneStep f.bytes o r.2)
    else (c.storeStamp n type (beAt f.bytes (o + 30) 2) (c.nt.add (c.byteCcy n 8)) (frac % 256), f.bytes)

/-- Whether a frame that left a queue belongs to the express class (R201). -/
def Chip.expressFrame (c : Chip) (n : Nat) (f : Frame) : Bool := n < 4 && c.flag (ETH_MM_PREEMPT_EN n) && c.isExpress f.qid

/-- The frame a port takes from the scheduler, selected now if none has been. -/
def Chip.takeChosen (c : Chip) (p : Nat) : Chip × Option Frame :=
  let c := if c.drover.chosen.any (fun e => e.1 == p) then c else c.schedulerSelect p
  match c.drover.chosen.find? fun e => e.1 == p with
  | some e => (c.modDrover fun v => { v with chosen := v.chosen.filter fun g => g.1 != p }, some e.2)
  | none => (c, none)

/-- A frame put on the wire from now on (R184, R219). -/
def Chip.sendFrame (c : Chip) (n : Nat) (f : Frame) (k : CellCheck) (frac : Nat) : Chip :=
  let t := c.cellCheck k
  if t.2 && !k.begun then t.1 else
  let r := t.1.stampFrame n f frac
  let bs := withFcs r.2 t.2
  let x : TxFrame := { total := bs.length, start := c.now, express := c.expressFrame n f, bad := t.2 }
  let c := r.1.emit (.frame n bs)
  c.modPort n fun e => { e with tx := some x, ready := c.txEnds n x + c.byteCcy n 12 }

/-- ETH_TX_FRAME (R219, R220, R223): at the end of the previous frame the port takes the next one and sends it, resumes a
preempted frame, or discards what it takes while LINK is 0. -/
def execEthTxFrame (n : Nat) (k : CellCheck) (frac : Nat) (s : State) : Out := run s fun c =>
  if 20 ≤ n || !c.asks n then c else
  let c := c.elapse ((c.port n).ready - c.now)
  if !c.flag (ETH_STATUS_LINK n) then
    let r := c.takeChosen n
    match r.2 with
    | none => r.1
    | some f => (r.1.count (N_ETHP_TX_LINKDOWN_DROP n)).modPort n fun e => { e with ready := c.now + c.byteCcy n (24 + max 60 f.bytes.length) }
  else
    match (c.port n).parked with
    | some t =>
      if c.flag (ETH_STATUS_MM_ACTIVE n) && c.expressQueues n none != [] then
        let r := c.takeChosen n
        match r.2 with
        | none => r.1
        | some f => r.1.sendFrame n f k frac
      else
        let x := { t with start := c.now }
        c.modPort n fun e => { e with tx := some x, parked := none, ready := c.txEnds n x + c.byteCcy n 12 }
    | none =>
      let r := c.takeChosen n
      match r.2 with
      | none => r.1
      | some f => r.1.sendFrame n f k frac

/-- The byte of a frame at which it may be cut, from the bytes of it that have begun to leave (R227). -/
def cutPoint (t : TxFrame) (add sent : Nat) : Option Nat :=
  let data := max (64 * (1 + add)) (8 * ceilDiv (sent - t.base) 8)
  if t.base + data + 64 ≤ t.total then some (t.base + data) else none

/-- PREEMPTION (R227): an express frame that is ready cuts the preemptable frame in transmission at the first point
allowed and follows it; the rest of the frame waits. -/
def execPreemption (n : Nat) (k : CellCheck) (frac : Nat) (s : State) : Out := run s fun c =>
  if 4 ≤ n || !c.flag (ETH_STATUS_MM_ACTIVE n) || !c.asks n || c.expressQueues n none = [] then c else
  match (c.port n).tx with
  | none => c
  | some t =>
    if t.express then c else
    let sent := t.base + (ceilDiv ((c.now - t.start) * c.ethRate n) 12000 - 8)
    match cutPoint t (c.f (ETH_MM_ADD_FRAG_SIZE n)) sent with
    | none => c
    | some at_ =>
      let c := c.elapse (t.start + c.byteCcy n (8 + at_ - t.base + 16) - c.now)
      let c := if t.cut then c else (c.count (N_ETHP_TX_PREEMPTED n)).count (N_ETHP_TX_MM_FRAGS n)
      let c := (c.count (N_ETHP_TX_MM_FRAGS n)).modPort n fun e => { e with tx := none, parked := some { t with base := at_, cut := true } }
      let r := c.takeChosen n
      match r.2 with
      | none => r.1
      | some f => r.1.sendFrame n f k frac

/-- MM_VERIFY (R226): the link partner answers, or the time for its answer ends. -/
def execMmVerify (n : Nat) (responded : Bool) (s : State) : Out := run s fun c =>
  if 4 ≤ n then c
  else if responded then c.verified n
  else c.expire (.verify n) fun c =>
    if (c.port n).tries < 3 then c.sendVerify n
    else ((c.put (ETH_STATUS_MM_VERIFY n) 3).raise (ETH_ALARM_PREEMPT_FAIL n)).mmActive n false

/-! ## The link -/

/-- The lanes of a port (Table 9.1). -/
def Chip.portLanes (c : Chip) (n : Nat) : List Nat := if n = 0 && c.f (ETH_MODE_MODE 0) == 6 then [0, 1, 2, 3] else [n]

/-- A lane's polarity mode, where 3 acts as 0 (R214). -/
def Chip.polMode (c : Chip) (l : Nat) : Nat := let m := c.f (SDS_LANE_CFG_POL_MODE l); if m = 3 then 0 else m

/-- A lane's fixed polarity brought into use (R214). -/
def Chip.fixPolarity (c : Chip) (l : Nat) : Chip :=
  match c.polMode l with
  | 1 => (c.lower (SDS_LANE_STATUS_RX_INV l)).stop (.polarity l)
  | 2 => (c.raise (SDS_LANE_STATUS_RX_INV l)).stop (.polarity l)
  | _ => c

/-- What a lane reports: signal detect, CDR lock and lock; a lane with a signal that has not locked searches its
polarity (R214). -/
def Chip.laneReport (c : Chip) (l : Nat) (r : Bool × Bool × Bool) : Chip :=
  let was := c.flag (SDS_LANE_STATUS_LOCK l)
  let lock := r.1 && r.2.1 && r.2.2
  let c := ((c.putB (SDS_LANE_STATUS_SIG_DET l) r.1).putB (SDS_LANE_STATUS_CDR_LOCK l) (r.1 && r.2.1)).putB (SDS_LANE_STATUS_LOCK l) lock
  let c := if was && !lock then c.raise (SDS_LANE_ALARM_LOCK_LOSS l) else c
  if lock || !(r.1 && r.2.1) || c.polMode l != 0 then c.stop (.polarity l)
  else if c.running (.polarity l) then c else c.start (.polarity l) (2 * msCcy)

/-- LINK rises or falls (R213, R220, R226): its alarm, verification and the port's guarantee. -/
def Chip.setLink (c : Chip) (n : Nat) (up : Bool) : Chip :=
  if up = c.flag (ETH_STATUS_LINK n) then c
  else if up then (((c.raise (ETH_STATUS_LINK n)).raise (ETH_ALARM_LINK_UP n)).mmRestart n).judgeBound n
  else c.linkFalls n

/-- The speed an SGMII port runs at (R212). -/
def Chip.sgmiiSpeed (c : Chip) (n : Nat) (reported : Nat) : Nat :=
  let set := min 2 (c.f (ETH_MODE_SGMII_SPD n))
  if c.flag (ETH_MODE_AN_EN n) then min 2 reported else set

/-- Whether LINK is 1 in a port's mode (R213); in the safe state every lane is idle (R391). -/
def Chip.linkUp (c : Chip) (n : Nat) (r : LinkReport) : Bool :=
  let m := c.f (ETH_MODE_MODE n)
  c.portWorks n && !c.flag ITM_SAFE_ACTIVE && r.sync && (decide (2 < m) || !c.flag (ETH_MODE_AN_EN n) || r.an) && (decide (m < 4) || (!r.localFault && !r.remoteFault))

/-- LINK_CHANGE (R213, R214): what a port's PCS and lanes report. -/
def execLinkChange (n : Nat) (r : LinkReport) (s : State) : Out := run s fun c =>
  if 20 ≤ n || !c.portWorks n then c else
  let m := c.f (ETH_MODE_MODE n)
  let c := ((c.portLanes n).zip r.lanes).foldl (fun c e => c.laneReport e.1 e.2) c
  let lf := decide (4 ≤ m) && r.localFault
  let rf := decide (4 ≤ m) && r.remoteFault
  let moved := lf != c.flag (ETH_STATUS_LOCAL_FAULT n) || rf != c.flag (ETH_STATUS_REMOTE_FAULT n)
  let c := (c.putB (ETH_STATUS_LOCAL_FAULT n) lf).putB (ETH_STATUS_REMOTE_FAULT n) rf
  let c := if moved then c.raise (ETH_ALARM_FAULT n) else c
  let c := c.putB (ETH_STATUS_AN_DONE n) ((m == 1 || m == 2) && c.flag (ETH_MODE_AN_EN n) && r.an)
  let sp := c.sgmiiSpeed n r.speed
  let c := if m = 1 then
      let c := c.put (ETH_STATUS_SPEED n) sp
      if sp < min 2 (c.f (ETH_MODE_SGMII_SPD n)) then c.raise (ETH_ALARM_SPEED_DOWN n) else c
    else c
  let c := if n = 0 && m = 6 && !r.sync then c.lower ETH_LANESTAT_ALIGNED else c
  c.setLink n (c.linkUp n r)

/-- A commit restarts a port (R221): the frame in transmission finishes, and the link goes down. -/
def Chip.portRestart (c : Chip) (n : Nat) : Chip :=
  let c := match (c.port n).tx with
    | some t => c.finishFrame n { c.port n with tx := some { t with start := 0, base := 8 + t.total } }
    | none => c
  let c := (((c.lower (ETH_STATUS_AN_DONE n)).lower (ETH_STATUS_LOCAL_FAULT n)).lower (ETH_STATUS_REMOTE_FAULT n)).setLink n false
  let c := if n = 0 then c.lower ETH_LANESTAT_ALIGNED else c
  if c.f (ETH_MODE_MODE n) = 1 then c.put (ETH_STATUS_SPEED n) (c.sgmiiSpeed n (c.f (ETH_STATUS_SPEED n))) else c

/-- POLARITY_TRY_EXPIRY (R214): a lane that has not locked within 2 ms inverts its receive polarity and tries again. -/
def execPolarityTryExpiry (l : Nat) (s : State) : Out := run s fun c =>
  c.expire (.polarity l) fun c =>
    let c := (c.putB (SDS_LANE_STATUS_RX_INV l) (!c.flag (SDS_LANE_STATUS_RX_INV l))).put (SDS_LANE_STATUS_POL_TRIES l) (min 65535 (c.f (SDS_LANE_STATUS_POL_TRIES l) + 1))
    (c.raise (SDS_LANE_ALARM_POL_CHG l)).start (.polarity l) (2 * msCcy)

/-- The transmit lane order with AUTO_TXREV = 0 (R215). -/
def Chip.fixTxOrder (c : Chip) : Chip :=
  if c.flag ETH_LANEMAP_AUTO_TXREV then c else c.putB ETH_LANESTAT_TXREV_ACT (c.flag ETH_LANEMAP_TX_LANE_REV)

/-- LANE_ALIGNMENT_LOCK (R215): alignment lock is gained with a FEC lane on each physical lane. -/
def execLaneAlignmentLock (map : Nat) (s : State) : Out := run s fun c =>
  if !c.portWorks 0 || c.f (ETH_MODE_MODE 0) ≠ 6 then c else
  let rev := map % 256 == 0x1B
  let c := ((c.raise ETH_LANESTAT_ALIGNED).put ETH_LANESTAT_RX_MAP map).putB ETH_LANESTAT_RX_REV rev
  let c := if rev || map % 256 == 0xE4 then c else c.raise (ETH_ALARM_LANE_PERM 0)
  if c.flag ETH_LANEMAP_AUTO_TXREV then c.putB ETH_LANESTAT_TXREV_ACT rev else c.fixTxOrder

/-! ## Listen (R232, R233) -/

/-- A pattern word of the wake store. -/
def wakeIndex (n pat word : Nat) : Nat := 256 * n + 32 * pat + word

/-- Byte `i` of a pattern and its mask bit. -/
def Chip.wakeByte (c : Chip) (n pat i : Nat) : Nat × Bool :=
  (natBits (c.tab 9 (wakeIndex n pat (i / 4))) (8 * (3 - i % 4)) 8, bitOf (c.tab 9 (wakeIndex n pat (16 + i / 32))) (i % 32))

/-- Whether a frame matches a pattern. -/
def Chip.wakeMatch (c : Chip) (n pat : Nat) (bs : List Byte) : Bool :=
  (List.range 64).all fun i => let w := c.wakeByte n pat i; !w.2 || (decide (i < bs.length) && byteAt bs i == w.1)

/-- Whether a frame holds the magic packet of an address. -/
def magicIn (addr : Nat) (bs : List Byte) : Bool :=
  let m := fill 6 0xFF ++ (List.replicate 16 (beBytes 6 addr)).flatMap id
  (List.range bs.length).any fun i => slice bs i 102 == m && decide (i + 102 ≤ bs.length)

/-- The wake code of the first match: 1 to 8 for patterns, 9 for magic, 0 for none. -/
def Chip.wakeCode (c : Chip) (n : Nat) (bs : List Byte) : Nat :=
  match (List.range 8).find? fun k => bitOf (c.f (ETH_WAKE_CFG_PAT_EN n)) k && c.wakeMatch n k bs with
  | some k => k + 1
  | none => if c.flag (ETH_WAKE_CFG_MAGIC_EN n) && magicIn (c.portAddr n) bs then 9 else 0

/-! ## The timestamp queue -/

/-- Words 1 and 2 of a timestamp entry. -/
def TsEntry.low (e : TsEntry) : Nat × Nat := (e.fn, e.cif * 256 + e.frac)

/-- A read of ETH_TSQ_W0 by a master (R236): the oldest entry is removed, and W1 and W2 latched for it. -/
def Chip.takeStamp (c : Chip) (m n : Nat) : Chip × Word :=
  match (c.port n).stamps with
  | [] => (c, 0)
  | e :: r =>
    let c := (c.modPort n fun p => { p with stamps := r }).put (ETH_TSQ_STATUS_COUNT n) r.length
    ({ c with stampLatch := Map.insert c.stampLatch (32 * m + n) e }, BitVec.ofNat 32 (2 ^ 31 + (b2n e.gap) * 2 ^ 30 + e.type * 2 ^ 16 + e.seq))

/-- ETH_TSQ_W1 or W2 as a master reads it. -/
def Chip.stampWord (c : Chip) (m n : Nat) (second : Bool) : Word :=
  match c.stampLatch.find? fun e => e.1 == 32 * m + n with
  | some (_, e) => BitVec.ofNat 32 (if second then e.low.2 else e.low.1)
  | none => 0

end Sys2Proof.Machine
end

