-- ==== Sys2Proof/Machine/HostRings.lean ====
section
/-! DEFINITION. The host interface: the endpoint, doorbells, the packet rings, segmentation, and the host channels
(spec/12_host_and_cipher.md, R294 to R306; spec/09_ethernet_ports.md, R229 to R231). -/

namespace Sys2Proof.Machine
open Sys2Proof

/-! ## Segmentation and checksums -/

/-- A header template in the form of R229: where its IP header and its TCP or UDP header begin, and where it ends. -/
structure Template where
  ip : Nat
  v6 : Bool
  l4 : Nat
  tcp : Bool
  len : Nat
  deriving DecidableEq, Repr

/-- Where the EtherType lies after up to `n` VLAN tags. -/
def etherAt : Nat → List Byte → Nat → Nat
  | 0, _, o => o
  | n + 1, bs, o => let t := beAt bs o 2; if t = 0x8100 || t = 0x88A8 then etherAt n bs (o + 4) else o

/-- The TCP or UDP header of a template, from its protocol and place. -/
def templateL4 (bs : List Byte) (ip : Nat) (v6 : Bool) (proto l4 : Nat) : Option Template :=
  let len := if proto = 6 then l4 + 4 * (byteAt bs (l4 + 12) / 16) else l4 + 8
  if (proto = 6 ∧ l4 + 20 ≤ len ∧ l4 + 20 ≤ bs.length) ∨ (proto = 17 ∧ l4 + 8 ≤ bs.length) then
    (if len ≤ bs.length then some { ip := ip, v6 := v6, l4 := l4, tcp := proto == 6, len := len } else none)
  else none

/-- The headers of a frame, where they have the form of R229. -/
def template (bs : List Byte) : Option Template :=
  let o := etherAt 2 bs 12
  let ip := o + 2
  match beAt bs o 2 with
  | 0x0800 =>
    let ihl := byteAt bs ip % 16
    if byteAt bs ip / 16 = 4 ∧ 5 ≤ ihl ∧ ip + 4 * ihl ≤ bs.length then templateL4 bs ip false (byteAt bs (ip + 9)) (ip + 4 * ihl) else none
  | 0x86DD => if byteAt bs ip / 16 = 6 ∧ ip + 40 ≤ bs.length then templateL4 bs ip true (byteAt bs (ip + 6)) (ip + 40) else none
  | _ => none

/-- A frame with its IPv4 header checksum computed. -/
def fixIpSum (t : Template) (bs : List Byte) : List Byte :=
  if t.v6 then bs
  else
    let b := splice bs (t.ip + 10) (fill 2 0)
    splice b (t.ip + 10) (beBytes 2 (inetSum (slice b t.ip (t.l4 - t.ip))))

/-- The place of the TCP or UDP checksum. -/
def Template.sumAt (t : Template) : Nat := if t.tcp then t.l4 + 16 else t.l4 + 6

/-- A frame with its TCP or UDP checksum computed over `n` bytes from the L4 header on; a UDP sum of 0 is sent as 0xFFFF. -/
def fixL4Sum (t : Template) (n : Nat) (bs : List Byte) : List Byte :=
  let b := splice bs t.sumAt (fill 2 0)
  let proto := if t.tcp then 6 else 17
  let pseudo := if t.v6 then slice b (t.ip + 8) 32 ++ beBytes 4 n ++ beBytes 4 proto else slice b (t.ip + 12) 8 ++ beBytes 2 proto ++ beBytes 2 n
  let v := inetSum (pseudo ++ slice b t.l4 n)
  splice b t.sumAt (beBytes 2 (if !t.tcp && v = 0 then 65535 else v))

/-- The bytes a TCP or UDP checksum covers: those of the IP packet, within the frame. -/
def Template.l4Bytes (t : Template) (bs : List Byte) : Nat :=
  min (bs.length - t.l4) (if t.v6 then beAt bs (t.ip + 4) 2 else beAt bs (t.ip + 2) 2 - (t.l4 - t.ip))

/-- The checksums a host frame asks for (R231); one that its form does not have is left as it is. -/
def hostSums (ip l4 : Bool) (bs : List Byte) : List Byte :=
  match template bs with
  | none => bs
  | some t =>
    let b := if l4 then fixL4Sum t (t.l4Bytes bs) bs else bs
    if ip then fixIpSum t b else b

/-- Piece `i` of a large send behind its copy of the template (R229). -/
def segment (t : Template) (hd : List Byte) (mss i : Nat) (last : Bool) (piece : List Byte) : List Byte :=
  let f := hd ++ piece
  let f := if t.v6 then splice f (t.ip + 4) (beBytes 2 (f.length - t.ip - 40))
    else splice (splice f (t.ip + 2) (beBytes 2 (f.length - t.ip))) (t.ip + 4) (beBytes 2 ((beAt hd (t.ip + 4) 2 + i) % 65536))
  let f := if t.tcp then
      let flags := byteAt hd (t.l4 + 13)
      let flags := if last then flags else natPut (natPut flags 0 1 0) 3 1 0
      let flags := if i = 0 then flags else natPut flags 7 1 0
      splice (splice f (t.l4 + 4) (beBytes 4 (beAt hd (t.l4 + 4) 4 + i * mss))) (t.l4 + 13) (beBytes 1 flags)
    else splice f (t.l4 + 4) (beBytes 2 (f.length - t.l4))
  fixIpSum t (fixL4Sum t (f.length - t.l4) f)

/-- A frame of the host at the classifier (R161). -/
def Chip.hostFrame (c : Chip) (tag request : Nat) (bs : List Byte) : Chip :=
  c.modSorter fun s => { s with input := s.input ++ [{ ingress := 20, tag := tag, bytes := bs, ride := { request := request } }] }

/-- A large send (R229, R230). -/
def Chip.largeSend (c : Chip) (hd payload : List Byte) (mss tag request : Nat) : Chip :=
  let ok := decide (payload.length ≤ 262144) && decide (64 ≤ mss) && decide (mss + hd.length + 4 ≤ 16000)
  match if ok then (template hd).filter (fun t => t.len == hd.length) else none with
  | none => (c.count N_ETH_LSO_ERR).raise ETH_COM_ALARM_LSO_ERR
  | some t =>
    let k := ceilDiv payload.length mss
    let c := (List.range k).foldl (fun c i => c.hostFrame tag request (segment t hd mss i (i + 1 == k) ((payload.drop (i * mss)).take mss))) c
    (c.count N_ETH_LSO_SEGS).count N_ETH_LSO_FRAMES k

/-- LARGE_SEND (R229, R230): a host large send reaches the segmenter. -/
def execLargeSend (hd payload : List Byte) (mss tag : Nat) (s : State) : Out := run s fun c =>
  if c.isOn 41 then c.largeSend hd payload mss tag 0 else c

/-! ## The endpoint -/

/-- Whether start-up has ended, with firmware (R295). -/
def Chip.startupDone (c : Chip) : Bool := c.boot.started && !c.boot.recovery

/-- A PCIe configuration register. PRESUMED (assumption 45): the places of the PCI standard. -/
def Chip.pciRead (o : Otp) (c : Chip) (reg : Nat) : Option Word :=
  match reg with
  | 0x00 => some (BitVec.ofNat 32 (0x96400000 + o.vendorId % 65536))
  | 0x04 => some (BitVec.ofNat 32 (4 * b2n c.host.busMaster))
  | 0x08 => some 0x028000B1
  | 0x2C => some (c.reg HST_PCI_SUB)
  | _ => none

/-- Bus Master Enable set again: DMA resumes, and the pending messages go (R296). -/
def Chip.setBusMaster (c : Chip) (b : Bool) : Chip :=
  let c := c.modHost fun h => { h with busMaster := b }
  if b then (List.range 64).foldl Chip.releaseVector c else c

/-- CONFIG_REQUEST (R294, R295): answered with Retry Status until start-up is complete. -/
def execConfigRequest (r : ConfigRequest) (s : State) : Out := runO s fun o c =>
  if !c.isOn 41 then c
  else if !c.startupDone then c.emit (.completion r.reg none)
  else if r.write then
    let c := c.emit (.completion r.reg (some 0))
    if r.reg = 4 then c.setBusMaster (wordBits r.data 2 1 == 1) else c
  else match c.pciRead o r.reg with
    | some v => c.emit (.completion r.reg (some v))
    | none => let f := c.free; f.1.emit (.completion r.reg (some (BitVec.ofNat 32 f.2)))

/-- What a loss of the link or a reset does to the host interface (R296): every ring and queue is disabled, and the class D
registers of HST and CPH are at their reset values. Counters go on (R317). -/
def Chip.hostReset (c : Chip) : Chip :=
  let drop := fun (a : Nat) => (a / 65536 == 34 || a / 65536 == 32) && (match findReg a with | some (r, _) => r.cls != .c | none => true)
  { c with regs := c.regs.filter (fun e => !drop e.1)
           host := { rings := c.host.rings.map fun e => (e.1, {}), tdmOut := c.host.tdmOut } }

/-- HOST_LINK_DOWN (R296): the link goes down, or a hot or fundamental reset takes it down. -/
def execHostLinkDown (_how : LinkLoss) (s : State) : Out := run s fun c =>
  if !c.isOn 41 then c else (c.hostReset.count N_HST_LINK_DOWN).raise HST_ALARM_LINK_DOWN

/-- FLR (R296): the link itself stays up. -/
def execFlr (s : State) : Out := run s fun c =>
  if !c.isOn 41 then c else (c.hostReset.setReg HST_LINK (c.reg HST_LINK)).raise HST_ALARM_FLR

/-- BUS_MASTER_DISABLE (R296): every DMA stops at its next request, and rings and queues keep their indices. -/
def execBusMasterDisable (s : State) : Out := run s fun c => c.setBusMaster false

/-- HOST_LINK_UP (R294, R295): the link trains with a width and a speed, unless there is no firmware or no PCIe clock. -/
def execHostLinkUp (speed width : Nat) (rev : Bool) (s : State) : Out := run s fun c =>
  if !c.isOn 41 || !c.isOn 40 || c.boot.recovery || !c.flag CLK_STATUS_PCIE_REFCLK_OK then c else
  (((c.raise HST_LINK_DL_UP).put HST_LINK_SPEED speed).put HST_LINK_WIDTH width).putB HST_LINK_REV rev

/-- DOORBELL_WRITE (R299): a 32-bit write into BAR2: a doorbell, or a word of the MSI-X table. -/
def execDoorbellWrite (off : Nat) (v : Word) (s : State) : Out := runO s fun o c =>
  if !c.isOn 41 || !c.flag HST_LINK_DL_UP then c
  else if off < 0x30000 then
    let p := off / 4096
    if off % 4096 ≠ 0 || (32 ≤ p && (o.hcs || !c.isOn 10)) then c else c.doorbell p v.toNat
  else if off < 0x30400 then
    let i := (off - 0x30000) / 4
    (c.modHost fun h => { h with msix := Map.set (if i % 4 = 3 then 1 else 0) h.msix i v }).releaseVector (i / 4)
  else c

/-- RING_ENABLE (R301) as a write of a ring's or queue's CFG register leaves it: EN going from 0 to 1 zeroes PI and CI. -/
def Chip.ringConfig (c : Chip) (p : Nat) (old : Word) : Chip :=
  if wordBits old 31 1 = 0 && wordBits (c.reg (ringCfg p)) 31 1 = 1 then c.ringStart p else c

/-- MSIX_SEND (R300): a ring's or queue's merged requests become one message once its spacing has passed. -/
def execMsixSend (p : Nat) (s : State) : Out := run s fun c =>
  if !(c.ring p).waits then c else
  let c := c.elapse (((c.ring p).last.getD 0) + c.ringSpacing p - c.now)
  c.ringMessage p

/-- MSIX_UNMASK (R300): a vector's mask bit is cleared, and a pending request sends one message. -/
def execMsixUnmask (v : Nat) (s : State) : Out := run s fun c =>
  if 64 ≤ v || !c.isOn 41 || !c.flag HST_LINK_DL_UP then c else
  let w := c.host.vectorWord (4 * v + 3)
  (c.modHost fun h => { h with msix := Map.set 1 h.msix (4 * v + 3) (wordPut w 0 1 0) }).releaseVector v

/-! ## Transmit rings -/

/-- The flags of a transmit descriptor (Table 12.3). -/
def descFlag (d : List Byte) (k : Nat) : Bool := bitOf (byteAt d 12) k
def descLen (d : List Byte) : Nat := let n := leAt d 8 2; if n = 0 then 65536 else n

/-- The descriptors of one frame, from the first through the one with EOP; none while EOP has not been posted. -/
def frameDescs : List (List Byte × List Byte) → Option (List (List Byte × List Byte))
  | [] => none
  | d :: r => if descFlag d.1 1 then some [d] else (frameDescs r).map (d :: ·)

/-- The transmit ring whose turn it is: the next one that runs and holds descriptors (R302). -/
def Chip.nextTxRing (c : Chip) : Option Nat :=
  ((List.range 16).map fun k => (c.host.txTurn + k) % 16).find? fun n => c.ringRuns n && c.ringHeld n != 0

/-- A descriptor or completion written into host memory. -/
def Chip.dmaWrite (c : Chip) (addr : Nat) (bs : List Byte) : Chip := if bs = [] then c else c.emit (.dma addr (bs.map some))

/-- A frame read whole from a ring goes on (R229 to R231, R302). -/
def Chip.hostSend (c : Chip) (d : List Byte) (data : List Byte) : Chip :=
  let tag := leAt d 14 2
  let request := if !descFlag d 5 then 0 else if descFlag d 6 then 2 else 1
  if descFlag d 2 then
    let h := byteAt d 18
    c.largeSend (data.take h) (data.drop h) (leAt d 16 2) tag request
  else c.hostFrame tag request (hostSums (descFlag d 3) (descFlag d 4) data)

/-- One frame taken from a transmit ring (R302, R303). `descs` are the descriptors at CI with the data of their buffers, and
`bad` a DMA read that failed. -/
def Chip.txRing (c : Chip) (n : Nat) (descs : List (List Byte × List Byte)) (bad : DmaFault) : Chip :=
  let c := c.modHost fun h => { h with txTurn := (n + 1) % 16 }
  if bad ≠ .none then c.ringStop n 2 else
  let posted := descs.take (c.ringHeld n)
  match frameDescs posted with
  | none => if 32 ≤ posted.length then c.ringStop n 1 else c
  | some ds =>
    let first := ds.headD ([], [])
    let data := ds.flatMap fun d => slice d.2 0 (descLen d.1)
    if !descFlag first.1 0 || (ds.drop 1).any (fun d => descFlag d.1 0) || 32 < ds.length || (!descFlag first.1 2 && 16000 < data.length) then c.ringStop n 1
    else
      let c := (c.hostSend first.1 data).count N_HST_TX_FRAMES
      let c := c.count N_HST_TX_BYTES data.length
      let eop := ds.getLastD first
      let i := (c.f (ringCi n) + ds.length - 1) % c.ringSize n
      let c := (c.dmaWrite (c.pair (ringBase n) + 32 * i) (splice eop.1 24 (beBytes 1 1))).ringAdvance n ds.length
      if descFlag eop.1 7 then c.ringRequest n else c

/-- TX_RING_FRAME (R302, R303): the ring in turn hands one frame to the classifier, or stops. -/
def execTxRingFrame (descs : List (List Byte × List Byte)) (bad : DmaFault) (s : State) : Out := run s fun c =>
  if !c.dma then c else
  match c.nextTxRing with
  | none => c
  | some n => c.txRing n descs bad

/-! ## Receive rings -/

/-- The buffers a frame needs, of those posted; none when they do not hold it. -/
def buffersFor : Nat → List (List Byte) → Option (List (List Byte))
  | 0, _ => some []
  | _, [] => none
  | n, d :: r => (buffersFor (n - leAt d 8 2) r).map (d :: ·)

/-- The write-back of one buffer (Table 12.4). -/
def writeBack (f : Frame) (len : Nat) (sop eop : Bool) : List Byte :=
  let st := f.ride.stamp.getD (0, 0, 0)
  leBytes 2 len ++ leBytes 1 (b2n sop + 2 * b2n eop + 4 + 8 * b2n f.ride.stamp.isSome + 16 * b2n f.trap.isSome) ++ leBytes 1 0 ++
  leBytes 2 f.tag ++ leBytes 1 f.ingress ++ leBytes 1 (f.trap.getD 0) ++ leBytes 4 st.1 ++ leBytes 4 (st.2.1 * 256 + st.2.2) ++
  leBytes 2 f.qid ++ leBytes 2 0 ++ leBytes 4 (if eop then f.bytes.length else 0) ++ leBytes 8 0

/-- A frame written into its buffers, and their descriptors written back. -/
def Chip.fillBuffers (c : Chip) (p : Nat) (f : Frame) : Nat → Nat → List Byte → List (List Byte) → Chip
  | _, _, _, [] => c
  | k, i, data, d :: r =>
    let n := min data.length (leAt d 8 2)
    let c := c.dmaWrite (leAt d 0 8) (data.take n)
    let c := c.dmaWrite (c.pair (ringBase p) + 32 * (i % c.ringSize p)) (writeBack f n (k == 0) (r == []))
    let c := if bitOf (byteAt d 12) 7 then c.ringRequest p else c
    Chip.fillBuffers c p f (k + 1) (i + 1) (data.drop n) r

/-- A frame sent on port 20 (R303, R305). `descs` are the descriptors posted at CI. -/
def Chip.rxRing (c : Chip) (f : Frame) (descs : List (List Byte)) (bad : DmaFault) : Chip :=
  let p := 16 + f.qid % 16
  let held := if c.dma && c.ringRuns p then c.ringHeld p else 0
  let avail := descs.take (min held 8)
  match buffersFor f.bytes.length avail with
  | none => if 8 ≤ held then c.count N_HST_RX_TOOBIG else c.count N_HST_RX_NOBUF
  | some bs =>
    if bad ≠ .none then c.ringStop p 2
    else
      let c := (c.fillBuffers p f 0 (c.f (ringCi p)) f.bytes bs).ringAdvance p bs.length
      (c.count N_HST_RX_FRAMES).count N_HST_RX_BYTES f.bytes.length

/-- RX_RING_DELIVER (R184, R305): the frame sent on port 20 is written into its receive ring, or discarded. -/
def execRxRingDeliver (descs : List (List Byte)) (bad : DmaFault) (k : CellCheck) (s : State) : Out := run s fun c =>
  if !c.asks 20 then c else
  let r := c.takeChosen 20
  match r.2 with
  | none => r.1
  | some f =>
    let t := r.1.cellCheck k
    if t.2 then t.1 else t.1.rxRing f descs bad

/-! ## Host channels of the time-slot interchange (R306) -/

/-- The address of a frame's entry in the host's table. -/
def Chip.tdmEntry (c : Chip) (fn : Nat) : Nat :=
  c.pair HST_TDM_BASE_LO + 1024 * (fn % 2 ^ max 3 (min 10 (c.f HST_TDM_CFG_DEPTH_LOG2)))

/-- HOST_TDM_READ (R306): the input half of the next frame's entry, or `none` when the read has not completed in time. -/
def execHostTdmRead (half : Option (List Byte)) (s : State) : Out := run s fun c =>
  if !c.isOn 41 || !c.flag HST_TDM_CFG_EN then c else
  match if c.dma then half else none with
  | some bs => c.modHost fun h => { h with tdmIn := some ((c.nt.fn + 1) % 2 ^ 48, bs) }
  | none => (c.count N_HST_TDM_LATE).raise HST_ALARM_TDM_LATE

/-- HOST_TDM_WRITE (R306): the output half of the last frame's entry is written, then its FN. -/
def execHostTdmWrite (s : State) : Out := run s fun c =>
  if !c.dma || !c.flag HST_TDM_CFG_EN then c else
  match c.host.tdmOut.find? fun e => (e.1 + 1) % 2 ^ 48 == c.nt.fn with
  | none => c
  | some e => (c.emit (.dma (c.tdmEntry e.1 + 512) e.2)).setReg HST_TDM_FN (BitVec.ofNat 32 e.1)

end Sys2Proof.Machine
end

