-- ==== Sys2Proof/Machine/Cipher.lean ====
section
/-! DEFINITION. The look-aside cipher service and the host key slots (spec/12_host_and_cipher.md, R307 to R316). -/

namespace Sys2Proof.Machine
open Sys2Proof

/-- The chip with the key store changed. -/
def Chip.modKeys (c : Chip) (g : KeyStore → KeyStore) : Chip := { c with keys := g c.keys }

/-- A host key slot. -/
def Chip.keySlot (c : Chip) (n : Nat) : Option KeySlot := Map.get none c.keys.slots n

/-- The chip with a host key slot replaced. -/
def Chip.setKeySlot (c : Chip) (n : Nat) (k : Option KeySlot) : Chip := c.modKeys fun s => { s with slots := Map.set none s.slots n k }

/-! ## Requests -/

/-- A cipher request as its 64 bytes give it (Table 12.5). -/
structure Request where
  op : Nat
  big : Bool
  irq : Bool
  slot : Nat
  len : Nat
  src : Nat
  dst : Nat
  aad : Nat
  aadLen : Nat
  tag : List Byte
  iv : List Byte
  spare : Bool
  deriving DecidableEq, Repr

/-- The request that 64 bytes spell. -/
def parseRequest (bs : List Byte) : Request :=
  { op := byteAt bs 0, big := bitOf (byteAt bs 1) 0, irq := bitOf (byteAt bs 1) 1, slot := leAt bs 2 2 % 1024, len := leAt bs 4 4
    src := leAt bs 8 8, dst := leAt bs 16 8, aad := leAt bs 24 8, aadLen := leAt bs 32 4, tag := slice bs 36 4, iv := slice bs 40 16
    spare := leAt bs 56 8 != 0 }

/-- The bytes read at SRC, and those written at DST. -/
def Request.reads (r : Request) : Nat := if r.op = 4 then r.len + 16 else r.len
def Request.writes (r : Request) : Nat := if r.op = 3 then r.len + 16 else if r.op = 5 then 48 else r.len

/-- Whether two ranges of host memory share a byte. -/
def overlap (a n b m : Nat) : Bool := decide (a < b + m) && decide (b < a + n)

/-- The bytes of a data unit (Table 12.5). -/
def Request.unit (r : Request) : Nat := if r.big then 4096 else 512

/-- Whether LEN, AAD_LEN and the last XTS unit are within R308. -/
def Request.lengthOk (r : Request) : Bool :=
  match r.op with
  | 3 => decide (r.len ≤ 65536) && decide (r.aadLen ≤ 4096)
  | 4 => decide (r.len + 16 ≤ 262144) && decide (r.aadLen ≤ 4096)
  | 5 => decide (r.len ≤ 16777216)
  | _ => decide (16 ≤ r.len) && decide (r.len ≤ 1048576) && (r.len % r.unit == 0 || decide (16 ≤ r.len % r.unit))

/-- Whether a slot's TYPE and USAGE permit an operation (R312). -/
def KeySlot.permits (k : KeySlot) (op : Nat) : Bool :=
  match op with
  | 1 => k.type == 2 && bitOf k.usage 0
  | 2 => k.type == 2 && bitOf k.usage 1
  | 3 => k.type == 1 && bitOf k.usage 2
  | _ => k.type == 1 && bitOf k.usage 3

/-- The checks of Table 12.6 in their order, before any data moves; 0 when all pass. -/
def Chip.checkRequest (c : Chip) (q : Nat) (r : Request) : Nat :=
  let gcm := r.op == 3 || r.op == 4
  if r.op = 0 || 5 < r.op || r.spare || (r.dst != r.src && (overlap r.dst r.writes r.src r.reads || (gcm && overlap r.dst r.writes r.aad r.aadLen))) then 2
  else if !r.lengthOk then 6
  else if r.op = 5 then 0
  else if c.flag (CPH_Q_CFG_SLOT_LIM q) && (r.slot < c.f (CPH_Q_SLOTS_FIRST q) || c.f (CPH_Q_SLOTS_LAST q) < r.slot) then 4
  else match c.keySlot r.slot with
    | none => 3
    | some k => if k.permits r.op then 0 else 5

/-- XTS over data units (R308): unit `i` under sector number IV + i, little-endian. -/
def xtsUnits (f : List Byte → List Byte → List Byte → List Byte) (key : List Byte) (unit : Nat) : Nat → Nat → List Byte → List Byte
  | 0, _, _ => []
  | n + 1, iv, bs => if bs = [] then [] else f key (leBytes 16 (iv % 2 ^ 128)) (bs.take unit) ++ xtsUnits f key unit n (iv + 1) (bs.drop unit)

/-- A completion written (R310), and the queue advanced: TAG, RESULT, PHASE and BYTES. -/
def Chip.complete (c : Chip) (q : Nat) (r : Request) (result bytes : Nat) : Chip :=
  let p := 32 + q
  let n := c.ringSize p
  let cpl := r.tag ++ leBytes 1 result ++ leBytes 1 (b2n (c.ring p).even) ++ leBytes 2 0 ++ leBytes 4 bytes ++ leBytes 4 0
  let c := (c.dmaWrite (c.pair (ringBase p) + 64 * n + 16 * (c.f (ringCi p) % n)) cpl).count N_CPH_REQ
  let c := if 2 ≤ result then c.count N_CPH_REQ_ERR else c
  let c := if result = 4 then c.count N_CPH_SLOT_DENY else c
  let c := c.ringAdvance p 1
  if r.irq then c.ringRequest p else c

/-- The queue whose turn it is (R307): the one in turn while it has requests left of its WEIGHT, else the next one that
runs and holds requests. -/
def Chip.nextQueue (c : Chip) : Option Nat :=
  let ready := fun (q : Nat) => c.ringRuns (32 + q) && c.ringHeld (32 + q) != 0
  if 0 < c.host.left && ready c.host.queueTurn then some c.host.queueTurn
  else ((List.range 16).map fun k => (c.host.queueTurn + 1 + k) % 16).find? ready

/-- A queue takes one request of its turn. -/
def Chip.takeTurn (c : Chip) (q : Nat) : Chip :=
  let left := if 0 < c.host.left && q == c.host.queueTurn then c.host.left - 1 else max 1 (c.f (CPH_Q_CFG_WEIGHT q)) - 1
  c.modHost fun h => { h with queueTurn := q, left := left }

/-- A request taken from the queue in turn: refused by its checks, ended by a DMA error, or given to its operation with its key.
`op` is the operation whose step this is; a request of another operation is not this step's. -/
def Chip.cipher (o : Otp) (c : Chip) (op : Nat) (req : List Byte) (bad : DmaFault) (go : Chip → Nat → Request → List Byte → Chip) : Chip :=
  if o.hcs || !c.isOn 10 || !c.dma then c else
  match c.nextQueue with
  | none => c
  | some q =>
    if bad = .fetch then (c.takeTurn q).ringStop (32 + q) 2 else
    let r := parseRequest req
    if r.op ≠ op && 1 ≤ r.op && r.op ≤ 5 then c else
    let c := c.takeTurn q
    let res := c.checkRequest q r
    if res ≠ 0 then c.complete q r res 0
    else if bad = .data then c.complete q r 7 0
    else go c q r ((c.keySlot r.slot).elim [] fun k => k.key)

/-- A finished operation: its data written, its bytes counted, its completion after them (R309). -/
def Chip.cipherDone (c : Chip) (q : Nat) (r : Request) (out : List Byte) : Chip :=
  ((c.dmaWrite r.dst out).count N_CPH_BYTES r.len).complete q r 0 out.length

/-- XTS_ENCRYPT (R308). -/
def execXtsEncrypt (req data : List Byte) (bad : DmaFault) (s : State) : Out := runO s fun o c =>
  c.cipher o 1 req bad fun c q r key => c.cipherDone q r (xtsUnits Config.xtsEncrypt key r.unit (r.len / r.unit + 1) (leNat r.iv) (slice data 0 r.len))

/-- XTS_DECRYPT (R308). -/
def execXtsDecrypt (req data : List Byte) (bad : DmaFault) (s : State) : Out := runO s fun o c =>
  c.cipher o 2 req bad fun c q r key => c.cipherDone q r (xtsUnits Config.xtsDecrypt key r.unit (r.len / r.unit + 1) (leNat r.iv) (slice data 0 r.len))

/-- GCM_ENCRYPT (R308): the ciphertext, then the tag. -/
def execGcmEncrypt (req data aad : List Byte) (bad : DmaFault) (s : State) : Out := runO s fun o c =>
  c.cipher o 3 req bad fun c q r key =>
    let e := Config.gcmEncrypt key (slice r.iv 0 12) (slice aad 0 r.aadLen) (slice data 0 r.len)
    c.cipherDone q r (slice e.1 0 r.len ++ slice e.2 0 16)

/-- GCM_DECRYPT (R308, R309): the plaintext only when the tag verifies. -/
def execGcmDecrypt (req data aad : List Byte) (bad : DmaFault) (s : State) : Out := runO s fun o c =>
  c.cipher o 4 req bad fun c q r key =>
    match Config.gcmDecrypt key (slice r.iv 0 12) (slice aad 0 r.aadLen) (slice data 0 r.len) (slice data r.len 16) with
    | some p => c.cipherDone q r (slice p 0 r.len)
    | none => (((c.count N_CPH_BYTES r.len).count N_CPH_GCM_FAIL).raise CPH_ALARM_GCM_FAIL).complete q r 1 0

/-- SHA384 (R308). -/
def execSha384 (req data : List Byte) (bad : DmaFault) (s : State) : Out := runO s fun o c =>
  c.cipher o 5 req bad fun c q r _ => c.cipherDone q r (slice (Config.sha384 (slice data 0 r.len)) 0 48)

/-! ## Key slots -/

/-- Bytes of KEY_BUF. -/
def Chip.keyBytes (c : Chip) (at_ n : Nat) : List Byte := (List.range n).map fun i => Map.get 0 c.keys.buf (at_ + i)

/-- KEY_BUF with its bytes from 0 on written, and zeros after them. -/
def bufOf (bs : List Byte) : Map Byte := (List.range bs.length).foldl (fun m i => Map.set 0 m i (bs.getD i 0)) []

/-- The plaintext of a blob (R313) judged: its slot, or the error: 1 unwrap check, 2 attribute or length, 3 equal XTS halves.
The blob is 48 bytes where those pass the integrity check, else 80. DEDUCED (assumption 46). -/
def slotOfBlob (kek blob : List Byte) : Except Nat KeySlot :=
  let judge := fun (p : List Byte) (n : Nat) =>
    let type := byteAt p 1
    if byteAt p 0 ≠ 0xA5 || 0xF < byteAt p 2 || leAt p 3 5 ≠ 0 || !(type == 1 || type == 2) || n ≠ (if type = 1 then 48 else 80) then Except.error 2
    else if type = 2 && slice p 8 32 == slice p 40 32 then .error 3
    else .ok { type := type, usage := byteAt p 2 % 16, key := slice p 8 (32 * type) }
  match Config.kwUnwrap kek (slice blob 0 48) with
  | some p => judge p 48
  | none => match Config.kwUnwrap kek (slice blob 0 80) with
    | some p => judge p 80
    | none => .error 1

/-- The device-unique key-encryption key DKEK (R313). -/
def dkek : List Byte := Config.seedKey 1

/-- A slot's plaintext blob (R313). -/
def KeySlot.plain (k : KeySlot) : List Byte := beBytes 1 0xA5 ++ beBytes 1 k.type ++ beBytes 1 k.usage ++ fill 5 0 ++ k.key

/-- A key command's end: DONE and ERR, the alarm, and KEY_BUF holding `buf` and nothing else (R313, R316). -/
def Chip.keyDone (c : Chip) (err : Nat) (buf : List Byte) : Chip :=
  let c := ((c.modKeys fun k => { k with buf := bufOf buf }).put KEY_CMD_ERR err).raise KEY_CMD_DONE
  if err = 0 then c else c.raise KEY_ALARM_CMD_ERR

/-- KEY_LOAD (R313). -/
def Chip.keyLoad (c : Chip) (slot : Nat) : Chip :=
  match slotOfBlob dkek (c.keyBytes 0 80) with
  | .ok k => (c.setKeySlot slot (some k)).keyDone 0 []
  | .error e => c.keyDone e []

/-- KEY_ERASE (R311). -/
def Chip.keyErase (c : Chip) (slot : Nat) : Chip := (c.setKeySlot slot none).keyDone 0 []

/-- KEY_XPUB (R314): a new import pair, its public key and the signature in KEY_BUF, and the count advanced. -/
def Chip.keyXpub (o : Otp) (c : Chip) : Chip :=
  let id := c.freeCtr
  let cnt := (c.keys.imports + 1) % 2 ^ 32
  let q := slice (Config.ephemeralPub id) 0 96
  let sig := slice (Config.devEcSign (Config.sha384 (q ++ beBytes 8 o.serial ++ beBytes 4 cnt))) 0 96
  let c := { c with freeCtr := id + 1 }
  ((c.modKeys fun k => { k with pair := some id, imports := cnt }).keyDone 0 (q ++ sig))

/-- KEY_IMPORT (R314): the imported blob unwrapped, its slot loaded, and the key wrapped again under DKEK in KEY_BUF. -/
def Chip.keyImport (o : Otp) (c : Chip) (slot : Nat) : Chip :=
  match c.keys.pair with
  | none => c.keyDone 5 []
  | some id =>
    let qo := c.keyBytes 0 96
    if !Config.validPoint qo then c.keyDone 1 [] else
    let prk := Config.hkdfExtract (fill 48 0) (Config.ecdhX id qo)
    let info := beBytes 8 0x4F414C2D4B494D50 ++ beBytes 8 o.serial
    match slotOfBlob (slice (Config.hkdfExpand prk info 32) 0 32) (c.keyBytes 96 80) with
    | .ok k => ((c.setKeySlot slot (some k)).modKeys fun s => { s with pair := none }).keyDone 0 (slice (Config.kwWrap dkek k.plain) 0 (if k.type = 1 then 48 else 80))
    | .error e => c.keyDone e []

/-- KEY_INFO (R312). -/
def Chip.keyInfo (c : Chip) (slot : Nat) : Chip :=
  let w := match c.keySlot slot with
    | some k => 2 ^ 31 + k.type * 16 + k.usage
    | none => 0
  (c.setReg KEY_INFO (BitVec.ofNat 32 w)).keyDone 0 []

/-- A key command by its OP (R312 to R316): on FL9640-EN every one ends with ERR 6. -/
def Chip.keyCommand (o : Otp) (c : Chip) : Chip :=
  let slot := c.f KEY_CMD_SLOT
  let c := (c.lower KEY_CMD_DONE).put KEY_CMD_ERR 0
  if o.hcs then c.keyDone 6 [] else
  match c.f KEY_CMD_OP with
  | 1 => c.keyLoad slot
  | 2 => c.keyErase slot
  | 3 => c.keyXpub o
  | 4 => c.keyImport o slot
  | 5 => c.keyInfo slot
  | _ => c.keyDone 4 []

/-- The word of KEY_BUF that KEY_BUF_IDX names, its lowest byte first (R316). -/
def Chip.keyBufRead (c : Chip) : Chip × Word :=
  let w := c.f KEY_BUF_IDX_WORD
  (c.put KEY_BUF_IDX_WORD ((w + 1) % 64), BitVec.ofNat 32 (leNat (c.keyBytes (4 * w) 4)))

/-- A word written into KEY_BUF. -/
def Chip.keyBufWrite (c : Chip) (v : Word) : Chip :=
  let w := c.f KEY_BUF_IDX_WORD
  (c.modKeys fun k => { k with buf := (List.range 4).foldl (fun m i => Map.set 0 m (4 * w + i) (BitVec.ofNat 8 (v.toNat / 256 ^ i))) k.buf }).put KEY_BUF_IDX_WORD ((w + 1) % 64)

/-- KEY_STATUS as read: the import pair, the carriage slots and the host slots that hold a key. -/
def Chip.keyStatus (c : Chip) (carriage : Nat) : Word :=
  BitVec.ofNat 32 (b2n c.keys.pair.isSome * 2 ^ 31 + carriage * 2 ^ 11 + c.keys.slots.length)

end Sys2Proof.Machine
end

