-- ==== Sys2Proof/Machine/Feasibility.lean ====
section
/-! DEFINITION. The feasibility checks and the latency bounds (spec/11_network_time_and_deadlines.md, R285 to R289). -/

namespace Sys2Proof.Machine
open Sys2Proof

/-- A refusal: its reason of Table 13.8 and, of checks 1 and 3, what NTU_BND_FAIL and NTU_BND_FAIL_NS show. -/
structure Refused where
  reason : Nat
  port : Bool := false
  index : Nat := 0
  value : Option Nat := none
  deriving DecidableEq, Repr

/-! ## The tree and its rates -/

/-- The valid queues of a configuration, ascending. -/
def Proposal.queues (p : Proposal) : List Nat := (p.keys 3).filter fun q => entryValid (p.tab 3 q)

/-- The valid express queues (EXP = 1). -/
def Proposal.express (p : Proposal) : List Nat := p.queues.filter fun q => natBits (p.tab 3 q) 30 1 == 1

/-- The express queues of a port. -/
def Proposal.expressOf (p : Proposal) (port : Nat) : List Nat := p.express.filter fun q => natBits (p.tab 3 q) 0 10 == port

/-- The valid requirement entries, ascending, as QID and REQ in ns (Table 11.9). -/
def Proposal.requirements (p : Proposal) : List (Nat × Nat) :=
  ((p.keys 7).filter fun i => entryValid (p.tab 7 i)).map fun i => (natBits (p.tab 7 i) 16 13, 4 * natBits (p.tab 7 i) 0 16)

/-- Check 1 of the order, Format: parents, express queues and requirements (R197, Table 11.5). -/
def Proposal.formatOk (p : Proposal) : Bool :=
  (p.queues.all fun q =>
    let e := p.tab 3 q
    if natBits e 30 1 = 1 then decide (natBits e 0 10 ≤ 151) else entryValid (p.tab 4 (natBits e 0 10))) &&
  ((p.keys 4).all fun s => !entryValid (p.tab 4 s) || entryValid (p.tab 5 (natBits (p.tab 4 s) 0 10))) &&
  ((p.keys 5).all fun v => !entryValid (p.tab 5 v) || decide (natBits (p.tab 5 v) 0 10 ≤ 151)) &&
  decide (p.express.length ≤ 512) && p.requirements.all fun r => p.express.contains r.1

/-- The bounding meter of an express queue (R195). -/
def Proposal.bmtr (p : Proposal) (q : Nat) : Nat := natBits (p.tab 3 q) 48 13

/-- Whether an action of a meter passes or remarks (R287). -/
def goesOn (act : Nat) : Bool := decide (act ≤ 1)

/-- The burst and the rate in kb/s of a meter, as the bounds count them (R287); none where the entry is not valid. -/
def Proposal.meterTerms (p : Proposal) (m : Nat) : Option (Nat × Nat) :=
  let e := p.tab 2 m
  if !entryValid e then none
  else
    let y := goesOn (natBits e 2 2)
    let r := goesOn (natBits e 4 2)
    let size := fun w => min 16777216 (natBits (entryWord e w) 0 25)
    let burst := size 2 + (if y || r then size 4 else 0)
    some (burst, if natBits e 30 1 = 1 && y then rateKbps (entryWord e 3) else rateKbps (entryWord e 1))

/-- The data rate of a scheduler port in kb/s: of an Ethernet port's mode, else PRATE (R202, R287). -/
def Proposal.portRate (p : Proposal) (port : Nat) : Nat :=
  if port < 20 then
    match p.portMode port with
    | 1 => (match p.f (ETH_MODE_SGMII_SPD port) with
      | 0 => 10000
      | 1 => 100000
      | _ => 1000000)
    | 2 => 1000000 | 3 => 2500000 | 4 => 10000000 | 5 => 25000000 | 6 => 100000000
    | _ => 0
  else rateKbps (entryWord (p.tab 6 port) 1)

/-- A list without its repeats. -/
def distinct : List Nat → List Nat
  | [] => []
  | a :: r => if r.contains a then distinct r else a :: distinct r

/-- The sum of a number over a list. -/
def total (f : Nat → Nat) (l : List Nat) : Nat := l.foldl (fun n x => n + f x) 0

/-- The committed rates stay within 98 % of the port's rate (R202). -/
def Proposal.ratesOk (p : Proposal) : Bool :=
  let cir := fun t i => rateKbps (entryWord (p.tab t i) 1)
  let subs := (p.keys 4).filter fun s => entryValid (p.tab 4 s)
  let svcs := (p.keys 5).filter fun v => entryValid (p.tab 5 v)
  let parent := fun t i => natBits (p.tab t i) 0 10
  let fits := fun (sum port : Nat) => decide (100 * sum ≤ 98 * p.portRate port)
  (svcs.all fun v => fits (total (cir 4) (subs.filter fun s => parent 4 s == v)) (parent 5 v)) &&
  (List.range 152).all fun port =>
    let meters := distinct ((p.expressOf port).map p.bmtr)
    let sum := total (cir 5) (svcs.filter fun v => parent 5 v == port) + total (fun m => ((p.meterTerms m).map (·.2)).getD 0) meters
    sum == 0 || fits sum port

/-! ## The other checks -/

/-- Check 8, domains (R20, R26, R183, R372): every domain the configuration uses is ON. -/
def Chip.domainsOk (c : Chip) (p : Proposal) : Bool := (List.range 50).all fun d => !c.uses p d || c.isOn d

/-- Whether a port may have a mode (Table 9.2). -/
def modeAllowed (n m : Nat) : Bool :=
  match m with
  | 0 => true | 2 => true
  | 1 => decide (4 ≤ n) | 3 => decide (4 ≤ n)
  | 4 => decide (n < 4) | 5 => decide (n < 4)
  | 6 => n == 0
  | _ => false

/-- Check 7, pins and port modes (R212, R420). -/
def Chip.pinsOk (c : Chip) (p : Proposal) : Bool :=
  ((List.range 20).all fun n => modeAllowed n (p.portMode n)) &&
  !(p.portMode 0 == 6 && (List.range 3).any fun n => p.portMode (n + 1) != 0) &&
  ((List.range 4).all fun k => !(bitOf (p.f TOP_PINMUX_TRIB_GPIO) k && p.flag (TDM_CFG_EN (28 + k)))) &&
  !(p.flag TOP_PINMUX_NVM_GPIO && c.f NVM_STATUS_MODE == 2) && !(p.flag TOP_PINMUX_PPS_GPIO && p.flag NTU_PPS_CFG_PPSIN_DISC)

/-- Whether a valid upstream slot of a configuration names a tributary, directly or through the interchange. -/
def Proposal.namedUp (p : Proposal) (n src : Nat) : Bool :=
  (List.range 64).any fun s => p.flag (TCM_US_SLOT_VALID s) && p.f (TCM_US_SLOT_SRC s) == src && p.f (TCM_US_SLOT_TRIB s) == n

/-- Whether an input channel exists in a configuration (R258, R262). -/
def Proposal.channelExists (p : Proposal) (ch : Nat) : Bool :=
  if ch < 1024 then p.flag (TDM_CFG_EN (ch / 32)) && decide (p.f (TDM_CFG_MODE (ch / 32)) < 2) && !p.namedUp (ch / 32) 1
  else if ch < 3072 then p.flag (TCM_DS_SLOT_VALID ((ch - 1024) / 32))
  else decide (ch < 4096)

/-- Whether every written connect entry of a page names a channel that exists (R262). DEDUCED (assumption 41): an
entry at its reset value names none. -/
def Chip.pageOk (c : Chip) (p : Proposal) (page : Nat) : Bool :=
  c.tsi.copy.all fun e => e.1 / 4096 != page || natBits e.2 30 2 != 0 || p.channelExists (natBits e.2 16 12)

/-- Check 9, references of the interchange (R241, R248, R256, R262). -/
def Chip.tsiOk (c : Chip) (p : Proposal) (swap : Bool) : Bool :=
  ((List.range 32).all fun n =>
    let unframed := decide (2 ≤ p.f (TDM_CFG_MODE n))
    let direct := p.flag (TDM_CFG_TX_SRC n)
    let slot := 32 * p.f (TDM_CFG_DIR_LINE n) + p.f (TDM_CFG_DIR_SLOT n)
    !p.flag (TDM_CFG_EN n) ||
      (!(unframed && !direct) && !(unframed && p.namedUp n 0) && !(direct && !p.flag (TCM_DS_SLOT_VALID slot)) && !(!direct && p.flag (TDM_CFG_CLK_SRC n)))) &&
  ((List.range 64).all fun s =>
    (!p.flag (TCM_DS_SLOT_VALID s) || (List.range 32).all fun k =>
      let t := s / 32 * 32 + k
      t == s || !p.flag (TCM_DS_SLOT_VALID t) || p.f (TCM_DS_SLOT_CONT t) != p.f (TCM_DS_SLOT_CONT s)) &&
    !(p.flag (TCM_US_SLOT_VALID s) && p.flag (TCM_US_SLOT_SRC s) && !p.flag (TDM_CFG_EN (p.f (TCM_US_SLOT_TRIB s))))) &&
  c.pageOk p c.tsi.active && (!swap || c.pageOk p (1 - c.tsi.active))

/-- Check 10, buffer pools (R186). -/
def Proposal.poolsOk (p : Proposal) : Bool :=
  let banks := popcount 8 (p.f COP_CFG_BANK_EN)
  let mins := total (fun q => natBits (p.tab 1 q) 0 18) p.queues
  decide (mins + 1024 + 16384 ≤ 24576 * banks) && decide (p.f COP_RM_CFG_RECIRC_CELLS + p.f COP_RM_CFG_MIRROR_CELLS ≤ 1024)

/-- Check 2, pause on express (R224). -/
def Proposal.pauseOk (p : Proposal) : Bool := (List.range 4).all fun n => !(p.expressOf n != [] && p.flag (ETH_PAUSE_OBEY n))

/-- The valid upstream slots of a line. -/
def Proposal.upSlots (p : Proposal) (x : Nat) : Nat := ((List.range 32).filter fun n => p.flag (TCM_US_SLOT_VALID (32 * x + n))).length

/-- Check 4, container grants. -/
def Proposal.containersOk (p : Proposal) : Bool :=
  (List.range 2).all fun x =>
    p.upSlots x == 0 || (p.flag (NTU_CG_EN x) && decide (16 + 4 * p.f (NTU_CG_RPT x) + 40 * p.upSlots x ≤ burstCapacity (p.f (NTU_CG_CG_LEN x))))

/-- XMAX of a configuration (R286). -/
def Proposal.xmax (p : Proposal) : Nat := max 64 (min 1000 (p.f NTU_XCFG_XMAX))

/-- XG_LEN of an express-grant entry. -/
def xgLen (e : Nat) : Nat := natBits e 0 20

/-- h of R288: the bytes before the carriage part of an express grant. -/
def Proposal.grantHead (p : Proposal) (i : Nat) : Nat :=
  let e := p.tab 8 i
  16 + 4 * natBits e 23 7 + (if natBits e 30 1 = 1 then 40 * p.upSlots (i / 64) else 0)

/-- Check 3, express grant length: the first entry that is short, and the shortfall. -/
def Proposal.shortGrant (p : Proposal) : Option (Nat × Nat) :=
  ((p.keys 8).find? fun i => entryValid (p.tab 8 i) && decide (burstCapacity (xgLen (p.tab 8 i)) < p.grantHead i + (p.xmax - 4) + 26)).map fun i =>
    (i, p.grantHead i + (p.xmax - 4) + 26 - burstCapacity (xgLen (p.tab 8 i)))

/-! ## The latency bounds -/

/-- A quotient rounded to the nearest whole. -/
def nearest (a b : Nat) : Nat := if b = 0 then 0 else (2 * a + b) / (2 * b)

/-- tx(p) of Table 11.6 in ns. -/
def Proposal.txTerm (p : Proposal) (port : Nat) : Nat :=
  let fec := p.f (ETH_MODE_FEC port)
  match p.portMode port with
  | 1 => (match p.f (ETH_MODE_SGMII_SPD port) with
    | 0 => 13692
    | 1 => 1412
    | _ => 192)
  | 2 => 192 | 3 => 88
  | 4 => if fec = 1 then 122 else 82
  | 5 => if fec = 1 then 112 else if fec = 2 then 152 else 72
  | 6 => 102
  | _ => 0

/-- s_l and c_l of R287 for a level of a port; none where a meter of theirs is not valid. DEDUCED (assumption 42): a meter
that limits nothing leaves every queue that waits behind it unbounded. -/
def Proposal.levelSums (p : Proposal) (port level : Nat) : Option (Nat × Nat) :=
  let qs := p.expressOf port
  let at_ := distinct ((qs.filter fun q => decide (level ≤ prioOf (p.tab 3 q))).map p.bmtr)
  let above := distinct ((qs.filter fun q => decide (level < prioOf (p.tab 3 q))).map p.bmtr)
  if (at_.any fun m => (p.meterTerms m).isNone) then none
  else some (total (fun m => ((p.meterTerms m).map (·.1)).getD 0) at_, total (fun m => ((p.meterTerms m).map (·.2)).getD 0) above)

/-- The downstream bound B(q) in ns (R287); none is unbounded. Each term is rounded to the nearest ps. -/
def Proposal.downBound (p : Proposal) (port level : Nat) : Option Nat :=
  let r := p.portRate port
  match p.levelSums port level with
  | none => none
  | some (s, above) =>
    if p.flag (ETH_PAUSE_OBEY port) || r ≤ above then none
    else
      let first := if port < 4 && p.flag (ETH_MM_PREEMPT_EN port) then 64 * (1 + p.f (ETH_MM_ADD_FRAG_SIZE port)) + 63
        else max 64 (min 16000 (p.f (ETH_RXF_MAX_FRAME port)))
      let w := nearest ((max first p.xmax + 20) * 8 * 10 ^ 9) r
      let qd := nearest ((s - p.xmax) * 11 * 10 ^ 9) (r - above)
      some (nearest (252000 + w + qd + p.txTerm port * 1000 + 188000) 1000)

/-- The upstream bound u(q) in ns (R288); none is unbounded. -/
def Proposal.upBound (p : Proposal) (port level : Nat) : Option Nat :=
  let i := port - 24
  let e := p.tab 8 i
  let room := burstCapacity (xgLen e) - p.grantHead i
  match p.levelSums port level with
  | none => none
  | some (s, _) =>
    if !entryValid e || room = 0 then none
    else
      let k := if s * 90 ≤ 64 * room then 0 else ceilDiv (s * 90 - 64 * room) (64 * room)
      some (nearest (1000000 + nearest ((1 + k) * natBits (entryWord e 1) 0 22 * 2000) 3 + nearest (xgLen e * 2000) 3) 1000)

/-- The kind and the bound of an express queue (R289). -/
def Proposal.bound (p : Proposal) (q : Nat) : Nat × Nat :=
  let port := natBits (p.tab 3 q) 0 10
  let level := prioOf (p.tab 3 q)
  if 20 ≤ port ∧ port ≤ 23 then (0, 0)
  else
    match if port < 20 then p.downBound port level else p.upBound port level with
    | none => (4, 0xFFFFFFFF)
    | some b => (if port < 4 then 1 else if port < 20 then 2 else 3, b)

/-- Whether a bound meets a requirement; kinds 0 and 2 are not judged (R289). -/
def meets (b : Nat × Nat) (req : Nat) : Bool := b.1 == 0 || b.1 == 2 || (b.1 != 4 && decide (b.2 ≤ req))

/-- Check 1, latency: the first express queue, by QID, that misses a requirement. -/
def Proposal.lateQueue (p : Proposal) : Option (Nat × Nat) :=
  (p.express.find? fun q => p.requirements.any fun r => r.1 == q && !meets (p.bound q) r.2).map fun q => (q, (p.bound q).2)

/-- The bound table (R289, Table 11.9): words 0 and 1 of each express queue, by QID. -/
def Proposal.boundTable (p : Proposal) : List (Nat × Nat) :=
  p.express.map fun q =>
    let b := p.bound q
    let reqs := p.requirements.filter fun r => r.1 == q
    let met := reqs != [] && b.1 != 0 && b.1 != 2 && reqs.all fun r => meets b r.2
    (2 ^ 31 + b.1 * 2 ^ 28 + b2n met * 2 ^ 27 + natBits (p.tab 3 q) 0 10 % 256 * 2 ^ 13 + q, if b.1 = 4 then 0xFFFFFFFF else b.2)

/-- Check 6, event slots: the schedule's entries arm one after another at an instant (R282, R432). -/
def scheduleOk (valid : Bool) (now : NetTime) (armed : List EvSlot) : List EvSlot → Bool
  | [] => true
  | e :: r => decide (armed.length < 64) && armError valid now armed e == 0 && scheduleOk valid now (armed ++ [e]) r

/-- The feasibility checks of Table 11.5, in their order; `at_` is the instant at which the schedule arms. -/
def Chip.feasible (c : Chip) (p : Proposal) (events : List EvSlot) (valid : Bool) (at_ : NetTime) : Option Refused :=
  let armed := (c.time.slots.filter fun e => e.2.state == 1).map (·.2)
  let swap := (armed ++ events).any fun e => e.action == 4
  if !p.formatOk then some { reason := 0x05 }
  else if !c.domainsOk p then some { reason := 0x15 }
  else if !c.pinsOk p then some { reason := 0x14 }
  else if !c.tsiOk p swap then some { reason := 0x16 }
  else if !p.poolsOk then some { reason := 0x19 }
  else if !p.ratesOk then some { reason := 0x12 }
  else if !p.pauseOk then some { reason := 0x17 }
  else if !p.containersOk then some { reason := 0x18 }
  else match p.shortGrant with
    | some (i, v) => some { reason := 0x11, port := true, index := i, value := some v }
    | none => match p.lateQueue with
      | some (q, v) => some { reason := 0x10, index := q, value := some v }
      | none => if scheduleOk valid at_ armed events then none else some { reason := 0x13 }

/-- What NTU_BND_FAIL and NTU_BND_FAIL_NS show of a refused commit: VALID tells whether check 1 or 3 failed. -/
def Chip.showFailure (c : Chip) (r : Refused) : Chip :=
  match r.value with
  | some v => (c.setReg NTU_BND_FAIL (BitVec.ofNat 32 (2 ^ 31 + b2n r.port * 2 ^ 30 + r.index % 8192))).setReg NTU_BND_FAIL_NS (BitVec.ofNat 32 v)
  | none => c.lower NTU_BND_FAIL_VALID

end Sys2Proof.Machine
end

