-- ==== Sys2Proof/Machine/Wake.lean ====
section
/-! DEFINITION. The power sequencer's steps: the end of a quiesce, the four wake steps, the re-application of a waking
domain, and the wake sources (spec/15_power_domains.md, R375 to R383; spec/08, R203 and R205). -/

namespace Sys2Proof.Machine
open Sys2Proof

/-! ## Buckets -/

/-- A shaper's buckets set as its entry's RESET_MODE states (R203, R205). -/
def Chip.fillShaper (c : Chip) (t i : Nat) : Chip :=
  let full := natBits (c.tab (3 + t) i) 15 1 == 1
  let w := c.shaperWords t i
  c.setShaper t i { c := if full then (burstUnits w.2.1 : Int) else 0, p := if full then (burstUnits w.2.2.2 : Int) else 0, seen := c.now }

/-- A meter's buckets set as its RESET_MODE states (R203, R205). -/
def Chip.fillMeter (c : Chip) (i : Nat) : Chip :=
  let e := c.tab 2 i
  let full := natBits e 28 1 == 1
  let m := Map.get {} c.meters i
  { c with meters := Map.set {} c.meters i { m with
    c := if full then burstUnits (entryWord e 2) else 0, e := if full then burstUnits (entryWord e 4) else 0, seen := c.now } }

/-! ## Re-application (R9, R10, R19, R381) -/

/-- The power domain that holds a configuration table. -/
def tableDom (t : Nat) : Nat :=
  match t with
  | 0 => 8 | 1 => 24 | 2 => 26 | 3 => 25 | 4 => 25 | 5 => 25 | 6 => 25 | 7 => 47 | 8 => 47 | _ => 0

/-- The pages of the register map that hold registers of a domain. -/
def wakePages (d : Nat) : List Nat :=
  if 1 ≤ d && d ≤ 3 then [8, 9] else if 4 ≤ d && d ≤ 6 then [10, 11]
  else if d = 7 then [12] else if d = 8 then [13] else if d = 10 then [32, 33] else if d = 11 then [16]
  else if d = 24 then [20] else if d = 25 then [21] else if d = 26 then [22]
  else if 27 ≤ d && d ≤ 34 then [24, 25] else if 35 ≤ d && d ≤ 39 then [26]
  else if d = 41 then [24, 34] else if d = 42 || d = 43 then [28] else if d = 44 then [29, 30, 31]
  else if d = 45 || d = 46 then [35] else if d = 47 then [5] else if d = 48 then [6, 7] else if d = 49 then [4] else []

/-- A domain's registers and counters at their reset values, its posted writes and the latches and holds of its blocks gone (R10,
R351); what PD00 holds of a port's status stays, and so does what the
two-ended merge shows of the network time unit, the time master and O. DEDUCED (assumption 47). -/
def Chip.resetDomain (c : Chip) (d : Nat) : Chip :=
  let tm := (c.f TWE_STATUS_TM_ACT, c.f TWE_STATUS_NO_MASTER, c.reg TWE_TM_OFS)
  let heard := (List.range 20).filter fun n => macDom n == d && c.flag (ETH_STATUS_LISTEN n)
  let gone := fun (e : Nat × Option Word) => (wakePages d).contains (e.1 % 256)
  let c := { c with
    regs := c.regs.filter (fun e => addrDom e.1 != d), counters := c.counters.filter (fun e => addrDom e.1 != d)
    posted := c.posted.filter (fun e => addrDom e.addr != d), latch := c.latch.filter (fun e => !gone e), hold := c.hold.filter fun e => !gone e }
  let c := if d = 7 then ((c.put TWE_STATUS_TM_ACT tm.1).put TWE_STATUS_NO_MASTER tm.2.1).setReg TWE_TM_OFS tm.2.2 else c
  heard.foldl (fun c n => c.raise (ETH_STATUS_LISTEN n)) c

/-- The committed class C registers and table entries of a domain brought into it. -/
def Chip.reapply (c : Chip) (d : Nat) : Chip :=
  let c := (c.store.filter fun e => addrDom e.1 == d).foldl (fun c e => c.setReg e.1 e.2) c
  let mine := fun (e : Nat × Nat) => tableDom (e.1 / 65536) == d
  { c with tables := (c.tableStore.filter mine).foldl (fun m e => Map.set (tableReset (e.1 / 65536) (e.1 % 65536)) m e.1 e.2) (c.tables.filter fun e => !mine e) }

/-- A line protocol domain starts again: no grant, no run, the timers of R109 from 0. -/
def Chip.protocolWake (c : Chip) (x : Line) : Chip :=
  let c := ((c.unplaceGrants x (c.line x).grants).setGrants x []).modLine x fun l => { l with
    windows := [], recalled := none, heSeen := none, usableRun := 0, esaRun := 0, micRun := 0, burstSeq := 0, area := none, bulkIn := none, bulkRx := [] }
  if (c.line x).micKey.isSome then c.startLom x else c

/-- A line receiver starts again. -/
def Chip.receiverWake (c : Chip) (x : Line) : Chip :=
  c.modLine x fun l => { l with cands := [], badRun := 0, warnLow := 0, warnHigh := 0, failLow := 0, failHigh := 0, sdBits := 0, sfBits := 0, sdFrames := 0, sfFrames := 0, eqWritten := [] }

/-- The packet buffer with every cell free and every queue empty (R205); packets in transit are gone with their cells. -/
def Chip.bufferWake (c : Chip) : Chip :=
  let c := c.modCooper fun k => { seqs := k.seqs, nextId := k.nextId }
  let c := (c.modLine .a fun l => { l with contexts := [] }).modLine .b fun l => { l with contexts := [] }
  { c with twoEnded := { c.twoEnded with waiting := [] }
           sorter := { c.sorter with acted := c.sorter.acted.filter (fun a => a.banks == []), input := c.sorter.input.filter fun p => p.banks == [] } }

/-- The scheduler with its buckets set, every deficit 0 and every pointer at its first child (R205). -/
def Chip.schedulerWake (c : Chip) : Chip :=
  let c := c.modDrover fun v => { chosen := v.chosen }
  (List.range 3).foldl (fun c k => (c.tabKeys (4 + k)).foldl (fun c i => c.fillShaper (1 + k) i) c) c

/-- The key slots that images brought, reloaded (R315). -/
def Chip.keysWake (c : Chip) : Chip :=
  let lost := c.keys.slots.any fun e => (Map.get [] c.cfg.keys e.1) == []
  let c := c.modKeys fun k => { k with slots := [], buf := [], pair := none }
  let c := c.cfg.keys.foldl (fun c e => match slotOfBlob dkek e.2 with
    | .ok k => c.setKeySlot e.1 (some k)
    | .error _ => c) c
  if lost then c.raise KEY_ALARM_SLOTS_LOST else c

/-- A domain's arrays and logic as its wake leaves them; `kept` tells that its arrays were retained (R205, R381). -/
def Chip.wakeArrays (c : Chip) (d : Nat) (kept : Bool) : Chip :=
  if d = 1 then c.receiverWake .a
  else if d = 4 then c.receiverWake .b
  else if d = 3 then c.protocolWake .a
  else if d = 6 then c.protocolWake .b
  else if d = 7 then
    let c := { c with twoEnded := { waiting := if kept then c.twoEnded.waiting else [] } }
    (List.range 32).foldl Chip.resetPair (c.put TWE_STATUS_ACT_LINE (c.f TWE_CFG_ACT_PREF))
  else if d = 8 then (c.dropContexts .a).dropContexts .b
  else if d = 9 then (if kept then c else (c.modLine .a fun l => { l with lineKey := none }).modLine .b fun l => { l with lineKey := none })
  else if d = 10 then (if kept then c else c.keysWake)
  else if d = 11 then
    let c := if kept then c else c.modSorter fun s => { s with frags := [], packets := [], bytes := [] }
    (((c.modSorter fun s => { s with input := [], turn := [] }).put SRT_EPOCH_STATUS_ACTIVE c.sorter.recorded).raise SRT_EPOCH_STATUS_DRAINED).put SRT_EPOCH_STATUS_IN_FLIGHT 0
  else if 12 ≤ d ∧ d ≤ 15 then
    (if kept then c else c.modSorter fun s => { s with rules := (s.copy.filter fun e => e.1 / 3072 == d - 12).foldl (fun m e => Map.insert m e.1 e.2) (s.rules.filter fun e => e.1 / 3072 != d - 12) })
  else if 16 ≤ d ∧ d ≤ 23 then
    (if kept then c else c.modCooper fun k => { k with frames := k.frames.map (fun f => if f.banks.contains (d - 16) then { f with lost := true } else f) })
  else if d = 24 then (if kept then c else c.bufferWake)
  else if d = 25 then c.schedulerWake
  else if d = 26 then
    let c := { c with meters := c.meters.map (fun (e : Nat × Meter) => (e.1, { e.2 with green := 0, yellow := 0, red := 0 })) }
    (c.tabKeys 2).foldl Chip.fillMeter c
  else if 27 ≤ d ∧ d ≤ 34 then
    ((List.range 20).filter fun n => macDom n == d).foldl (fun c n =>
      let c := (c.modPort n fun _ => {}).modSorter fun s => { s with input := s.input.filter fun p => !(p.pass == 0 && p.ingress == n) }
      let c := (((c.stop (.pause n)).stop (.xoff n)).stop (.verify n)).modDrover fun v => { v with chosen := v.chosen.filter fun e => e.1 != n }
      if n = 0 then c.fixTxOrder else c) c
  else if 35 ≤ d ∧ d ≤ 39 then
    ((List.range 20).filter fun n => laneDom n == d).foldl (fun c l => (c.stop (.polarity l)).fixPolarity l) c
  else if d = 41 then { c with host := { tdmOut := c.host.tdmOut } }
  else if d = 42 ∨ d = 43 then ((List.range 32).filter fun n => tribDom n == d).foldl (fun c n => ((c.setTrib n {}).stop (.mfSearch n))) c
  else if d = 44 then
    let c := if kept then c else c.modTsi fun w => { w with pages := w.copy }
    let c := c.modTsi fun w => { w with inputs := [], before := [], outputs := [], prbs := 0x7FFF, monitors := [], built := [] }
    let c := (c.put TSI_STATUS_ACTIVE c.tsi.active).stop .cmCopy
    (List.range 64).foldl (fun c s => c.setSlot s {}) c
  else if d = 48 then c.talWake
  else c

/-- A domain comes ON (R380, R381): its registers reset and re-applied, its arrays treated, the requests that waited for
it carried on. `bad` are the retained words with an uncorrectable error, each reported. -/
def Chip.wakeUp (c : Chip) (d : Nat) (bad : List Nat) : Chip :=
  let kept := c.power.retained.contains d
  let first := c.power.woken.contains d
  let c := ((c.resetDomain d).reapply d).wakeArrays d kept
  let c := if kept then bad.foldl (fun c a => c.fault 1 d a 0 false) c else c
  let c := { c with power := { c.power with retained := c.power.retained.filter (· != d), woken := if first then c.power.woken else d :: c.power.woken } }
  let c := ((c.put (PWR_STATE_PHASE d) 0).stop (.wake d)).setPresent d 2
  ((c.raiseBit ⟨PWR_WOKE (d / 32), 0, 32⟩ (d % 32)).count N_PWR_WAKES).raise PWR_ALARM_WOKE

/-- WAKE_COMPLETE (R381): re-application and scrubbing of a domain end, and it becomes ON. -/
def execWakeComplete (d : Nat) (bad : List Nat) (s : State) : Out := run s fun c =>
  if c.f (PWR_STATE_PHASE d) ≠ 6 || 50 ≤ d then c else (((c.wakeUp d bad).runJobs).grantSlot).settle

/-- The line one of whose domains this is. -/
def domLine (d : Nat) : Option Line := if 1 ≤ d && d ≤ 3 then some .a else if 4 ≤ d && d ≤ 6 then some .b else none

/-- What the loss of a domain means outside it: a line without its receive domains has LOS and LOF (R35), and a port without
its lanes has no link (R211). -/
def Chip.domainLost (c : Chip) (d : Nat) : Chip :=
  let c := match domLine d with
    | some x => if (d = rxDom x || d = protoDom x) && c.f (LPx_ACT_STATUS_SLEEP x) < 2 then c.losRise x else c
    | none => c
  if 27 ≤ d ∧ d ≤ 39 then ((List.range 20).filter fun n => macDom n == d || laneDom n == d).foldl Chip.linkFalls c else c

/-- The target of the request that a domain's quiesce belongs to. -/
def Chip.jobTarget (c : Chip) (d : Nat) : Nat :=
  ((c.power.jobs.flatMap (·.todo)).find? fun m => m.dom == d && decide (m.target < 2)).elim 0 (·.target)

/-- Whether a domain's drain can have ended: no grant pending on a transmitter's line, no cell in a buffer bank (R376). -/
def Chip.drained (c : Chip) (d : Nat) : Bool :=
  if d = 2 || d = 5 then !c.grantsPend d
  else if 16 ≤ d ∧ d ≤ 23 then Map.get 0 c.cooper.cells (d - 16) == 0
  else true

/-- QUIESCE_END (R373, R376): a domain's drain ends; it is isolated and goes to its target. -/
def execQuiesceEnd (d : Nat) (s : State) : Out := run s fun c =>
  if c.f (PWR_STATE_PHASE d) ≠ 1 || 50 ≤ d || !c.drained d then c else
  let t := c.jobTarget d
  let c := ((c.domainLost d).put (PWR_STATE_PHASE d) 0).stop (.drain d)
  let c := { c with power := { c.power with retained := if t = 1 && !c.power.retained.contains d then d :: c.power.retained else c.power.retained, retry := c.power.retry.filter fun m => m.dom != d } }
  (((c.setPresent d t).count N_PWR_DOWNS).runJobs).settle

/-- The requests whose domain in transition failed end with a result; their moves that do not depend on it go on. -/
def Chip.failJobs (c : Chip) (d res : Nat) (up : Bool) : Chip :=
  let mine := fun (j : PowerJob) => j.todo.any fun m => m.dom == d && (m.target == 2) == up
  let js := c.power.jobs.filter mine
  let c := { c with power := { c.power with jobs := (c.power.jobs.map fun j => if mine j then j.without d else j).filter fun j => j.todo != [] } }
  js.foldl (fun c j => c.failResult j d res) c

/-- The lowerings of commits that a failed quiesce of a domain leaves undone: its own and those of its parents (R376). -/
def Chip.lateMoves (c : Chip) (d : Nat) : List PowerMove :=
  (c.power.jobs.filter fun j => j.src == .commit).flatMap fun j =>
    j.todo.filter fun m => decide (m.target < 2) && (m.dom == d || (ancestors d).contains m.dom)

/-- DRAIN_TIMEOUT (R376): the drain limit passes, and the domain resumes as it was. What a commit asked for is tried again, and
each further failure counts in PWR_DRAIN_RETRY alone. A transmitter's limit runs once its line has no pending grant. -/
def execDrainTimeout (d : Nat) (s : State) : Out := run s fun c =>
  let c := if 50 ≤ d || c.f (PWR_STATE_PHASE d) ≠ 1 || c.grantsPend d || c.running (.drain d) then c else c.start (.drain d) (drainLimit d)
  c.expire (.drain d) fun c =>
    if c.f (PWR_STATE_PHASE d) ≠ 1 then c else
    let c := c.put (PWR_STATE_PHASE d) 0
    let again := c.power.jobs.any fun (j : PowerJob) => j.src == .retry && j.todo.any fun m => m.dom == d
    let late := if again then [] else c.lateMoves d
    let c := c.failJobs d 2 false
    let c := if again then c.count N_PWR_DRAIN_RETRY else c
    (Chip.runJobs { c with power := { c.power with retry := c.power.retry ++ late } }).settle

/-- DRAIN_RETRY (R376): at CIF 0 every committed lowering whose quiesce failed is tried again, unless a child that is not to go down
with it is ON. -/
def execDrainRetry (s : State) : Out := run s fun c =>
  if c.power.retry = [] then c else
  let c := c.nextFrame 20
  let can := fun (m : PowerMove) => c.f (PWR_STATE_PRESENT m.dom) == 2 && !c.inTransition m.dom
  let ms := c.power.retry.filter fun m => can m && (children m.dom).all fun k => !c.onOrWaking k || c.power.retry.any fun q => q.dom == k && can q
  if ms = [] then c else Chip.runJobs { c with power := { c.power with jobs := c.power.jobs ++ [{ src := .retry, todo := ms }] } }

/-- A domain whose wake failed is left OFF (R380, R399). -/
def Chip.wakeFails (c : Chip) (d : Nat) : Chip :=
  let step := c.f (PWR_STATE_PHASE d) - 1
  let c := ((c.put (PWR_STATE_PHASE d) 0).stop (.wake d)).put (PWR_STATE_FAIL_STEP d) step
  let c := { c with power := { c.power with retained := c.power.retained.filter (· != d), waiting := c.power.waiting.filter (· != d) } }
  let c := (((c.setPresent d 0).raiseBit ⟨PWR_FAIL (d / 32), 0, 32⟩ (d % 32)).count N_PWR_FAILS).raise PWR_ALARM_PWR_FAIL
  let c := match domLine d with
    | some x => (if c.f (LPx_ACT_STATUS_SLEEP x) < 2 then c else (c.put (LPx_ACT_STATUS_SLEEP x) 0).modLine x fun l => { l with sleep := none }).domainLost d
    | none => c.domainLost d
  let c := (c.failJobs d 4 true).fault 16 d 0 step false
  ((c.runJobs).grantSlot).settle

/-- WAKE_STEP_READY (R380, R399): a step's ready signal arrives; `bist` tells that the memory BIST of a first wake failed. -/
def execWakeStepReady (d : Nat) (bist : Bool) (s : State) : Out := run s fun c =>
  let p := c.f (PWR_STATE_PHASE d)
  if 50 ≤ d || p < 2 || 5 < p || !c.running (.wake d) then c
  else if p = 4 && bist && !c.power.woken.contains d then
    ((c.raise ITM_BIST_STATUS_MBIST).fault 15 d 0 0 false).wakeFails d
  else ((c.nextStep d).refreshClocks).grantSlot

/-- WAKE_STEP_TIMEOUT (R380). -/
def execWakeStepTimeout (d : Nat) (s : State) : Out := run s fun c => c.expire (.wake d) fun c => c.wakeFails d

/-! ## Wake sources (R382, R383) -/

/-- A line's sleep ended early (R113): a doze at once, a deep sleep at WAKE_LEAD frames from now. -/
def Chip.wakeLine (c : Chip) (x : Line) : Chip :=
  match c.f (LPx_ACT_STATUS_SLEEP x) with
  | 1 => c.dozeEnd x
  | 2 =>
    let fn := (c.nt.fn + c.f (LPx_SLEEP_CFG_WAKE_LEAD x)) % 2 ^ 48
    let c := (c.modLine x fun l => { l with sleep := l.sleep.map fun p => { p with wake := fn } }).setPair (LPx_SLEEP_WAKE_LO x) fn
    c
  | _ => c

/-- The wake of a line's receive domains, its transmitter next (R382). -/
def Chip.wakeReceivers (c : Chip) (x : Line) : Chip :=
  c.powerRequest .lineSleep ([rxDom x, protoDom x, txDom x].map fun d => { dom := d, target := 2 })

/-- The predicted arrival of a line's frame, in ccy of NT from FN 0 (R382): at the stored sync CIF; for the line that is not
time master, in the frame in which TWE_TRACK_OFS puts it. DEDUCED (assumption 103). -/
def Chip.predictedArrival (c : Chip) (x : Line) (fn cif : Nat) : Nat :=
  if c.master = x then fn * frameCcy + cif
  else
    let d : Int := signed 32 (c.reg TWE_TRACK_OFS).toNat / 256
    ((fn * frameCcy + cif : Nat) + (2 * (d - cif) + frameCcy) / (2 * frameCcy) * frameCcy : Int).toNat

/-- The ccy before a frame's predicted sync field at which its receive domains start to wake: 3 frames (R382). -/
def wakeLead : Nat := 562500

/-- LINE_WAKE_START (R284, R382): the receive domains of a line in deep sleep start to wake 375 µs before the predicted arrival of
the sync field of its wake FN, or at once when that has passed. -/
def execLineWakeStart (x : Line) (s : State) : Out := run s fun c =>
  match (c.line x).sleep with
  | none => c
  | some p =>
    if p.mode ≠ 2 || c.f (LPx_ACT_STATUS_SLEEP x) != 2 then c else
    (c.elapse (c.predictedArrival x p.wake (c.line x).saved.cif - wakeLead - c.nt.ccy)).wakeReceivers x

/-- The action of a wake source in PWR_WAKE_CFG, where 3 acts as 2 (R383). -/
def Chip.wakeAction (c : Chip) (k : Nat) : Nat := min 2 (wordBits (c.reg (PWR_WAKE_CFG (k / 16))) (2 * (k % 16)) 2)

/-- Every group leaves listen, every sleep ends, and what a request holds low returns to its standing state (R383). -/
def Chip.wakeAll (c : Chip) : Chip :=
  let c := (List.range 5).foldl (fun c g => if bitOf (c.f PWR_LISTEN_GROUPS) g then c.listenLeave .wake g else c) c
  let c := (c.wakeLine .a).wakeLine .b
  (List.range 50).foldl (fun c d => if (decide (c.f (PWR_STATE_PRESENT d) < c.standing d) && !c.inTransition d) || (c.f (PWR_STATE_PHASE d) == 1 && decide (c.jobTarget d < c.standing d)) then c.powerRequest .wake [{ dom := d, target := 3 }] else c) c

/-- A wake source (R383, Table 15.5): 0 to 19 the ports, 20 and 21 the lines, 22 the management SPI. -/
def Chip.wakeSource (c : Chip) (k : Nat) : Chip :=
  let a := c.wakeAction k
  if 22 < k || a = 0 then c else
  let c := ((c.count N_PWR_WAKE_EVTS).raise PWR_ALARM_WAKE_EVT).setReg PWR_WAKE_LAST (BitVec.ofNat 32 (2 ^ 31 + k))
  if a = 2 || k = 22 then c.wakeAll
  else if k < 20 then c.listenLeave .wake (k / 4)
  else c.wakeLine (if k = 20 then .a else .b)

/-- WAKE_EVENT (R383): a wake source of Table 15.5, where its event can come: a listening port, a line in doze, the
management SPI target. -/
def execWakeEvent (k : Nat) (s : State) : Out := run s fun c =>
  let can := if k < 20 then c.flag (ETH_STATUS_LISTEN k) else if k = 20 then c.f (LPx_ACT_STATUS_SLEEP .a) == 1 else if k = 21 then c.f (LPx_ACT_STATUS_SLEEP .b) == 1 else k == 22
  if can then c.wakeSource k else c

/-- LISTEN_FRAME (R233): a frame received in listen. The first that matches raises the port's wake source; the frames after it are
counted until the port's domains are ON. -/
def execListenFrame (n : Nat) (bs : List Byte) (s : State) : Out := run s fun c =>
  let last := c.f (ETH_WAKE_STATUS_LAST n)
  if 20 ≤ n || !(c.flag (ETH_STATUS_LISTEN n) || last != 0) || (c.isOn (macDom n) && c.isOn (laneDom n)) then c
  else if last ≠ 0 then c.put (ETH_WAKE_STATUS_DISC n) (min 65535 (c.f (ETH_WAKE_STATUS_DISC n) + 1))
  else if !fcsOk bs then c
  else match c.wakeCode n bs with
    | 0 => c
    | k => (c.put (ETH_WAKE_STATUS_LAST n) k).wakeSource n

end Sys2Proof.Machine
end

