-- ==== Sys2Proof/Machine/Staging.lean ====
section
/-! DEFINITION. Staged values and locks: what a write of a class C register keeps, what a lock holds, and what the staged
state comes to (spec/13_boot_and_configuration.md, R333; spec/14_registers_and_counters.md, R355 and R356). -/

namespace Sys2Proof.Machine
open Sys2Proof

/-- The bits of a register that a write reaches. -/
def writable (a : Nat) : Nat :=
  match findReg a with
  | some (r, _) => r.mask fun k => k == .rw || k == .mw || k == .pw || k == .wo
  | none => 0

/-- A word with the bits of a mask taken from another. -/
def mergeBits (old new : Word) (m : Nat) : Word := (old &&& ~~~(BitVec.ofNat 32 m)) ||| (new &&& BitVec.ofNat 32 m)

/-- Whether a register is class C. -/
def isClassC (a : Nat) : Bool :=
  match findReg a with
  | some (r, _) => r.cls == .c
  | none => false

/-- A write to a shadow (R333). -/
def Chip.stageReg (c : Chip) (a : Nat) (v : Word) : Chip :=
  { c with staged := Map.set none c.staged a (some (mergeBits (c.shadow a) v (writable a))) }

/-- ITM_REACTm with no reaction below its class's minimum (R388). -/
def reactWord (m : Nat) (v : Word) : Word :=
  (List.range (if m = 0 then 16 else 2)).foldl (fun v j => wordPut v (2 * j) 2 (max (wordBits v (2 * j) 2) (reactMinimum (16 * m + j)))) v

/-- The value a committed register holds where the spec names codes that are applied and read back as another: TWE_CFG.MODE 3 is
0 (Table 5.1), TDM_CFG.MODE 3 is 2 (R241), the exponents of LNx_BER_CFG lie in their ranges (R54), no reaction of ITM_REACTm lies below
its minimum (R388), and TOP_LOCK keeps the bits it has (R355). -/
def appliedWord (a : Nat) (old v : Word) : Word :=
  if a = TWE_CFG then (if wordBits v 0 2 = 3 then wordPut v 0 2 0 else v)
  else if a = TOP_LOCK then v ||| old
  else if a = LNx_BER_CFG .a || a = LNx_BER_CFG .b then
    wordPut (wordPut v 4 4 (max 3 (min 5 (wordBits v 4 4)))) 0 4 (max 5 (min 9 (wordBits v 0 4)))
  else if a = ITM_REACT 0 then reactWord 0 v
  else if a = ITM_REACT 1 then reactWord 1 v
  else if TDM_CFG 0 ≤ a && a ≤ TDM_CFG 31 && (a - TDM_CFG 0) % (TDM_CFG 1 - TDM_CFG 0) = 0 then (if wordBits v 29 2 = 3 then wordPut v 29 2 2 else v)
  else v

/-- The lock group of a register (Table 14.4, R420). -/
def lockGroup (a : Nat) : Option Nat :=
  if a = HST_PRIV || a = MGT_CFG || a = TAL_CFG then some 0
  else if a = TOP_PINMUX || a = TOP_GPIO_DIR then some 1
  else if a = ITM_REACT 0 || a = ITM_REACT 1 then some 2
  else if a / 65536 = CLK_GATE / 65536 && isClassC a then some 3
  else if a = TOP_LOCK then some 4
  else none

/-- Whether a register is locked (R355). -/
def Chip.locked (c : Chip) (a : Nat) : Bool :=
  match lockGroup a with
  | some g => bitOf (c.f TOP_LOCK_LOCK) g
  | none => false

/-- The registers that a configuration lists, and those of the committed one. -/
def Proposal.regKeys (p q : Proposal) : List Nat := p.regs.map (·.1) ++ q.regs.map (·.1)

/-- Whether a configuration gives a locked register another value (R356). -/
def Chip.breaksLock (c : Chip) (p : Proposal) : Bool :=
  (p.regKeys c.committed).any fun a => c.locked a && appliedWord a (c.stored a) (p.reg a) != c.stored a

/-! ## What is staged -/

/-- CFG_STAGED (R333): the shadows and entries that differ from what they hold after every pending commit. -/
def Chip.stagedCount (c : Chip) : Nat :=
  let p := c.afterPending
  (c.staged.filter fun e => e.2.any fun v => v != p.reg e.1).length +
    (c.tableStaged.filter fun e => e.2.any fun v => v != p.tab (e.1 / 65536) (e.1 % 65536)).length

/-- Every shadow and staged entry set back to its value after the pending commits (R333). -/
def Chip.discardStaged (c : Chip) : Chip :=
  let p := c.afterPending
  let tabs := p.tabs.map (·.1) ++ c.tableStore.map (·.1)
  { c with staged := (p.regKeys c.committed).foldl (fun m a => Map.set none m a (if p.reg a = c.stored a then none else some (p.reg a))) []
           tableStaged := tabs.foldl (fun m k =>
             let v := p.tab (k / 65536) (k % 65536)
             Map.set none m k (if v = c.committed.tab (k / 65536) (k % 65536) then none else some v)) [] }

/-- The staged values frozen (R334). -/
def Chip.frozenRegs (c : Chip) : Map Word :=
  c.staged.filterMap fun e => e.2.map fun v => (e.1, appliedWord e.1 (c.stored e.1) v)
def Chip.frozenTabs (c : Chip) : Map Nat := c.tableStaged.filterMap fun e => e.2.map fun v => (e.1, v)

/-- What stays staged after a commit applied: every value written since it was frozen, and what a later pending commit
holds (R333, R354). -/
def Chip.unstage (c : Chip) (k : Commit) : Chip :=
  let laterReg := fun (a : Nat) => c.cfg.pending.any fun q => q.regs.any fun e => e.1 == a
  let laterTab := fun (a : Nat) => c.cfg.pending.any fun q => q.tabs.any fun e => e.1 == a
  let keepReg := fun (e : Nat × Option Word) => laterReg e.1 ||
    e.2.any fun v => v != c.stored e.1 && !(k.regs.any fun q => q.1 == e.1 && q.2 == appliedWord e.1 (c.stored e.1) v)
  let keepTab := fun (e : Nat × Option Nat) => laterTab e.1 || e.2.any fun v => v != Map.get (tableReset (e.1 / 65536) (e.1 % 65536)) c.tableStore e.1
  { c with staged := c.staged.filter keepReg, tableStaged := c.tableStaged.filter keepTab }

end Sys2Proof.Machine
end

