-- ==== Sys2Proof/Machine/Images.lean ====
section
/-! DEFINITION. Images: the header, the records, the checks of Table 13.7 and what an image holds
(spec/13_boot_and_configuration.md, R323 to R327). An image is read byte by byte where it lies. -/

namespace Sys2Proof.Machine
open Sys2Proof

/-- The number in `k` bytes of an image, most significant first (R323). -/
def imgBe (b : Nat → Byte) (i k : Nat) : Nat := beNat ((List.range k).map fun j => b (i + j))

/-- `k` bytes of an image. -/
def imgBytes (b : Nat → Byte) (i k : Nat) : List Byte := (List.range k).map fun j => b (i + j)

/-- A record of an image (Table 13.4): its index, type, payload length in words, TARGET, FLAGS and where its payload begins. -/
structure ImgRec where
  index : Nat
  type : Nat
  len : Nat
  target : Nat
  flags : Nat
  at_ : Nat
  deriving DecidableEq, Repr

/-- The record at an offset. -/
def readRec (b : Nat → Byte) (index pos : Nat) : ImgRec :=
  { index := index, type := imgBe b pos 2, len := imgBe b (pos + 2) 2, target := imgBe b (pos + 4) 4, flags := imgBe b (pos + 8) 2, at_ := pos + 12 }

/-- A word of a record's payload. -/
def ImgRec.word (r : ImgRec) (b : Nat → Byte) (k : Nat) : Nat := imgBe b (r.at_ + 4 * k) 4

/-- The image types in which a record type is listed (Table 13.5): 1 firmware, 2 full configuration, 3 delta. -/
def recordImages (type : Nat) : List Nat :=
  if 1 ≤ type ∧ type ≤ 8 ∨ type = 0xC then [2, 3]
  else if type = 9 ∨ type = 0xA ∨ type = 0xB ∨ type = 0xD then [2]
  else if type = 0x100 then [1] else []

/-- A register list names class C registers of a block only (Table 13.5). -/
def listOk (b : Nat → Byte) (r : ImgRec) : Bool :=
  r.target % 65536 == 0 && decide (r.target < 2 ^ 24) && r.len % 2 == 0 &&
    (List.range (r.len / 2)).all fun k => let off := r.word b (2 * k); decide (off < 0x8000) && off % 4 == 0 && isClassC (r.target + off)

/-- The rule for TARGET and LEN that Table 13.5 gives for a record's type. -/
def recordOk (b : Nat → Byte) (r : ImgRec) : Bool :=
  let fits := fun (words size first : Nat) => r.len % words == 0 && decide (first + r.len / words ≤ size)
  match r.type with
  | 1 => listOk b r
  | 2 => fits 25 12288 r.target
  | 3 => natBits r.target 12 4 == 0 && natBits r.target 17 14 == 0 && fits 1 4096 (r.target % 4096)
  | 4 => natBits r.target 13 15 == 0 && natBits r.target 30 2 == 0 && fits 5 (drvSize (natBits r.target 28 2)) (r.target % 8192)
  | 5 => fits 2 8192 r.target
  | 6 => fits 5 8192 r.target
  | 7 => fits 1 4096 r.target
  | 8 =>
    natBits r.target 9 18 == 0 && natBits r.target 29 3 == 0 &&
      (if natBits r.target 27 2 = 1 then fits 1 512 (r.target % 512) else natBits r.target 27 2 == 2 && fits 2 128 (r.target % 512))
  | 9 => decide (r.target < 1024) && (r.len == 12 || r.len == 20)
  | 0xA => r.target == 0 && r.len == 804
  | 0xB => r.target == 0 && r.len == 4
  | 0xC => r.target == 0 && r.len % 4 == 0 && decide (r.len ≤ 256)
  | 0xD => natBits r.target 0 8 == 0 && natBits r.target 11 5 == 0 && decide (r.target / 65536 < 20) && r.len == 18
  | _ => true

/-- What an image check finds: the reason of Table 13.8 (0 when the image passes so far), the record it lies in, the records to
act on, where the check word is, and how many records were skipped. -/
structure ImgCheck where
  reason : Nat := 0
  record : Nat := 0xFFFF
  recs : List ImgRec := []
  check : Nat := 64
  skips : Nat := 0
  deriving DecidableEq, Repr

/-- Step 4 over the records still to read: RCRC, then the record's type, TARGET and LEN (R325). -/
def scanRecords (b : Nat → Byte) (type limit : Nat) : Nat → Nat → ImgCheck → ImgCheck
  | 0, _, r => r
  | n + 1, index, r =>
    let k := readRec b index r.check
    let size := 16 + 4 * k.len
    if limit < r.check + size || crc32c (imgBytes b r.check (size - 4)) ≠ imgBe b (r.check + size - 4) 4 then { r with reason := 6, record := index }
    else if !(recordImages k.type).contains type then
      if bitOf k.flags 15 then scanRecords b type limit n (index + 1) { r with check := r.check + size, skips := r.skips + 1 }
      else { r with reason := 5, record := index }
    else if !recordOk b k then { r with reason := 5, record := index }
    else scanRecords b type limit n (index + 1) { r with check := r.check + size, recs := r.recs ++ [k] }

/-- Whether the signature block at an offset is well formed and its DIGEST is that of the image up to it (R326, step 6). -/
def sigFormed (sig : Nat → Byte) (digest : List Byte) : Bool :=
  imgBe sig 0 4 == 0x53494731 && imgBe sig 4 2 == 1 && imgBe sig 6 2 == 3272 && imgBytes sig 8 48 == slice digest 0 48

/-- Steps 8 and 9 under two root hashes: the reason of the first that fails (Table 13.7). -/
def sigChecks (sig : Nat → Byte) (ecRoot hssRoot : List Byte) : Nat :=
  let ec := imgBytes sig 56 96
  let hss := imgBytes sig 152 60
  let h := Config.sha384 (imgBytes sig 0 212)
  if Config.sha384 ec ≠ ecRoot || !Config.ecdsaVerify ec h (imgBytes sig 212 96) then 2
  else if Config.sha384 hss ≠ hssRoot || !Config.hssVerify hss h (imgBytes sig 308 2964) then 3
  else 0

/-- Steps 1 to 6 of Table 13.7 on an image in a place of `size` bytes, where `type` is expected. -/
def checkForm (o : Otp) (b : Nat → Byte) (size type : Nat) : ImgCheck :=
  let len := imgBe b 8 4
  let target := imgBe b 20 8
  if imgBe b 0 4 ≠ 0x4F494D31 then { reason := 9 }
  else if imgBe b 4 2 ≠ 1 || size < len || len < 64 + 4 + 3272 || imgBe b 28 2 ≠ 0x0964 || (b 6).toNat ≠ type then { reason := 5 }
  else if target ≠ 0 && target ≠ o.serial then { reason := 8 }
  else
    let r := scanRecords b type (len - 3276) (imgBe b 18 2) 0 {}
    if r.reason ≠ 0 then r
    else if crc32c (imgBytes b 0 r.check) ≠ imgBe b r.check 4 then { r with reason := 1 }
    else if r.check + 3276 ≠ len || !sigFormed (fun i => b (r.check + 4 + i)) (Config.sha384 (imgBytes b 0 (r.check + 4))) then { r with reason := 1 }
    else r

/-- Steps 1 to 10 of Table 13.7. -/
def checkImage (o : Otp) (b : Nat → Byte) (size type : Nat) : ImgCheck :=
  let r := checkForm o b size type
  if r.reason ≠ 0 then r
  else if type ≠ 1 && !o.bound then { r with reason := 7 }
  else
    let s := sigChecks (fun i => b (r.check + 4 + i)) (if type = 1 then o.vendorEc else o.ecRoot) (if type = 1 then o.vendorHss else o.hssRoot)
    if s ≠ 0 then { r with reason := s }
    else if (b 16).toNat < (if type = 1 then o.fwFloor else o.cfgFloor) then { r with reason := 4 }
    else r

/-! ## What the records hold -/

/-- The key of an entry in a table's map. -/
def Commit.setTab (k : Commit) (t i v : Nat) : Commit := { k with tabs := Map.insert k.tabs (tableKey t i) v }

/-- `n` words of a record from word `w` on as one entry, word 0 the lowest. -/
def ImgRec.entry (r : ImgRec) (b : Nat → Byte) (w n : Nat) : Nat :=
  (List.range n).foldl (fun v j => v + r.word b (w + j) * 2 ^ (32 * j)) 0

/-- The same with word 0 the highest, as TABLE 0 of Table 7.11 lays a rule entry out. -/
def ImgRec.ruleEntry (r : ImgRec) (b : Nat → Byte) (w : Nat) : Nat :=
  (List.range 25).foldl (fun v j => v * 2 ^ 32 + r.word b (w + j)) 0

/-- A record's entries of `n` words each put into a table. -/
def ImgRec.fillTable (r : ImgRec) (b : Nat → Byte) (k : Commit) (t first n : Nat) : Commit :=
  (List.range (r.len / n)).foldl (fun k j => if t = 0 && 0xFFE ≤ first + j then k else k.setTab t (first + j) (r.entry b (n * j) n)) k

/-- One record's content added to what an image holds (Table 13.5); a later record overrides an earlier one. -/
def Commit.add (k : Commit) (b : Nat → Byte) (r : ImgRec) : Commit :=
  match r.type with
  | 1 => (List.range (r.len / 2)).foldl (fun k j =>
      let a := r.target + r.word b (2 * j)
      { k with regs := Map.insert k.regs a (appliedWord a 0 (mergeBits (resetWord a) (BitVec.ofNat 32 (r.word b (2 * j + 1))) (writable a))) }) k
  | 2 => { k with rules := k.rules ++ (List.range (r.len / 25)).map fun j => (r.index, r.target + j, r.ruleEntry b (25 * j)) }
  | 3 =>
    let page := natBits r.target 16 1
    let k := { k with pages := k.pages ++ (List.range r.len).map fun j => (r.index, 4096 * page + r.target % 4096 + j, r.word b j) }
    if bitOf r.target 31 then { k with activePage := some page } else k
  | 4 => r.fillTable b k (3 + natBits r.target 28 2) (r.target % 8192) 5
  | 5 => r.fillTable b k 1 r.target 2
  | 6 => r.fillTable b k 2 r.target 5
  | 7 => r.fillTable b k 0 r.target 1
  | 8 => if natBits r.target 27 2 = 1 then r.fillTable b k 7 (r.target % 512) 1 else r.fillTable b k 8 (r.target % 512) 2
  | 9 => { k with keys := Map.insert k.keys r.target (imgBytes b r.at_ (4 * r.len)) }
  | 0xA => { k with cert := some (imgBytes b r.at_ 3216) }
  | 0xB => { k with ptpId := some (imgBytes b r.at_ 13) }
  | 0xC => { k with events := k.events ++ (List.range (r.len / 4)).map fun j => (bitOf r.flags 0, slotOfWords fun w => r.word b (4 * j + w)) }
  | 0xD => (List.range 18).foldl (fun k w => k.setTab 9 (wakeIndex (r.target / 65536) (natBits r.target 8 3) w) (r.word b w)) k
  | _ => k

/-- What an image that passed its checks holds, as a commit at its APPLY_FN. -/
def imageCommit (b : Nat → Byte) (r : ImgCheck) : Commit :=
  let fn := imgBe b 30 6
  r.recs.foldl (fun k q => k.add b q) { fn := fn, next := fn == 0, full := (b 6).toNat == 2, version := if (b 6).toNat = 2 then some (imgBe b 12 4) else none }

/-- The events of a commit as slots, where those that count from the apply do so from `fn`. -/
def Commit.slots (k : Commit) (fn : Nat) : List EvSlot :=
  k.events.map fun e => if e.1 then { e.2 with fn := (e.2.fn + fn) % 2 ^ 48 } else e.2

/-- The delegate keys of an operator certificate, when both root signatures over them verify (Table 13.5). -/
def delegateOf (o : Otp) (cert : List Byte) (ec hss : List Byte) : Option (List Byte) :=
  let h := Config.sha384 (slice cert 0 156)
  if Config.ecdsaVerify ec h (slice cert 156 96) && Config.hssVerify hss h (slice cert 252 2964) &&
      Config.sha384 ec == o.ecRoot && Config.sha384 hss == o.hssRoot then some (slice cert 0 156) else none

/-! ## The flash -/

/-- A byte of the flash; an erased byte reads 0xFF. PRESUMED (assumption 50). -/
def Chip.flashByte (c : Chip) (a : Nat) : Byte := Map.get 0xFF c.flash a

/-- Bytes written by the terminal from an address on, over an erased region of `size` bytes. -/
def Chip.flashWrite (c : Chip) (base size : Nat) (b : Nat → Byte) (n : Nat) : Chip :=
  let clean := c.flash.filter fun e => e.1 < base || base + size ≤ e.1
  { c with flash := (List.range n).foldl (fun m i => Map.set 0xFF m (base + i) (b i)) clean }

/-- The region of firmware and of configuration with a number (Table 13.1). -/
def fwBase (r : Nat) : Nat := 0x400000 * r
def cfgBase (r : Nat) : Nat := 0x800000 + 0x800000 * r

/-- The slot map by majority of its three copies, and whether two of them agree (R320): FW_MAP and CFG_MAP. -/
def Scrivener.slotMap (e : Scrivener) : (Bool × Bool) × Bool :=
  let m := fun (i : Nat) => e.maps.getD i (false, false)
  if m 0 = m 1 || m 0 = m 2 then (m 0, true) else if m 1 = m 2 then (m 1, true) else ((false, false), false)

/-- The region of a firmware or configuration slot, A being 0. -/
def Chip.fwRegion (c : Chip) (slot : Nat) : Nat := (b2n c.cfg.slotMap.1.1 + slot) % 2
def Chip.cfgRegion (c : Chip) (slot : Nat) : Nat := (b2n c.cfg.slotMap.1.2 + slot) % 2

/-- The image in a firmware region, and in a configuration region, checked by steps 1 to 10. -/
def Chip.fwImage (o : Otp) (c : Chip) (r : Nat) : ImgCheck := checkImage o (fun i => c.flashByte (fwBase r + i)) 0x400000 1
def Chip.cfgImage (o : Otp) (c : Chip) (r : Nat) : ImgCheck := checkImage o (fun i => c.flashByte (cfgBase r + i)) 0x800000 2

end Sys2Proof.Machine
end

