-- ==== Sys2Proof/Machine/Commits.lean ====
section
/-! DEFINITION. Commits: their request, their checks, their apply and their cancellation
(spec/13_boot_and_configuration.md, R333 to R336; spec/01_architecture.md, R17 to R20; the effects each chapter gives a commit). -/

namespace Sys2Proof.Machine
open Sys2Proof

/-! ## The request (R334) -/

/-- Why a commit is refused at once, or 0 (R284, R334). -/
def Chip.commitReason (c : Chip) (k : Commit) : Nat :=
  let gap := match c.cfg.applied with
    | some t => decide (c.now + (k.fn * frameCcy - c.nt.ccy) < t + 375000)
    | none => false
  if c.cfg.checking.isSome then 0x1A
  else if 2 ≤ c.cfg.pending.length then 0x1B
  else if !c.ntValid && !k.next then 0x13
  else if k.next then (if c.cfg.pending = [] then 0 else 0x13)
  else if k.fn < c.nt.fn + 16 || gap || (c.cfg.pending.any fun p => decide (distance p.fn k.fn < 2) || decide (k.fn ≤ p.fn)) then 0x13
  else 0

/-- A commit refused: LAST, REASON, the record it lies in, the count and the alarm; NTU_BND_FAIL shows the last refused commit. -/
def Chip.refuseCommit (c : Chip) (reason record : Nat) : Chip :=
  let c := (((c.lower NTU_BND_FAIL_VALID).put CFG_STATUS_LAST 2).put CFG_STATUS_REASON reason).put CFG_STATUS_RECORD record
  (c.count N_CFG_REFUSED).raise CFG_ALARM_REFUSED

/-- A commit requested: in check, or refused at once; the reason is 0 where it is not refused. -/
def Chip.requestCommit (c : Chip) (k : Commit) : Chip × Nat :=
  match c.commitReason k with
  | 0 => ((c.modCfg fun e => { e with checking := some k }).showPending, 0)
  | r => (c.refuseCommit r 0xFFFF, r)

/-- A write of CFG_COMMIT_HI (R334): the staged values frozen. -/
def Chip.commitWritten (c : Chip) : Chip :=
  let fn := c.pair CFG_COMMIT_LO % 2 ^ 48
  (c.requestCommit { fn := fn, next := c.flag CFG_COMMIT_HI_NEXT, regs := c.frozenRegs, tabs := c.frozenTabs }).1

/-- CFG_CTRL.CANCEL (R336). -/
def Chip.cancelCommits (c : Chip) : Chip :=
  if c.cfg.pending = [] then c else
  (((c.count N_CFG_CANCELLED c.cfg.pending.length).modCfg fun e => { e with pending := [] }).commitLost).showPending

/-! ## The checks (R285) -/

/-- The chip as the checks of a commit see it: with the rule entries and connection pages that the commit brings. -/
def Chip.imagine (c : Chip) (k : Commit) : Chip :=
  let c := c.modSorter fun t => { t with copy := k.rules.foldl (fun m e => Map.set 0 m e.2.1 e.2.2) t.copy }
  c.modTsi fun w => { w with copy := k.pages.foldl (fun m e => Map.set 0 m e.2.1 e.2.2) w.copy, active := k.activePage.getD w.active }

/-- The FN of the first CIF 0 after now that lies at least 375,000 ccy after the last applied commit (R335). -/
def Chip.nextApply (c : Chip) : Nat :=
  let wait := max 1 (match c.cfg.applied with
    | some t => t + 375000 - c.now
    | none => 0)
  ceilDiv (c.nt.ccy + wait) frameCcy % 2 ^ 48

/-- The rule entries and the standby page that an image's commit brings, written as their windows write them, up to the first that
is refused; the answer names its record (R338). -/
def Chip.writeRules (c : Chip) : List (Nat × Nat × Nat) → Chip × Option Nat
  | [] => (c, none)
  | (rec, i, v) :: r =>
    let w := c.takeRule i v
    if w.2 = 0 then Chip.writeRules w.1 r else (w.1, some rec)
def Chip.writePages (c : Chip) : List (Nat × Nat × Nat) → Chip × Option Nat
  | [] => (c, none)
  | (rec, i, v) :: r =>
    if i / 4096 = c.tsi.active then ((c.raise TSI_ALARM_ACT_WR).count N_TSI_ACT_WR, some rec)
    else
      let w := c.takeStandby (i % 4096) v
      if w.2 = 0 then Chip.writePages w.1 r else (w.1, some rec)

/-- COMMIT_CHECK_END (R285, R334, R338, R356): the commit in check is refused, or pending. -/
def execCommitCheckEnd (s : State) : Out := run s fun c =>
  match c.cfg.checking with
  | none => c
  | some k =>
    let c := c.modCfg fun e => { e with checking := none }
    let fn := if k.next then c.nextApply else k.fn
    let p := k.over c.afterPending
    let at_ : NetTime := if c.ntValid then { fn := fn, cif := 0 } else c.nt
    if c.breaksLock p then (c.refuseCommit 5 0xFFFF).showPending
    else match (c.imagine k).feasible p (k.slots fn) c.ntValid at_ with
      | some r => ((c.refuseCommit r.reason 0xFFFF).showFailure r).showPending
      | none =>
        let w := c.writeRules k.rules
        let g := match w.2 with
          | some rec => (w.1, some rec)
          | none => w.1.writePages k.pages
        match g.2 with
        | some rec => (g.1.refuseCommit 5 rec).showPending
        | none => (g.1.modCfg fun e => { e with pending := e.pending ++ [{ k with fn := fn }] }).showPending

/-! ## The apply (R335) -/

/-- The committed values written into the store, and into every block that is powered (R19). -/
def Chip.applyValues (c : Chip) (old new : Proposal) : Chip :=
  let c := { c with store := new.regs, tableStore := new.tabs }
  let c := (new.regKeys old).foldl (fun c a => if c.isOn (addrDom a) then c.setReg a (new.reg a) else c) c
  let keys := new.tabs.map (·.1) ++ old.tabs.map (·.1)
  { c with tables := keys.foldl (fun m k => if c.isOn (tableDom (k / 65536)) then Map.set (tableReset (k / 65536) (k % 65536)) m k (new.tab (k / 65536) (k % 65536)) else m) c.tables }

/-- The table entries of a configuration and of the one before it. -/
def tabKeysOf (t : Nat) (old new : Proposal) : List Nat := (old.keys t ++ new.keys t).eraseDups

/-- The rate and burst words of a scheduler table's entry (Table 8.8), and of a meter's. -/
def rateWords (t e : Nat) : List Nat := (if t = 6 then [3, 4] else [1, 2, 3, 4]).map (entryWord e)

/-- Every shaper and meter whose rate or burst changed is reset (R203). -/
def Chip.rateReset (c : Chip) (old new : Proposal) : Chip :=
  let hit := fun (t : Nat) => (tabKeysOf t old new).filter fun i => rateWords t (old.tab t i) != rateWords t (new.tab t i)
  let sh := [4, 5, 6].flatMap fun t => (hit t).map fun i => (t - 3, i)
  let c := if c.isOn 25 && sh != [] then (sh.foldl (fun c e => c.fillShaper e.1 e.2) c).raise DRV_ALARM_RATE_RESET else c
  let ms := hit 2
  if c.isOn 26 && ms != [] then (ms.foldl Chip.fillMeter c).raise TOL_ALARM_RATE_RESET else c

/-- A line enabled or disabled by the terminal mode (R92, R116). -/
def Chip.enableLine (c : Chip) (x : Line) (on : Bool) : Chip :=
  if on = !c.flag (LPx_ACT_STATUS_DISABLED x) then c
  else if on then
    let c := c.lower (LPx_ACT_STATUS_DISABLED x)
    if c.actState x = stDark then c.toListening x else c
  else
    let c := c.raise (LPx_ACT_STATUS_DISABLED x)
    if c.actState x = stSilenced then c else (c.clearIdentity x).setState x stDark

/-- What a commit does to a line: its mode, its receiver switched off (R35), its light (R28), and the way to Announcing when
ANN_EN or LISTEN_MIN was what it waited for (R93). -/
def Chip.commitLine (c : Chip) (old new : Proposal) (x : Line) : Chip :=
  let c := c.enableLine x (new.lineOn x)
  let c := if old.flag (LNx_RX_CTRL_RX_EN x) && !new.flag (LNx_RX_CTRL_RX_EN x) && c.isOn (rxDom x) then c.losRise x else c
  let c := if !new.flag (LNx_TX_CTRL_TX_EN x) && c.flag (LNx_TX_STATUS_IN_BURST x) then c.cutBurst x else c
  c.tryAnnounce x

/-- What a commit does to the two-ended merge (R118, R122, R131, R133, R116). -/
def Chip.commitMerge (c : Chip) (old new : Proposal) (wrote : Nat → Bool) : Chip :=
  let lm := (tabKeysOf 0 old new).filter fun f => natBits (old.tab 0 f) 26 2 != natBits (new.tab 0 f) 26 2
  let c := c.modMerge fun m => { m with
    flows := lm.foldl (fun g f => let v : MergeFlow := Map.get {} g f; Map.set {} g f { v with seen := false }) m.flows
    prefDue := m.prefDue || old.f TWE_CFG_ACT_PREF != new.f TWE_CFG_ACT_PREF }
  let c := if c.isOn 7 then ((List.range 32).filter fun n => wrote (TWE_SEL n)).foldl Chip.resetPair c else c
  let tracking := !c.flag TWE_STATUS_NO_MASTER && (c.timeState == 1 || c.timeState == 2)
  let want := lineOf (new.f TWE_CFG_TM_LINE)
  if !c.isOn 7 || !tracking then c
  else if new.mode = 0 then (if c.master = .a then c else if c.qualifies .a then c.switchMaster .a else c.enterHoldover)
  else if old.f TWE_CFG_TM_LINE != new.f TWE_CFG_TM_LINE && c.master != want && c.qualifies want then c.switchMaster want
  else c

/-- What a commit does to an Ethernet port: the restart of R221, verification (R226), lanes and lane order (R214, R215). -/
def Chip.commitPort (c : Chip) (old new : Proposal) (n : Nat) : Chip :=
  let ch := fun (x : Fld) => old.f x != new.f x
  let lane := fun (l : Nat) => old.reg (SDS_LANE_CFG l) != new.reg (SDS_LANE_CFG l)
  let map := n == 0 && old.reg ETH_LANEMAP != new.reg ETH_LANEMAP
  let lanes := c.portLanes n
  let c := if c.isOn (laneDom n) && lane n then c.fixPolarity n else c
  if !c.isOn (macDom n) then c else
  let c := if map then c.fixTxOrder else c
  let c := if ch (ETH_MODE_MODE n) || ch (ETH_MODE_FEC n) || ch (ETH_MODE_AN_EN n) || ch (ETH_MODE_SGMII_SPD n) || map || lanes.any lane then c.portRestart n else c
  if n < 4 && old.reg (ETH_MM n) != new.reg (ETH_MM n) then c.mmRestart n else c

/-- What a commit does to the interchange, the tributaries and the Tallyman (R244, R250, R366). -/
def Chip.commitTdm (c : Chip) (old new : Proposal) (wrote : Nat → Bool) : Chip :=
  let c := if c.isOn 44 then ((List.range 64).filter fun s => wrote (TCM_DS_SLOT s)).foldl Chip.restartSlot c else c
  let c := ((List.range 32).filter fun n => wrote (TDM_CFG n) && c.isOn (tribDom n)).foldl (fun c n => c.lower (TDM_STATUS_INTWK n)) c
  if old.reg TAL_BW_CFG != new.reg TAL_BW_CFG then c.bwDiscard else c

/-- The committed configuration's effects in the blocks, all in the ccy of the apply. -/
def Chip.commitEffects (c : Chip) (old new : Proposal) (wrote : Nat → Bool) : Chip :=
  let c := ((c.rateReset old new).commitLine old new .a).commitLine old new .b
  let c := (c.commitMerge old new wrote).commitTdm old new wrote
  let c := (List.range 20).foldl (fun c n => c.commitPort old new n) c
  let quiet := (List.range 20).filter fun n => !bitOf (new.f NTU_PTP_PORTS_EN) n
  let c := (quiet.foldl Chip.ptpStop c).refreshClocks
  let c := c.modTime fun t => { t with bounds := new.boundTable }
  (List.range 4).foldl Chip.judgeBound { c with everCommitted := true }

/-- What an image brings beside registers and tables (R313, R315): wrapped keys, those that fail being skipped, the delegate and the
time settings. A commit that replaces the whole configuration replaces these too. DEDUCED (assumption 51). -/
def Chip.imageExtras (c : Chip) (k : Commit) : Chip :=
  if !k.full then c else
  let good := fun (e : Nat × List Byte) => match slotOfBlob dkek e.2 with
    | .ok _ => true
    | .error _ => false
  let c := c.count N_CFG_REC_SKIP (k.keys.filter fun e => !good e).length
  let c := c.modCfg fun e => { e with keys := k.keys.filter good, delegate := k.cert }
  let c := c.modTime fun t => { t with ptpId := k.ptpId.getD [] }
  if !c.isOn 10 then c else
  c.cfg.keys.foldl (fun c e => match slotOfBlob dkek e.2 with
    | .ok s => c.setKeySlot e.1 (some s)
    | .error _ => c) c

/-- The changes of standing power state that a configuration makes, as one request (R374). -/
def Chip.commitPower (c : Chip) (old new : Proposal) : Chip :=
  let changed := (List.range 50).filter fun d => old.reg (PWR_DOM d) != new.reg (PWR_DOM d)
  if changed = [] then c else
  Chip.standingChange { c with power := { c.power with retry := c.power.retry.filter fun m => !changed.contains m.dom } } changed

/-- A commit applies in this ccy, NT being at FN `fn` (R17, R335): values, effects, events, status, and power last. -/
def Chip.applyCommit (c : Chip) (k : Commit) : Chip :=
  let fn := c.nt.fn
  let old := c.committed
  let new := k.over old
  let wrote := fun a => k.full || k.regs.any fun e => e.1 == a
  let c := c.modCfg fun e => { e with pending := e.pending.erase k, applied := some c.now }
  let c := (((c.applyValues old new).unstage k).commitEffects old new wrote).imageExtras k
  let c := (k.slots fn).foldl Chip.armSchedule c
  let c := match k.version with
    | some v => c.setReg CFG_IMG_VER (BitVec.ofNat 32 v)
    | none => c
  let c := match k.region with
    | some r => { c with boot := { c.boot with cfgRegion := some r } }
    | none => c
  let c := (((c.put CFG_STATUS_LAST 1).put CFG_STATUS_REASON 0).put CFG_STATUS_RECORD 0xFFFF).setPair CFG_LAST_FN_LO fn
  let c := (c.count N_CFG_APPLIED).pulse 23 2 none 1
  let c := if c.f CFG_SAVE_STATE = 1 || c.f CFG_SAVE_STATE = 2 then (c.put CFG_SAVE_STATE 4).stop .savePrep else c
  c.showPending.commitPower old new

/-- COMMIT_APPLY (R335): the earliest pending commit applies: at CIF 0 of its FN, at the next CIF 0 that is late enough, or
in the next ccy while NT is not valid. -/
def execCommitApply (s : State) : Out := run s fun c =>
  match c.cfg.pending with
  | [] => c
  | k :: _ =>
    let c := if !c.ntValid then c.elapse 1 else c.toInstant { fn := if k.next then max k.fn c.nextApply else k.fn, cif := 0 }
    c.applyCommit k

end Sys2Proof.Machine
end

