-- ==== Sys2Proof/Machine/Delivery.lean ====
section
/-! DEFINITION. Delivered objects, saves, the binding of the roots and the rollback floors
(spec/13_boot_and_configuration.md, R331, R332, R337 to R339). -/

namespace Sys2Proof.Machine
open Sys2Proof

/-! ## Rollback floors (R332) -/

/-- The chip as a start-up with a configuration would find it: its rules and pages alone, and the domains it holds ON. -/
def Chip.assume (c : Chip) (k : Commit) (p : Proposal) : Chip :=
  let c := Chip.imagine { c with sorter := { c.sorter with copy := [] }, tsi := { c.tsi with copy := [], active := 0 } } k
  (List.range 50).foldl (fun c d => c.put (PWR_STATE_PRESENT d) (if neverDown d then 2 else min 2 (p.f ⟨PWR_DOM d, 0, 2⟩))) c

/-- Whether the image in a configuration region passes Table 13.7 (R332). -/
def Chip.cfgPasses (o : Otp) (c : Chip) (r : Nat) : Bool :=
  let q := c.cfgImage o r
  let k := imageCommit (fun i => c.flashByte (cfgBase r + i)) q
  let p := k.over {}
  q.reason == 0 && ((c.assume k p).feasible p (k.slots c.nt.fn) c.ntValid c.nt).isNone

/-- The floor that the image at `base` raises, when it has SET_FLOOR and both images have its ROLLBACK or a later one. -/
def Chip.wantedFloor (c : Chip) (base other : Nat) : Option Nat :=
  let v := (c.flashByte (base + 16)).toNat
  if bitOf (c.flashByte (base + 7)).toNat 0 && decide (v ≤ (c.flashByte (other + 16)).toNat) && decide (v ≤ 63) then some v else none

/-- The floors judged, after start-up and after each slot write (R332); `fails` tells that the OTP program does not succeed. -/
def Chip.judgeFloors (o : Otp) (c : Chip) (fails : Bool) : Chip × Otp :=
  let fw := match c.boot.fwRegion with
    | some r => if (c.fwImage o r).reason == 0 && (c.fwImage o (1 - r)).reason == 0 then c.wantedFloor (fwBase r) (fwBase (1 - r)) else none
    | none => none
  let cf := match c.boot.cfgRegion with
    | some r => if c.cfgPasses o r && c.cfgPasses o (1 - r) then c.wantedFloor (cfgBase r) (cfgBase (1 - r)) else none
    | none => none
  let nfw := max o.fwFloor (fw.getD 0)
  let ncf := max o.cfgFloor (cf.getD 0)
  if nfw = o.fwFloor && ncf = o.cfgFloor then (c, o)
  else if fails then (c.raise CFG_ALARM_OTP_ERR, o)
  else (c, { o with fwFloor := nfw, cfgFloor := ncf })

/-! ## Objects (R337) -/

/-- CFG_OBJ_CTRL.START: an object of TYPE and CFG_OBJ_SIZE begins, and one in progress is discarded. -/
def Chip.objectStart (c : Chip) : Chip :=
  (c.modCfg fun e => { e with object := some { type := c.f CFG_OBJ_CTRL_TYPE, size := c.f CFG_OBJ_SIZE_BYTES }, delivered := none }).put CFG_OBJ_CTRL_RESULT 0

/-- A word of CFG_OBJ_DATA taken: the next four bytes, the first in [31:24]. -/
def Chip.objectData (c : Chip) (v : Word) : Chip :=
  c.modCfg fun e => { e with object := e.object.map fun b => { b with data := b.data ++ beBytes 4 v.toNat } }

/-- CFG_OBJ_CTRL.END: the object is complete. A reserved type, or more than 8 MiB, is discarded and counted. -/
def Chip.objectEnd (c : Chip) : Chip :=
  match c.cfg.object with
  | none => c
  | some b =>
    let c := c.modCfg fun e => { e with object := none }
    if b.type < 0x10 || 0x13 < b.type || 8 * 1048576 < b.size then
      ((c.count N_CFG_OBJ_BAD).put CFG_OBJ_CTRL_RESULT 2).raise CFG_ALARM_OBJ
    else (c.modCfg fun e => { e with delivered := some { b with data := b.data.take b.size } }).put CFG_OBJ_CTRL_RESULT 0

/-- The end of a delivered object: the ACK of a line's, or RESULT of the host's, and the alarm. -/
def Chip.objectEnds (c : Chip) (src : Option Line) (ack : Option Nat) (ok : Bool) : Chip :=
  let c := match src, ack with
    | some x, some q => c.ack x 0x07 q (if ok then 0 else 2)
    | some _, none => c
    | none, _ => c.put CFG_OBJ_CTRL_RESULT (if ok then 1 else 2)
  c.raise CFG_ALARM_OBJ

/-- The completed object of a source taken, with the SEQ to answer: none where there is none of the type. -/
def Chip.takeObject (c : Chip) (src : Option Line) (type : Nat) : Option (Chip × List Byte × List Byte × Option Nat) :=
  match src with
  | some x => match (c.line x).bulkDone with
    | some b => if b.type = type then some (c.modLine x fun l => { l with bulkDone := none }, b.data, b.hash, b.ack) else none
    | none => none
  | none => match c.cfg.delivered with
    | some b => if b.type = type then some (c.modCfg fun e => { e with delivered := none }, b.data, [], none) else none
    | none => none

/-- A delivered object judged (R337): one from a line whose SHA-384 does not begin with the announced bytes is discarded; of the
others, `act` answers the reason and the record of a failure. -/
def Chip.withObject (c : Chip) (src : Option Line) (type : Nat) (act : Chip → List Byte → Chip × Nat × Nat) : Chip :=
  match c.takeObject src type with
  | none => c
  | some (c, data, hash, ack) =>
    if src.isSome && slice (Config.sha384 data) 0 32 ≠ slice hash 0 32 then (c.count N_CFG_OBJ_BAD).objectEnds src ack false
    else
      let r := act c data
      ((r.1.put CFG_STATUS_REASON r.2.1).put CFG_STATUS_RECORD r.2.2).objectEnds src ack (r.2.1 == 0)

/-- What an image that passed holds, its certificate reduced to the delegate keys. -/
def imageContent (o : Otp) (b : Nat → Byte) (r : ImgCheck) : Commit :=
  let k := imageCommit b r
  let sig := r.check + 4
  { k with cert := k.cert.bind fun t => delegateOf o t (imgBytes b (sig + 56) 96) (imgBytes b (sig + 152) 60) }

/-- The slot map replaced in all three copies. -/
def Chip.setMaps (c : Chip) (fw cfg : Bool) : Chip := c.modCfg fun e => { e with maps := List.replicate 3 (fw, cfg) }

/-- The configuration region not in use: with neither in use, that of slot B. -/
def Chip.freeCfgRegion (c : Chip) : Nat :=
  match c.boot.cfgRegion with
  | some r => 1 - r
  | none => c.cfgRegion 1

/-- An image written into the configuration slot not in use, which becomes slot A (R338, R339). -/
def Chip.writeCfgSlot (c : Chip) (b : Nat → Byte) (n : Nat) : Chip × Nat :=
  let r := c.freeCfgRegion
  let c := (c.flashWrite (cfgBase r) 0x800000 b n).setMaps c.cfg.slotMap.1.1 (r == 1)
  (c.put CFG_SLOTS_CFG_MAP r, r)

/-- A full configuration image judged and kept (R338). -/
def Chip.takeImage (o : Otp) (c : Chip) (data : List Byte) : Chip × Nat × Nat :=
  let b := fun i => data.getD i 0
  let r := checkImage o b data.length 2
  let c := c.count N_CFG_REC_SKIP r.skips
  if r.reason ≠ 0 then (c, r.reason, r.record)
  else
    let w := c.writeCfgSlot b (imgBe b 8 4)
    if bitOf (b 7).toNat 1 then
      let q := w.1.requestCommit { imageContent o b r with region := some w.2 }
      (q.1, q.2, 0xFFFF)
    else (w.1, 0, 0xFFFF)

/-- CONFIG_IMAGE_DELIVERED (R337, R338): a completed object 0x10 of a line, or of the host. -/
def execConfigImageDelivered (src : Option Line) (otpFails : Bool) (s : State) : Out := runFuse s fun o c =>
  (c.withObject src 0x10 fun c data => c.takeImage o data).judgeFloors o otpFails

/-- CONFIG_DELTA_DELIVERED (R337): a completed object 0x11 becomes a commit at its APPLY_FN. -/
def execConfigDeltaDelivered (src : Option Line) (s : State) : Out := runO s fun o c =>
  c.withObject src 0x11 fun c data =>
    let b := fun i => data.getD i 0
    let r := checkImage o b data.length 3
    let c := c.count N_CFG_REC_SKIP r.skips
    if r.reason ≠ 0 then (c, r.reason, r.record)
    else
      let q := c.requestCommit (imageContent o b r)
      (q.1, q.2, 0xFFFF)

/-- FIRMWARE_DELIVERED (R337): a completed object 0x13 is written to the firmware slot not in use, which becomes slot A at the
next power-on reset. -/
def execFirmwareDelivered (src : Option Line) (otpFails : Bool) (s : State) : Out := runFuse s fun o c =>
  (c.withObject src 0x13 fun c data =>
    let b := fun i => data.getD i 0
    let r := checkImage o b data.length 1
    let c := c.count N_CFG_REC_SKIP r.skips
    if r.reason ≠ 0 then (c, r.reason, r.record)
    else
      let k := match c.boot.fwRegion with
        | some q => 1 - q
        | none => c.fwRegion 1
      let c := c.flashWrite (fwBase k) 0x400000 b (imgBe b 8 4)
      (c.modCfg fun e => { e with nextFw := some (k == 1) }, 0, 0xFFFF)).judgeFloors o otpFails

/-! ## Saves (R339) -/

/-- A record's bytes (Table 13.4). -/
def recordBytes (type target flags : Nat) (ws : List Nat) : List Byte :=
  let body := beBytes 2 type ++ beBytes 2 ws.length ++ beBytes 4 target ++ beBytes 2 flags ++ beBytes 2 0 ++ ws.flatMap (beBytes 4)
  body ++ beBytes 4 (crc32c body)

/-- A table's entries from `first` on as records of at most `per` entries of `words` words each. -/
def tableRecords (type : Nat) (target : Nat → Nat) (words per : Nat) (entry : Nat → Nat → Nat) : Nat → Nat → Nat → List (List Byte)
  | 0, _, _ => []
  | fuel + 1, first, n =>
    if n = 0 then []
    else
      let k := min per n
      recordBytes type (target first) 0 ((List.range k).flatMap fun i => (List.range words).map fun w => entry (first + i) w) ::
        tableRecords type target words per entry fuel (first + k) (n - k)

/-- The privileged addresses of a register row's instances. -/
def dimOffsets : List (Nat × Nat) → List Nat
  | [] => [0]
  | (n, stride) :: r => (List.range n).flatMap fun i => (dimOffsets r).map (i * stride + ·)

/-- The register lists of a save: every class C register, block by block (R339). -/
def Chip.registerRecords (c : Chip) : List (List Byte) :=
  (List.range 256).filterMap fun page =>
    let as := (rowsOfPage page).flatMap fun r => if r.cls == .c then (dimOffsets r.dims).map (r.addr + ·) else []
    if as = [] then none else some (recordBytes 1 (page * 65536) 0 (as.flatMap fun a => [a % 65536, (c.stored a).toNat]))

/-- Word `w` of a committed table entry. -/
def Chip.storedWord (c : Chip) (t i w : Nat) : Nat := entryWord (c.committed.tab t i) w

/-- The records of a save after the register lists. DESIGN CHOICE (assumption 52): their order. -/
def Chip.tableSave (c : Chip) : List (List Byte) :=
  let plain := fun (type words size t : Nat) => tableRecords type id words 4096 (fun i w => c.storedWord t i w) 16 0 size
  tableRecords 2 id 25 2048 (fun i w => natBits (ruleAt c.sorter.copy i) (32 * (24 - w)) 32) 16 0 12288 ++
  (List.range 2).map (fun page => recordBytes 3 (b2n (page == c.tsi.active) * 2 ^ 31 + page * 65536) 0 ((List.range 4096).map fun ch => Map.get 0 c.tsi.copy (4096 * page + ch))) ++
  ((List.range 4).flatMap fun k => tableRecords 4 (fun i => k * 2 ^ 28 + i) 5 4096 (fun i w => c.storedWord (3 + k) i w) 16 0 (drvSize k)) ++
  plain 5 2 8192 1 ++ plain 6 5 8192 2 ++ plain 7 1 4096 0 ++
  tableRecords 8 (fun i => 2 ^ 27 + i) 1 4096 (fun i w => c.storedWord 7 i w) 16 0 512 ++
  tableRecords 8 (fun i => 2 ^ 28 + i) 2 4096 (fun i w => c.storedWord 8 i w) 16 0 128 ++
  ((List.range 160).map fun k => recordBytes 0xD (k / 8 * 65536 + k % 8 * 256) 0 ((List.range 18).map fun w => c.storedWord 9 (wakeIndex (k / 8) (k % 8) w) 0)) ++
  c.cfg.keys.map (fun e => recordBytes 9 e.1 0 ((List.range (e.2.length / 4)).map fun w => beAt e.2 (4 * w) 4)) ++
  (let later := (c.time.slots.filter fun e => e.2.state == 1 && NetTime.before c.nt e.2.instant).map (·.2)
   if later = [] then [] else [recordBytes 0xC 0 0 (later.flatMap EvSlot.words)])

/-- The image of the committed configuration up to its check word (R339). -/
def Chip.saveImage (c : Chip) : List Byte :=
  let recs := c.registerRecords ++ c.tableSave
  let body := recs.flatten
  let head := beBytes 4 0x4F494D31 ++ beBytes 2 1 ++ beBytes 1 2 ++ beBytes 1 0 ++ beBytes 4 (64 + body.length + 4 + 3272) ++
    beBytes 4 (c.f CFG_SAVE_VER_VERSION) ++ beBytes 1 (c.f CFG_SAVE_ROLLBACK) ++ beBytes 1 0 ++ beBytes 2 recs.length ++
    beBytes 8 0 ++ beBytes 2 0x0964 ++ fill 34 0
  let img := head ++ body
  img ++ beBytes 4 (crc32c img)

/-- CFG_SAVE.PREPARE (R339): the image is built, which takes at most 2 s. -/
def Chip.savePrepare (c : Chip) : Chip :=
  ((c.modCfg fun e => { e with save := c.saveImage }).put CFG_SAVE_STATE 1).start .savePrep (2 * secCcy)

/-- SAVE_READY (R339): the preparation ends: the digest is shown and STATE is 2. -/
def execSaveReady (s : State) : Out := run s fun c =>
  if c.f CFG_SAVE_STATE ≠ 1 then c else
  let h := Config.sha384 c.cfg.save
  let c := (List.range 12).foldl (fun c n => c.setReg (CFG_SAVE_DIGEST n) (BitVec.ofNat 32 (beAt h (4 * n) 4))) c
  (c.put CFG_SAVE_STATE 2).stop .savePrep

/-- Steps 6, 8 and 9 on a save signature: under the operator roots, or under the delegate in force where its key signed. -/
def Chip.checkSave (o : Otp) (c : Chip) (data : List Byte) : Nat :=
  let sig := fun i => data.getD i 0
  if data.length ≠ 3272 || !sigFormed sig (Config.sha384 c.cfg.save) then 1
  else match c.cfg.delegate with
    | some d => if imgBytes sig 56 96 = slice d 0 96 then sigChecks sig (Config.sha384 (slice d 0 96)) (Config.sha384 (slice d 96 60))
      else sigChecks sig o.ecRoot o.hssRoot
    | none => sigChecks sig o.ecRoot o.hssRoot

/-- A save signature judged (R339): in STATE 2 alone. -/
def Chip.takeSignature (o : Otp) (c : Chip) (data : List Byte) : Chip × Nat × Nat :=
  match c.checkSave o data with
  | 0 =>
    let all := c.cfg.save ++ data
    let w := c.writeCfgSlot (fun i => all.getD i 0) all.length
    (w.1.put CFG_SAVE_STATE 3, 0, 0xFFFF)
  | r => (c.put CFG_SAVE_STATE 5, r, 0xFFFF)

/-- SAVE_SIGNATURE (R339): a completed object 0x12 of a line, or of the host. -/
def execSaveSignature (src : Option Line) (otpFails : Bool) (s : State) : Out := runFuse s fun o c =>
  if c.f CFG_SAVE_STATE = 2 then (c.withObject src 0x12 fun c data => c.takeSignature o data).judgeFloors o otpFails
  else match c.takeObject src 0x12 with
    | some (c, _, _, ack) => (c.objectEnds src ack false, o)
    | none => (c, o)

/-! ## Binding the roots (R331) -/

/-- CFG_ROOT_BIND.GO by a master; `programmed` tells whether the OTP program succeeds. -/
def Chip.rootBind (o : Otp) (c : Chip) (m : Master) (programmed : Bool) : Chip × Otp :=
  let base := cfgBase (c.cfgRegion 0)
  let b := fun i => c.flashByte (base + i)
  let r := checkForm o b 0x800000 2
  let sig := fun i => b (r.check + 4 + i)
  let ec := Config.sha384 (imgBytes sig 56 96)
  let hss := Config.sha384 (imgBytes sig 152 60)
  let done := fun (e : Nat) => (c.put CFG_ROOT_BIND_ERR e).raise CFG_ROOT_BIND_DONE
  if m ≠ .mgt then (done 1, o)
  else if o.bound then (done 2, o)
  else if r.reason ≠ 0 || sigChecks sig ec hss ≠ 0 then (done 3, o)
  else if !programmed then (done 4, o)
  else (done 0, { o with bound := true, ecRoot := ec, hssRoot := hss })

end Sys2Proof.Machine
end

