-- ==== Sys2Proof/Machine/Startup.lean ====
section
/-! DEFINITION. Power-on reset and start-up (spec/13_boot_and_configuration.md, R318 to R322, R327 to R330;
spec/17_pins_and_electrical.md, R415 to R419; spec/04_activation_and_trust.md, R91, R104; spec/16_integrity.md, R393, R399). -/

namespace Sys2Proof.Machine
open Sys2Proof

/-! ## Power-on reset -/

/-- The terminal as a power-on reset leaves it (R10, R416): every register and array at its reset value. What lies in the flash
and in the trust region stays, firmware delivered becomes slot A (Table 13.10), and the clock inputs are the board's. -/
def Chip.powerOnReset (c : Chip) : Chip :=
  let maps := match c.cfg.nextFw with
    | some fw => List.replicate 3 (fw, c.cfg.slotMap.1.2)
    | none => c.cfg.maps
  { now := c.now, freeCtr := c.freeCtr, emitted := c.emitted, trust := c.trust, flash := c.flash
    keys := { imports := c.keys.imports }, cfg := { maps := maps }, itm := { copied := c.itm.copied }
    pins := { c.pins with tap := .idcode } }

/-- POWER_ON_RESET (R416): PORST_N low for at least 10 µs. -/
def execPowerOnReset (s : State) : Out := run s Chip.powerOnReset

/-- AON_BROWNOUT (R417): VDD_AON below 0.60 V with PORST_N high. -/
def execAonBrownout (s : State) : Out := run s Chip.powerOnReset

/-! ## The steps of Table 13.2 -/

/-- Whether start-up has come to an end: complete, or stopped in the safe state of R322. -/
def BootState.ended (b : BootState) : Bool := b.started || b.recovery

/-- The safe state of R322: the management SPI target in recovery mode, FAULT_N low. DEDUCED (assumption 54): ITM_SAFE.ACTIVE
shows it, as it shows that of R391. -/
def Chip.holdSafe (c : Chip) : Chip :=
  let c := { c with boot := { c.boot with recovery := true }, itm := { c.itm with faultLow := true } }
  (c.raise MGT_STATUS_RECOVERY).raise ITM_SAFE_ACTIVE

/-- Domains woken by start-up in the order given, parents before children; those listed in `fails` fail in a step of theirs,
and their children do not wake (R329, R380, R399). -/
def Chip.bootWake (c : Chip) (ds : List Nat) (fails : List (Nat × Nat × Bool)) : Chip :=
  (ds.flatMap fun d => ancestors d ++ [d]).foldl (fun c d =>
    if c.isOn d || (parents d).any (fun p => !c.isOn p) then c
    else match fails.find? fun e => e.1 == d with
      | some (_, step, bist) =>
        let c := c.put (PWR_STATE_PHASE d) (step + 1)
        let c := if bist then (c.raise ITM_BIST_STATUS_MBIST).fault 15 d 0 0 false else c
        c.wakeFails d
      | none => c.wakeUp d []) c

/-- The tests of step 4 (R399): a failure sets its bit and logs class 15; PASS when there is none. -/
def Chip.bootTests (c : Chip) (r : BootReport) : Chip :=
  let c := (((c.putB ITM_BIST_STATUS_LBIST r.lbist).putB ITM_BIST_STATUS_MBIST r.mbist).putB ITM_BIST_STATUS_INJECT r.inject).putB ITM_BIST_STATUS_PORTER r.porter
  let failed := [r.lbist, r.mbist, r.inject, r.porter].filter id
  if failed = [] then c.raise ITM_BIST_STATUS_PASS
  else c.faults ((List.range failed.length).map fun k => let e := r.faults.getD k { cls := 15, dom := 49 }; { e with cls := 15 })

/-- Step 5 (R320, R327): the slot map, then firmware slot A, then slot B; the region of the one that passes. -/
def Chip.bootFirmware (o : Otp) (c : Chip) : Chip :=
  let map := if c.trust.readable then c.cfg.slotMap else ((false, false), false)
  let c := if map.2 then c else (c.modCfg fun e => { e with maps := List.replicate 3 (false, false) }).raise CFG_ALARM_MAP_ERR
  let c := (c.putB CFG_SLOTS_FW_MAP map.1.1).putB CFG_SLOTS_CFG_MAP map.1.2
  let a := c.fwImage o (c.fwRegion 0)
  let c := (c.count N_CFG_REC_SKIP a.skips).put CFG_BOOT_FW_A a.reason
  let use := fun (c : Chip) (slot : Nat) =>
    let r := c.fwRegion slot
    let c := { c with boot := { c.boot with fwRegion := some r } }
    (c.put CFG_SLOTS_FW_SLOT slot).put CFG_FW_VER_VERSION (imgBe (fun i => c.flashByte (fwBase r + i)) 12 4)
  if a.reason = 0 then use c 0
  else
    let b := c.fwImage o (c.fwRegion 1)
    let c := (c.count N_CFG_REC_SKIP b.skips).put CFG_BOOT_FW_B b.reason
    if b.reason = 0 then (use c 1).raise CFG_ALARM_FALLBACK else c

/-- A line at the reading of its silence record (R91). -/
def Chip.bootLine (c : Chip) (x : Line) : Chip :=
  let t := c.trust
  let rec_ := match x with
    | .a => (t.silA, t.cntA)
    | .b => (t.silB, t.cntB)
  if !t.readable then (c.put (LPx_ACT_STATUS_STATE x) stSilenced).raise (LPx_ACT_ALARM_SIL_NVM_ERR x)
  else
    let c := c.put (LPx_SIL_COUNT_COUNT x) rec_.2
    if rec_.1 then (c.put (LPx_ACT_STATUS_STATE x) stSilenced).raise (LPx_SILENCE_SIL_NVM x) else c

/-- Step 6 (R91, R104, R344): the firmware starts on both pairs and reads the trust region. -/
def Chip.bootTrust (c : Chip) : Chip :=
  let c := ((c.raise (MBX_STATUS_RUN 0)).raise (MBX_STATUS_RUN 1)).kick 3
  let c := (c.bootLine .a).bootLine .b
  c.setLeaf (if c.trust.readable then c.trust.resume else c.trust.skipBlock)

/-! ## Step 7: the configuration (R329, R330) -/

/-- The rule entries and connection pages that start-up brings, in their stores and in the blocks that are ON. -/
def Chip.bootArrays (c : Chip) (k : Commit) : Chip :=
  let c := Chip.imagine { c with sorter := { c.sorter with copy := [] }, tsi := { c.tsi with copy := [], active := 0 } } k
  let c := c.modSorter fun t => { t with rules := t.copy.filter fun e => c.isOn (12 + e.1 / 3072) }
  if c.isOn 44 then (c.modTsi fun w => { w with pages := w.copy }).put TSI_STATUS_ACTIVE c.tsi.active else c

/-- The domains that a configuration's standing states hold ON, ascending. -/
def Proposal.onDomains (p : Proposal) : List Nat := (List.range 50).filter fun d => neverDown d || decide (2 ≤ p.f ⟨PWR_DOM d, 0, 2⟩)

/-- A proposal that passed becomes the committed configuration at once (R329). It is no commit: RATE_RESET (R203) does not rise.
DEDUCED (assumption 105). -/
def Chip.bootApply (c : Chip) (k : Commit) : Chip :=
  let old : Proposal := {}
  let new := k.over old
  let c := ((c.bootArrays k).applyValues old new).commitEffects old new fun _ => true
  let c := ((c.lower DRV_ALARM_RATE_RESET).lower TOL_ALARM_RATE_RESET).imageExtras k
  let c := (k.slots c.nt.fn).foldl Chip.armSchedule c
  let c := c.put CFG_IMG_VER_VERSION (k.version.getD 0)
  c.commitPower old new

/-- A configuration tried (R329): its domains wake, then step 11 runs; the answer is its reason. -/
def Chip.bootTry (c : Chip) (k : Commit) (fails : List (Nat × Nat × Bool)) : Chip × Nat :=
  let p := k.over {}
  let c := c.bootWake p.onDomains fails
  let seen := Chip.imagine { c with sorter := { c.sorter with copy := [] }, tsi := { c.tsi with copy := [], active := 0 } } k
  match seen.feasible p (k.slots c.nt.fn) c.ntValid c.nt with
  | some r => (c.showFailure r, r.reason)
  | none => (c, 0)

/-- A configuration slot tried: its reason and the record it lies in, and its content. -/
def Chip.bootSlot (o : Otp) (c : Chip) (slot : Nat) (fails : List (Nat × Nat × Bool)) : Chip × Nat × Nat × Commit :=
  let base := cfgBase (c.cfgRegion slot)
  let q := c.cfgImage o (c.cfgRegion slot)
  let c := c.count N_CFG_REC_SKIP q.skips
  if q.reason ≠ 0 then (c, q.reason, q.record, { fn := 0 })
  else
    let k := imageContent o (fun i => c.flashByte (base + i)) q
    let t := c.bootTry k fails
    (t.1, t.2, 0xFFFF, k)

/-- The factory defaults of Table 13.9. -/
def factoryDefaults : Commit :=
  let off := 10 :: [12, 13, 14, 15] ++ (List.range 13).map (27 + ·)
  let regs := off.map (fun d => (PWR_DOM d, (0 : Word))) ++
    (List.range 32).map (fun n => (TDM_CFG n, wordPut (wordPut (wordPut (wordPut (resetWord (TDM_CFG n)) 31 1 1) 29 2 0) 28 1 0) 27 1 0)) ++
    (List.range 20).map (fun n => (ETH_MODE n, wordPut (resetWord (ETH_MODE n)) 0 3 0)) ++
    [(HST_PRIV, 0), (MGT_CFG, 1)]
  { fn := 0, full := true, regs := regs.foldl (fun m e => Map.insert m e.1 e.2) [] }

/-- The factory defaults in force (R330). -/
def Chip.bootDefaults (c : Chip) (fails : List (Nat × Nat × Bool)) : Chip :=
  let c := (c.bootTry factoryDefaults fails).1.bootApply factoryDefaults
  let c := (List.range 32).foldl (fun c n => c.raise (TDM_CTRL_FORCE_AIS n)) c
  ((c.raise CFG_STATUS_DEFAULTS).put CFG_STATUS_SRC 2).raise CFG_ALARM_FALLBACK

/-- Step 7: configuration slot A, then slot B, then the factory defaults. -/
def Chip.bootConfig (o : Otp) (c : Chip) (fails : List (Nat × Nat × Bool)) : Chip :=
  let used := fun (c : Chip) (slot : Nat) => { c with boot := { c.boot with cfgRegion := some (c.cfgRegion slot) } }
  let a := c.bootSlot o 0 fails
  let c := a.1.put CFG_BOOT_CFG_A a.2.1
  if a.2.1 = 0 then (used c 0).bootApply a.2.2.2
  else
    let b := c.bootSlot o 1 fails
    let c := b.1.put CFG_BOOT_CFG_B b.2.1
    if b.2.1 = 0 then
      let c := ((used c 1).bootApply b.2.2.2).put CFG_STATUS_SRC 1
      ((c.put CFG_STATUS_REASON a.2.1).put CFG_STATUS_RECORD a.2.2.1).raise CFG_ALARM_FALLBACK
    else ((c.bootDefaults fails).put CFG_STATUS_REASON b.2.1).put CFG_STATUS_RECORD b.2.2.1

/-- Step 8: READY, and FAULT_N released unless a fault reaction holds it; the reset's source (R393). -/
def Chip.bootEnd (c : Chip) : Chip :=
  let c := { c with boot := { c.boot with started := true, fromStep := 1 }, itm := { c.itm with faultLow := c.flag ITM_SAFE_ACTIVE } }
  let c := c.raise CFG_BOOT_READY
  if c.itm.wdog then { c.raise TOP_INT_STATUS_WDOG_RST with itm := { c.itm with wdog := false } } else c

/-- The flash as SFDP declares it (R318). -/
def Chip.bootFlash (c : Chip) (r : BootReport) : Chip :=
  ((c.put NVM_STATUS_MODE (min 2 r.flashMode)).put NVM_STATUS_CS0_MIB r.cs0).put NVM_STATUS_CS1_MIB r.cs1

/-- STARTUP (R321): steps 2 to 8 of Table 13.2, from step 3 after a reset reaction (R393). Step 2 waits for HOLD_OSC and REFCLK. -/
def Chip.startup (o : Otp) (c : Chip) (r : BootReport) : Chip × Otp :=
  if c.boot.ended || (decide (c.boot.fromStep < 3) && !(c.pins.refclk && c.pins.holdOsc)) then (c, o) else
  let c := ((c.putB CLK_STATUS_REFCLK_OK c.pins.refclk).putB CLK_STATUS_HOLD_OSC_OK c.pins.holdOsc).putB CLK_STATUS_PCIE_REFCLK_OK c.pins.pcieRef
  if r.otpError && !c.boot.otpRead then ((c.raise CFG_OTP_STATUS_OTP_ERR).holdSafe, o)
  else
    let c := { c with boot := { c.boot with otpRead := true } }
    let c := (c.bootWake [45, 46, 49] []).bootTests r
    let c := c.bootFlash r
    if r.lbist || r.inject then (c.holdSafe, o)
    else
      let c := c.bootFirmware o
      match c.boot.fwRegion with
      | none => (c.holdSafe, o)
      | some _ => (((c.bootTrust).bootConfig o r.noWake).bootEnd).judgeFloors o r.otpFails

/-- STARTUP. -/
def execStartup (r : BootReport) (s : State) : Out := runFuse s fun o c => c.startup o r

end Sys2Proof.Machine
end

