-- ==== Sys2Proof/Machine/Faults.lean ====
section
/-! DEFINITION. The commands of the integrity monitor's mechanisms and of the pins: faults, sweeps, self-tests, the watchdog, the
sensors, the Porters, the JTAG port and the clock inputs (spec/16_integrity.md, R387 to R402; spec/17_pins_and_electrical.md, R419 and R430). -/

namespace Sys2Proof.Machine
open Sys2Proof

/-- What a report of the clock or voltage monitor shows beside its class (R405). -/
def Chip.showMonitor (c : Chip) (r : FaultReport) : Chip :=
  if r.cls = 7 && r.loc < 25 then c.raiseBit ITM_CMON_STATUS_FAIL r.loc
  else if r.cls = 8 && r.loc < 9 then c.raiseBit ITM_VMON_STATUS_RAIL r.loc
  else c

/-- FAULT_DETECTED (R388, R389): mechanisms report faults in one ccy; LOCATION of a clock fault is its domain, that of a voltage
fault its rail. -/
def execFaultDetected (reports : List FaultReport) (s : State) : Out := run s fun c =>
  if !c.isOn 49 then c else (reports.foldl Chip.showMonitor c).faults reports

/-- RAIL_RETURN (R387, R392): a rail is within its limits again; class 8 is active while another is not. -/
def execRailReturn (rail : Nat) (s : State) : Out := run s fun c =>
  if !c.isOn 49 || 9 ≤ rail then c else
  let c := c.lowerBit ITM_VMON_STATUS_RAIL rail
  if c.f ITM_VMON_STATUS_RAIL = 0 then c.lowerBit ITM_FAULT_ACTIVE_CLASS 8 else c

/-- WATCHDOG_EXPIRY (R387): a pair's watchdog ends without a kick. -/
def execWatchdogExpiry (p : Nat) (s : State) : Out := run s fun c =>
  c.expire (.watchdog p) fun c => c.fault 10 (45 + p) p 0 false

/-- MONITOR_HEARTBEAT_MISS (R394): class 17, and PD00 drives the safe state. -/
def execMonitorHeartbeatMiss (s : State) : Out := run s fun c => c.fault 17 49 0 0 true

/-- TEMP_SAMPLE (R387): a sensor cycle, the four temperatures in two's complement °C. -/
def execTempSample (t0 t1 t2 t3 : BitVec 9) (s : State) : Out := runO s fun o c =>
  if c.isOn 49 then c.tempSample o [t0.toNat, t1.toNat, t2.toNat, t3.toNat] else c

/-- CREG_SWEEP (R387, R143): upsets have changed active class C registers and table entries; each that lies in a domain that is
ON and differs from the configuration store is repaired and reported, and a pin-mux mismatch sets PINMUX_ERR. -/
def execCregSweep (regs : List (Nat × Word)) (tabs : List (Nat × Nat)) (s : State) : Out := run s fun c =>
  if !c.isOn 49 then c else
  let bad := regs.filter fun u => (match findReg u.1 with | some (r, is) => r.cls == .c && c.isOn (r.dom.of is) | none => false) && u.2 != c.reg u.1
  let worse := tabs.filter fun u => c.isOn (tableDom (u.1 / 65536)) && u.2 != c.tab (u.1 / 65536) (u.1 % 65536)
  let rs : List FaultReport := bad.map (fun u => { cls := 11, dom := addrDom u.1, loc := u.1 }) ++ worse.map fun u => { cls := 11, dom := tableDom (u.1 / 65536), loc := u.1 }
  let c := if bad.any fun u => u.1 == TOP_PINMUX then c.raise TOP_INT_STATUS_PINMUX_ERR else c
  c.faults rs

/-- RULE_SWEEP (R179, R387): every rule entry that differs from its copy is repaired and reported as class 2. -/
def execRuleSweep (upsets : List (Nat × Nat)) (s : State) : Out := run s fun c =>
  if !c.isOn 49 then c else
  let r := c.ruleSweep upsets
  r.1.faults (r.2.map fun i => { cls := 2, dom := 12 + i / 3072, loc := i })

/-- PERIODIC_SELFTEST (R400): `reported` injections were reported by their mechanisms; those of `failed` were not. -/
def execPeriodicSelftest (reported : Nat) (failed : List Nat) (s : State) : Out := run s fun c =>
  if !c.isOn 49 then c else (c.count N_ITM_STEST_RUNS reported).faults (failed.map fun k => { cls := 15, dom := 49, loc := k })

/-- PORTER_VIOLATION (R395, R397): the kinds of Table 16.2 as ITM_PTRx_STATUS.KIND numbers them. -/
def execPorterViolation (x : Line) (kinds : BitVec 6) (s : State) : Out := run s fun c => c.porterViolation x kinds.toNat

/-- JTAG_INSTRUCTION (R398): one that drives the pins releases LDOFF and holds BEN low on both lines. -/
def execJtagInstruction (i : JtagInstr) (s : State) : Out := run s fun c =>
  let c := { c with pins := { c.pins with tap := i } }
  if i.drivesPins then (c.cutBurst .a).cutBurst .b else c

/-- TAP_RESET (R430): IDCODE is loaded. -/
def execTapReset (s : State) : Out := run s fun c => { c with pins := { c.pins with tap := .idcode } }

/-- A clock input at its ball. -/
def PinState.setClock (p : PinState) (i : ClockInput) (b : Bool) : PinState :=
  match i with
  | .refclk => { p with refclk := b }
  | .holdOsc => { p with holdOsc := b }
  | .pcie => { p with pcieRef := b }

/-- A clock input lost or found after start-up: its status bit, and the alarm of its loss. -/
def Chip.showClock (c : Chip) (i : ClockInput) (b : Bool) : Chip :=
  let show_ := fun (bit alarm : Fld) => let d := c.putB bit b; if b then d else d.raise alarm
  match i with
  | .refclk => show_ CLK_STATUS_REFCLK_OK CLK_ALARM_REFCLK_LOSS
  | .holdOsc => show_ CLK_STATUS_HOLD_OSC_OK CLK_ALARM_HOLD_OSC_LOSS
  | .pcie => show_ CLK_STATUS_PCIE_REFCLK_OK CLK_ALARM_PCIE_REFCLK_LOSS

/-- CLOCK_INPUT_CHANGE (R419, R384): a clock input appears or disappears. After start-up the loss of REFCLK or HOLD_OSC is class 7,
active until both are present and no monitored clock is out of range; without PCIE_REFCLK the PCIe link is down. -/
def execClockInputChange (i : ClockInput) (present : Bool) (s : State) : Out := run s fun c =>
  let was := match i with | .refclk => c.pins.refclk | .holdOsc => c.pins.holdOsc | .pcie => c.pins.pcieRef
  let c := { c with pins := c.pins.setClock i present }
  if was = present || !c.boot.ended then c else
  let c := c.showClock i present
  if i = .pcie then
    (if present || !c.isOn 41 || !c.flag HST_LINK_DL_UP then c else (c.hostReset.count N_HST_LINK_DOWN).raise HST_ALARM_LINK_DOWN)
  else if !present then c.fault 7 63 (if i = .refclk then 3 else 2) 0 true
  else if c.pins.refclk && c.pins.holdOsc && c.f ITM_CMON_STATUS_FAIL = 0 then c.lowerBit ITM_FAULT_ACTIVE_CLASS 7
  else c

end Sys2Proof.Machine
end

