-- ==== Sys2Proof/Machine/Flash.lean ====
section
/-! DEFINITION. Flash commands, the copy of the fault log, and the firmware's heartbeat
(spec/13_boot_and_configuration.md, R319, R341, R343, R344; spec/16_integrity.md, R402). -/

namespace Sys2Proof.Machine
open Sys2Proof

/-- The secure masters (Table 14.1). -/
def Master.secure : Master → Bool
  | .config | .pair0 | .pair1 => true
  | _ => false

/-- The bytes of the flash found. -/
def Chip.flashSize (c : Chip) : Nat := (c.f NVM_STATUS_CS0_MIB + c.f NVM_STATUS_CS1_MIB) * 1048576

/-- Whether program and erase at an address are refused to a master (R343, Table 13.1). The staging region is the terminal's alone
while firmware runs. DEDUCED (assumption 55). -/
def Chip.flashProtected (c : Chip) (m : Master) (a : Nat) : Bool :=
  let within := fun (base size : Nat) => decide (base ≤ a) && decide (a < base + size)
  let inUse := (c.boot.fwRegion.any fun r => within (fwBase r) 0x400000) || (c.boot.cfgRegion.any fun r => within (cfgBase r) 0x800000)
  if within 0x2000000 0x200000 then !m.secure
  else if c.boot.recovery then false
  else inUse || (within 0x1800000 0x800000 && !m.secure)

/-- A write of NVM_CMD with GO taken by the controller: a refused command ends at once, another runs until its end (R341, R343). A
code that names no operation starts none. DEDUCED (assumption 56). -/
def Chip.flashCommand (c : Chip) (m : Master) : Chip :=
  let op := c.f NVM_CMD_OP
  let c := (c.lower NVM_CMD_DONE).put NVM_CMD_ERR 0
  if op = 0 || 3 < op then c
  else if op ≠ 1 && c.flashProtected m (c.f NVM_ADDR_ADDR) then
    ((c.raise NVM_CMD_DONE).put NVM_CMD_ERR 1).raise NVM_ALARM_PROT
  else (c.raise NVM_PW_STATUS_BUSY).modCfg fun e => { e with flashCmd := some op }

/-- What a flash command that succeeds does: a word read, first byte in [31:24]; a word programmed, which clears bits; a sector
erased. The regions whose layout the spec does not give read as free values, and are not changed here. PRESUMED
(assumption 50): programming clears bits. -/
def Chip.flashDone (c : Chip) (op : Nat) : Chip :=
  let a := c.f NVM_ADDR_ADDR
  let open_ := decide (0x1800000 ≤ a) && decide (a < 0x2200000)
  match op with
  | 1 =>
    if open_ then let r := c.free; r.1.put NVM_DATA_DATA (r.2 % 2 ^ 32)
    else c.put NVM_DATA_DATA (beNat ((List.range 4).map fun i => c.flashByte (a + i)))
  | 2 =>
    if open_ then c
    else
      let w := beBytes 4 (c.f NVM_DATA_DATA)
      { c with flash := (List.range 4).foldl (fun m i => Map.set 0xFF m (a + i) (Map.get 0xFF m (a + i) &&& w.getD i 0)) c.flash }
  | _ =>
    if open_ then c
    else { c with flash := c.flash.filter fun e => e.1 / 65536 != a / 65536 }

/-- NVM_CMD_DONE (R341, R343): the command that runs ends; `failed` tells that a program or erase failed. -/
def execNvmCmdDone (failed : Bool) (s : State) : Out := run s fun c =>
  match c.cfg.flashCmd with
  | none => c
  | some op =>
    let c := ((c.modCfg fun e => { e with flashCmd := none }).lower NVM_PW_STATUS_BUSY).raise NVM_CMD_DONE
    if c.flashSize ≤ c.f NVM_ADDR_ADDR then c.put NVM_CMD_ERR 3
    else if failed && op ≠ 1 then (c.put NVM_CMD_ERR 2).raise NVM_ALARM_FAIL
    else c.flashDone op

/-- FW_HEARTBEAT (R344): 1 ms of running firmware: BEAT advances, and LOAD is the busy share of each pair. -/
def execFwHeartbeat (load0 load1 : Nat) (s : State) : Out := run s fun c =>
  (List.range 2).foldl (fun c p =>
    if c.isOn (45 + p) && c.flag (MBX_STATUS_RUN p) then
      (c.put (MBX_STATUS_BEAT p) ((c.f (MBX_STATUS_BEAT p) + 1) % 2 ^ 16)).put (MBX_STATUS_LOAD p) (min 100 (if p = 0 then load0 else load1))
    else c) c

/-- The entries of the fault log that are not copied yet, the oldest first. -/
def ItmState.fresh (i : ItmState) : List LogEntry :=
  (List.range i.uncopied).map fun k => Map.get {} i.log ((i.next + 256 - i.uncopied + k) % 256)

/-- FAULT_LOG_COPY (R402): pair 1 copies the new entries to the flash, where a sector of 4,096 entries is erased for room; `failed`
tells that the copy has failed 3 times. -/
def execFaultLogCopy (failed : Bool) (s : State) : Out := run s fun c =>
  if !(c.isOn 46 && c.flag (MBX_STATUS_RUN 1)) || c.itm.uncopied = 0 then c
  else if failed then c.raise MBX_ALARM_LOG_COPY
  else
    let held := if 65536 < c.itm.copied.length + c.itm.uncopied then c.itm.copied.drop 4096 else c.itm.copied
    { c with itm := { c.itm with copied := held ++ c.itm.fresh, uncopied := 0 } }

end Sys2Proof.Machine
end

