-- ==== Sys2Proof/Machine/Access.lean ====
section
/-! DEFINITION. How an access to a register is judged, and what a read of one returns (spec/14_registers_and_counters.md, R345 to
R357; spec/00_scope.md, R7 to R11). -/

namespace Sys2Proof.Machine
open Sys2Proof

/-! ## The register an access names -/

/-- The register that an access reaches: its row and indexes, its active address, whether the offset is a shadow's, whether the
access came through the user view, and the privileged-view address it gave. -/
structure Target where
  row : RegRow
  idx : List Nat
  reg : Nat
  shadow : Bool
  userView : Bool
  full : Nat
  deriving DecidableEq, Repr

/-- The register at an address of either view; none where no register lies (R9, R11, R347). -/
def target (a : Nat) : Option Target :=
  let user := decide (0x1000000 ≤ a)
  let p := if user then a - 0x1000000 else a
  let sh := decide (0x8000 ≤ p % 65536)
  let b := if sh then p - 0x8000 else p
  if a % 4 ≠ 0 || 0x1000000 ≤ p then none
  else match findReg b with
    | some (row, idx) => if sh && row.cls != .c then none else some { row := row, idx := idx, reg := b, shadow := sh, userView := user, full := p }
    | none => none

/-- Whether a write to a register goes to its shadow (R9). -/
def Target.staged (t : Target) : Bool := t.row.cls == .c

/-! ## Privilege (R345 to R349, R365) -/

/-- A mark's code in TOP_ACC_VIOL_ADDR. -/
def Mark.code : Mark → Nat
  | .u => 0
  | .p => 1
  | .s => 2

/-- A master's highest privilege (Table 14.1): 0 no access, 1 user, 2 privileged, 3 secure. -/
def Chip.rank (c : Chip) (m : Master) : Nat :=
  let head := fun (x : Line) => if c.flag (LPx_ACT_STATUS_KEYED x) && c.actState x == stWorking then 2 else 0
  match m with
  | .config => 3
  | .pair0 => 3
  | .pair1 => 3
  | .headA => head .a
  | .headB => head .b
  | .bar0 => if c.flag HST_PRIV_HOST_PRIV then 2 else 1
  | .bar1 => 1
  | .mgt => if c.flag MGT_CFG_MGT_PRIV || c.boot.recovery then 2 else 1

/-- The head ends' channels. -/
def Master.head : Master → Bool
  | .headA | .headB => true
  | _ => false

/-- The rank a register's mark asks of a master, by the same scale; a Porter's CTRL is marked S for the head ends (R397), and a
shadow is written by a privileged master at least (R349). -/
def Target.needs (t : Target) (m : Master) (write : Bool) : Nat :=
  let mark := if m.head && (t.reg == ITM_PTR_CTRL .a || t.reg == ITM_PTR_CTRL .b) then 3 else t.row.mark.code + 1
  if write && t.staged then max 2 mark else mark

/-- The rank that an access has: a user's through the user view; the management SPI's on CFG_ROOT_BIND counts as privileged
(R331, R347). -/
def Chip.rankAt (c : Chip) (m : Master) (t : Target) : Nat :=
  let r := if t.reg = CFG_ROOT_BIND && m == .mgt then max 2 (c.rank m) else c.rank m
  if t.userView then min 1 r else r

/-- Whether an access violates privilege (R348, R365). -/
def Chip.violates (c : Chip) (m : Master) (t : Target) (write : Bool) : Bool :=
  let r := c.rankAt m t
  let tal := t.reg / 65536 == 6 || t.reg / 65536 == 7
  decide (r < t.needs m write) || (tal && decide (r < 2) && (write || !c.flag TAL_CFG_TAL_USER_EN))

/-- Whether a write meets a lock, or a write-once field that was written before (R356). DEDUCED (assumption 57): a write counts
when it is staged. -/
def Chip.barred (c : Chip) (t : Target) : Bool := c.locked t.reg || (t.reg == TOP_LOCK && c.lockWritten)

/-- Whether the block of a register is off (R357). -/
def Chip.isOff (c : Chip) (t : Target) : Bool := !(c.isOn (t.row.dom.of t.idx) && c.clockRuns (t.row.clk.of t.idx))

/-- What recovery mode leaves the management SPI target (R322). -/
def recoveryReach (a : Nat) : Bool :=
  a / 65536 == 36 || a / 65536 == 37 || a == CFG_STATUS || a == CFG_BOOT || a == CFG_OTP_STATUS || a == TOP_CHIP_ID || a == TOP_PART_OPT

/-- Whether a master's accesses reach the interconnect: a pair's while it runs, a head end's through pair 1, the host's over a
link that is up. -/
def Chip.reaches (c : Chip) (m : Master) : Bool :=
  match m with
  | .config => true
  | .pair0 => c.isOn 45 && c.flag (MBX_STATUS_RUN 0)
  | .pair1 => c.isOn 46 && c.flag (MBX_STATUS_RUN 1)
  | .headA => c.isOn 46 && c.flag (MBX_STATUS_RUN 1)
  | .headB => c.isOn 46 && c.flag (MBX_STATUS_RUN 1)
  | .bar0 => c.isOn 41 && c.flag HST_LINK_DL_UP
  | .bar1 => c.isOn 41 && c.flag HST_LINK_DL_UP
  | .mgt => true

/-! ## The judgement (R348, R356, R357) -/

/-- How an access ends, in the codes of REG_REPLY (R346). -/
inductive AccessEnd where
  | done | violation | off | locked | bad
  deriving DecidableEq, Repr

def AccessEnd.code : AccessEnd → Nat
  | .done => 0 | .violation => 1 | .off => 2 | .locked => 3 | .bad => 4

/-- An access recorded: the count, the place and the status bit (R348, R356, R357, R368). -/
def Chip.recordAccess (c : Chip) (count place : Nat) (bit : Fld) (event : Nat) (m : Master) (t : Target) (write : Bool) : Chip :=
  let c := c.setReg count (BitVec.ofNat 32 (min (2 ^ 32 - 1) ((c.reg count).toNat + 1)))
  let sh := t.shadow || (write && t.staged)
  let w := m.code * 2 ^ 29 + b2n write * 2 ^ 28 + b2n t.userView * 2 ^ 27 + t.row.mark.code * 2 ^ 25 + b2n sh * 2 ^ 24 + t.full
  ((c.setReg place (BitVec.ofNat 32 w)).raise bit).pulse 22 event none 1

/-- What the management SPI target shows of an access of its own (R341). -/
def Chip.showMgt (c : Chip) (m : Master) (viol : Bool) : Chip :=
  if m ≠ .mgt then c
  else
    let c := c.putB MGT_STATUS_VIOL viol
    if viol then c.raise MGT_ALARM_VIOL else c

/-- The ending of Table 14.1 for an access to a block that is off, beside the data 0: a bus error in the firmware, or a Completer
Abort of a read. -/
def Chip.offEnd (c : Chip) (m : Master) (t : Target) (write : Bool) : Chip :=
  match m with
  | .pair0 => c.emit (.accessError m.code t.full)
  | .pair1 => c.emit (.accessError m.code t.full)
  | .bar0 => if write then c else c.emit (.accessError m.code t.full)
  | .bar1 => if write then c else c.emit (.accessError m.code t.full)
  | _ => c

/-- An access judged: under R348, then R356, then R357, the first that applies recording it. It answers the register where the
access goes on; where none lies, or recovery mode hides it, the access ends without effect (R11, R322). -/
def Chip.judgeAccess (c : Chip) (m : Master) (a : Nat) (write : Bool) : Chip × AccessEnd × Option Target :=
  if !c.reaches m then (c, .done, none) else
  let c := c.pulse 22 0 none 1
  match target a with
  | none => (c.showMgt m false, .done, none)
  | some t =>
    if m == .mgt && c.boot.recovery && !recoveryReach t.reg then (c.showMgt m false, .done, none)
    else if c.violates m t write then
      ((c.recordAccess TOP_ACC_VIOL_COUNT TOP_ACC_VIOL_ADDR TOP_ACC_STATUS_ACC_VIOL 1 m t write).showMgt m true, .violation, none)
    else if write && c.barred t then
      ((c.recordAccess TOP_LOCK_VIOL_COUNT TOP_LOCK_VIOL_ADDR TOP_ACC_STATUS_LOCK_VIOL 3 m t write).showMgt m false, .locked, none)
    else if !(t.shadow || (write && t.staged)) && c.isOff t then
      (((c.recordAccess TOP_ACC_OFF_COUNT TOP_ACC_OFF_ADDR TOP_ACC_STATUS_ACC_OFF 2 m t write).offEnd m t write).showMgt m false, .off, none)
    else (c.showMgt m false, .done, some t)

/-! ## 64-bit pairs (R351, R363) -/

/-- The key of a master's latch and hold in a block. -/
def pairKey (m : Master) (a : Nat) : Nat := 256 * m.code + a / 65536 % 256

/-- The LO address of a pair. -/
def Target.low (t : Target) : Nat := if t.row.pair = .hi then t.reg - 4 else t.reg

/-- The pairs marked U that are no counters. -/
def plainPairs : List Nat :=
  [LPx_SLEEP_WAKE_LO .a, LPx_SERIAL_LO .a, CFG_LAST_FN_LO, CFG_PEND_LO 0, NTU_CAP_FN_LO, NTU_CAP_SEC_LO, TAL_SNAP_FN_LO]

/-- Whether a pair is a counter. -/
def Target.isCounter (t : Target) : Bool :=
  t.row.pair != .none && t.row.mark == .u && !plainPairs.contains (if t.row.pair = .hi then t.row.addr - 4 else t.row.addr)

/-- Whether a master's VIEW is 1 (R363). -/
def Chip.views (c : Chip) (m : Master) : Bool := c.isOn 48 && bitOf c.tal.views m.code

/-- The present value of a pair as a master sees it. -/
def Chip.pairSeen (o : Otp) (c : Chip) (m : Master) (t : Target) : Nat :=
  if t.isCounter then (if c.views m then (Map.get 0 c.copies t.low).toNat else (c.ctr t.low).toNat)
  else if t.low = LPx_SERIAL_LO .a || t.low = LPx_SERIAL_LO .b then o.serial % 2 ^ 64
  else c.pair t.low

/-- A read of one word of a pair (R351). -/
def Chip.pairRead (o : Otp) (c : Chip) (m : Master) (t : Target) : Chip × Word :=
  let v := c.pairSeen o m t
  let k := pairKey m t.reg
  if t.row.pair = .hi then (c, (Map.get none c.latch k).getD (BitVec.ofNat 32 (v / 2 ^ 32)))
  else ({ c with latch := Map.set none c.latch k (some (BitVec.ofNat 32 (v / 2 ^ 32))) }, BitVec.ofNat 32 v)

/-! ## What a read shows -/

/-- The carriage slots that hold a key (R145). -/
def Chip.carriageKeys (c : Chip) : Nat :=
  (List.range 4095).foldl (fun n f => n + b2n (c.carriageKeyAt .a f 0).isSome + b2n (c.carriageKeyAt .a f 1).isSome +
    b2n (c.carriageKeyAt .b f 0).isSome + b2n (c.carriageKeyAt .b f 1).isSome) 0

/-- The GPIO bits whose ball is given to GPIO (Table 17.9, R422). -/
def Chip.gpioBalls (c : Chip) : Nat :=
  (List.range 4).foldl (fun v k => if bitOf (c.f TOP_PINMUX_TRIB_GPIO) k then v + 15 * 16 ^ k else v) 0 +
    (if c.flag TOP_PINMUX_NVM_GPIO then 15 * 2 ^ 16 else 0) + (if c.flag TOP_PINMUX_PPS_GPIO then 2 ^ 20 else 0)

/-- TOP_GPIO_IN (R422): an output shows what it drives, an input its ball's level. -/
def Chip.gpioIn (c : Chip) : Nat :=
  let out := c.f TOP_GPIO_OUT_OUT
  let dir := c.f TOP_GPIO_DIR_DIR
  let level := Config.gpioLevel c.now
  (List.range 21).foldl (fun v g => if bitOf c.gpioBalls g && (if bitOf dir g then bitOf out g else bitOf level g) then v + 2 ^ g else v) 0

/-- CFG_OTP_STATUS (R341): the fuses show once start-up has read them (Table 13.2). -/
def Chip.otpStatus (o : Otp) (c : Chip) : Nat :=
  if !c.boot.otpRead then c.f CFG_OTP_STATUS_OTP_ERR * 2 ^ 31
  else c.f CFG_OTP_STATUS_OTP_ERR * 2 ^ 31 + b2n o.bound * 2 ^ 30 + o.lifecycle % 4 * 2 ^ 14 + o.cfgFloor % 64 * 2 ^ 8 + o.fwFloor % 64

/-- ITM_REACT as it reads: no class below its minimum (R388). -/
def Chip.reactWord (c : Chip) (m : Nat) : Nat :=
  (List.range (if m = 0 then 16 else 2)).foldl (fun v j => v + c.reaction (16 * m + j) * 4 ^ j) 0

/-- ITM_RST_CAUSE as it reads: COUNT is that of the last 600 s (R393). -/
def Chip.resetCause (c : Chip) : Word :=
  wordPut (c.reg ITM_RST_CAUSE) 0 4 (min 15 (c.itm.resets.filter fun t => decide (c.now < t + 600 * secCcy)).length)

/-- Registers of TOP, CFG, PWR and ITM that show state held elsewhere. -/
def Chip.shownPd00 (o : Otp) (c : Chip) (a : Nat) : Option Word :=
  let n := fun (v : Nat) => some (BitVec.ofNat 32 v)
  if a = TOP_PART_OPT then n (b2n o.hcs * 4 + o.grade % 4)
  else if a = TOP_INT_SUM then n c.interruptSummary
  else if a = TOP_GPIO_IN then n c.gpioIn
  else if a = CFG_STAGED then n c.stagedCount
  else if a = CFG_OTP_STATUS then n (c.otpStatus o)
  else if a = ITM_LOG_STATUS then n (c.itm.next * 2 ^ 24 + c.itm.uncopied * 2 ^ 8)
  else if a = ITM_REACT 0 then n (c.reactWord 0)
  else if a = ITM_REACT 1 then n (c.reactWord 1)
  else if a = ITM_RST_CAUSE then some c.resetCause
  else if (List.range 50).any fun d => neverDown d && a == PWR_DOM d then n 2
  else none

/-- Registers of the traffic blocks that show state held elsewhere. -/
def Chip.shownBlock (c : Chip) (a : Nat) : Option Word :=
  let n := fun (v : Nat) => some (BitVec.ofNat 32 v)
  let tx := fun (x : Line) => some (wordPut (c.reg (LNx_TX_STATUS x)) 1 1 (b2n (c.ldoff x)))
  let ber := fun (x : Line) => some (wordPut (wordPut (c.reg (LNx_BER_CFG x)) 4 4 (max 3 (min 5 (c.f (LNx_BER_CFG_SF_EXP x))))) 0 4 (max 5 (min 9 (c.f (LNx_BER_CFG_SD_EXP x)))))
  if a = LNx_TX_STATUS .a then tx .a
  else if a = LNx_TX_STATUS .b then tx .b
  else if a = LNx_BER_CFG .a then ber .a
  else if a = LNx_BER_CFG .b then ber .b
  else if a = CAR_STATUS then n (c.lineB.contexts.length * 2 ^ 16 + c.lineA.contexts.length)
  else if a = SRT_FRAG_STATUS then n c.sorter.frags.length
  else if a = COP_STATUS then n ((List.range 8).foldl (fun v b => if Map.get 0 c.cooper.cells b = 0 then v else v + 2 ^ (18 + b)) 0 + c.freeCells)
  else if a = COP_SHARED then n c.freeShared
  else if a = DRV_STATUS then n ((c.tabKeys 3).filter fun q => entryValid (c.tab 3 q) && c.isExpress q).length
  else none

/-- Registers of the host interface, the cipher and the key store that show state held elsewhere. -/
def Chip.shownHost (o : Otp) (c : Chip) (a : Nat) : Option Word :=
  let n := fun (v : Nat) => some (BitVec.ofNat 32 v)
  if a = HST_PCI_ID then n (0x9640 * 2 ^ 16 + o.vendorId % 2 ^ 16)
  else if a = CPH_STATUS then n (b2n o.hcs * 2 ^ 31)
  else if a = KEY_STATUS then some (c.keyStatus c.carriageKeys)
  else if a = KEY_IMPORT_CNT then n c.keys.imports
  else if o.hcs && (List.range 16).any fun q => a == CPH_Q_CFG q then some (wordPut (c.reg a) 31 1 0)
  else none

/-- TAL_SNAP_VIEW and the latched words of a sample record, as a master reads them (R363, R364). -/
def Chip.shownTal (c : Chip) (m : Master) (a : Nat) : Option Word :=
  let rec_ : SampleRec := Map.get {} c.tal.latched m.code
  if a = TAL_SNAP_VIEW then some (BitVec.ofNat 32 (b2n (bitOf c.tal.views m.code)))
  else if a = TAL_SMP_W1 then some rec_.w1
  else if a = TAL_SMP_W2 then some rec_.w2
  else if a = TAL_SMP_W3 then some rec_.w3
  else none

/-- A transmit timestamp's register: its port, and which word (R236). -/
def stampReg (a : Nat) : Option (Nat × Nat) :=
  if a / 65536 = 24 ∨ a / 65536 = 25 then
    ((List.range 20).find? fun n => ETH_TSQ_W0 n ≤ a && a ≤ ETH_TSQ_W0 n + 8).map fun n => (n, (a - ETH_TSQ_W0 n) / 4)
  else none

/-- The value of a register that is no part of a pair, as a master reads it, with what the read does (R236, R316, R364). -/
def Chip.readReg (o : Otp) (c : Chip) (m : Master) (a : Nat) : Chip × Word :=
  if a = TAL_SMP_W0 then c.takeSample m.code
  else if a = KEY_BUF_DATA then c.keyBufRead
  else match stampReg a with
    | some (n, 0) => c.takeStamp m.code n
    | some (n, k) => (c, c.stampWord m.code n (k == 2))
    | none => (c, ((((c.shownPd00 o a).orElse fun _ => c.shownBlock a).orElse fun _ => c.shownHost o a).orElse fun _ => c.shownTal m a).getD (c.reg a))

/-! ## Writes merged -/

/-- A register word after a write of the bits of `k`: RW, MW, PW and WO bits take the written value, W1C bits written 1 clear,
SC bits are not stored (R7). -/
def RegRow.merged (r : RegRow) (old v : Word) (k : Nat) : Word :=
  let w1c := r.mask fun x => x == .w1c
  let rw := r.mask fun x => x == .rw || x == .mw || x == .pw || x == .wo
  mergeBits (old &&& ~~~(v &&& BitVec.ofNat 32 (w1c &&& k))) v (rw &&& k)

/-- The word that a read of a register shows while its posted write is in transfer (R353); NVM_CMD then reads DONE 0. -/
def Posted.seen (p : Posted) (r : RegRow) (old : Word) : Word :=
  let w := r.merged old p.data p.bits
  if p.addr = NVM_CMD && wordBits p.data 31 1 = 1 then wordPut w 30 1 0 else w

/-- The value a read that was let through returns, and what the read does. -/
def Chip.readTarget (o : Otp) (c : Chip) (m : Master) (t : Target) : Chip × Word :=
  if t.shadow then (c, if t.row.name == "PWR_DOMn" && neverDown (t.idx.headD 0) then 2 else c.shadow t.reg)
  else if t.row.pair ≠ .none then c.pairRead o m t
  else match c.posted.find? fun p => p.addr == t.reg with
    | some p => (c, p.seen t.row (c.reg t.reg))
    | none => c.readReg o m t.reg

/-- A read by a master: its data, 0 where it is refused or nothing lies there, and how it ends (R346, R348, R357). -/
def Chip.readAccess (o : Otp) (c : Chip) (m : Master) (a : Nat) : Chip × Word × AccessEnd :=
  let j := c.judgeAccess m a false
  match j.2.2 with
  | none => (j.1, 0, j.2.1)
  | some t => let r := j.1.readTarget o m t; (r.1, r.2, .done)

end Sys2Proof.Machine
end

