-- ==== Sys2Proof/Machine/Effects.lean ====
section
/-! DEFINITION. What a write to a register does: the action it starts, posted writes, pairs, and the store of class C values
(spec/14_registers_and_counters.md, R349 to R358, and the register sections of every chapter). -/

namespace Sys2Proof.Machine
open Sys2Proof

/-! ## What the command knows beside the bus -/

/-- What a write's outcome rests on beside the terminal's state, where the command tells it: whether an OTP program succeeds
(R331), whether a Porter's ball and lane have been idle for 1 ms and its checks passed (R397). What the command does not tell is
a free value. -/
structure Probe where
  programmed : Option Bool := none
  pinIdle : Option Bool := none
  checkOk : Option Bool := none
  deriving DecidableEq, Repr

/-- A condition that the command may leave open. -/
def Chip.learn (c : Chip) (b : Option Bool) : Chip × Bool :=
  match b with
  | some b => (c, b)
  | none => let r := c.free; (r.1, r.2 % 2 == 1)

/-! ## Actions of single registers -/

/-- TOP_I2Cm_CMD.GO (R423): a transaction starts, with the bytes it sends. -/
def Chip.i2cStart (c : Chip) (k : Nat) : Chip :=
  let rd := c.flag (TOP_I2C_CMD_RD k)
  let len := max 1 (min 4 (c.f (TOP_I2C_CMD_LEN k)))
  let dev := 2 * c.f (TOP_I2C_CMD_DEV k)
  let bs := beBytes 1 dev ++ beBytes 1 (c.f (TOP_I2C_CMD_REG k)) ++ (if rd then beBytes 1 (dev + 1) else (beBytes 4 (c.f (TOP_I2C_DATA_DATA k))).take len)
  let c := ((c.lower (TOP_I2C_CMD_DONE k)).put (TOP_I2C_CMD_ERR k) 0).emit (.i2c k bs)
  { c with i2c := Map.set 0 c.i2c k (if rd then 2 else 1) }

/-- Whether an MDIO frame reads, by CL45 and OP (R237, R238). -/
def Chip.mdioReads (c : Chip) (k : Nat) : Bool :=
  if c.flag (ETH_MDIO_CMD_CL45 k) then decide (2 ≤ c.f (ETH_MDIO_CMD_OP k)) else c.f (ETH_MDIO_CMD_OP k) == 2

/-- ETH_MDIOm_CMD.GO (R237): a frame starts. -/
def Chip.mdioStart (c : Chip) (k : Nat) : Chip :=
  let c := (c.lower (ETH_MDIO_CMD_DONE k)).put (ETH_MDIO_CMD_ERR k) 0
  let c := c.emit (.mdio k (c.reg (ETH_MDIO_CMD k)) (c.reg (ETH_MDIO_DATA k)))
  { c with mdio := Map.set none c.mdio k (some (c.mdioReads k)) }

/-- PWR_REQ.GO (R375, R377). -/
def Chip.powerCommand (c : Chip) : Chip :=
  let c := { c.lower PWR_REQ_STATUS_DONE with power := { c.power with reqs := c.power.reqs + 1 } }
  match c.f PWR_REQ_KIND with
  | 0 => c.powerRequest .register [{ dom := c.f PWR_REQ_DOMAIN, target := c.f PWR_REQ_TARGET }]
  | 1 => c.listenEnter .register (c.f PWR_REQ_GROUP)
  | 2 => c.listenLeave .register (c.f PWR_REQ_GROUP)
  | _ => c.powerResult .register c.power.reqs [] 0 5

/-- ETH_WK_ADDR.GO (R238): a word of the pattern store staged, or read; a WORD above 17 is ignored. -/
def Chip.wakeAccess (c : Chip) : Chip :=
  let port := c.f ETH_WK_ADDR_PORT
  let word := c.f ETH_WK_ADDR_WORD
  let k := wakeIndex port (c.f ETH_WK_ADDR_PATTERN) word
  let c := c.raise ETH_WK_ADDR_DONE
  if 17 < word || 19 < port then c
  else if c.flag ETH_WK_ADDR_WRITE then c.stageTab 9 k (c.f ETH_WK_DATA_DATA)
  else c.setReg ETH_WK_DATA (BitVec.ofNat 32 (c.tab 9 k))

/-- SRT_TBL_ADDR.GO (R181): the access that WRITE and TABLE name; a fragment entry cannot be written. -/
def Chip.srtAccess (c : Chip) : Chip :=
  let i := c.f SRT_TBL_ADDR_INDEX
  let c := c.put SRT_TBL_ADDR_ERR 0
  match c.f SRT_TBL_ADDR_TABLE, c.flag SRT_TBL_ADDR_WRITE with
  | 0, true => c.ruleWrite i
  | 0, false => c.ruleRead i
  | 1, false => c.fragRead i
  | 2, true => c.actionClear i
  | 2, false => c.actionRead i
  | _, _ => c.srtDone 3

/-- The data registers of a window as they stand. -/
def Chip.dataWords (c : Chip) (base n : Nat) : List Word := (List.range n).map fun k => c.reg (base + 4 * k)

/-- COP_Q_ADDR.GO (R207). -/
def Chip.copAccess (c : Chip) : Chip :=
  let q := c.f COP_Q_ADDR_QID
  if c.flag COP_Q_ADDR_WRITE then c.queueWrite q (c.dataWords (COP_Q_DATA 0) 2) else c.queueRead q (c.flag COP_Q_ADDR_CLR)

/-- TOL_TBL_ADDR.GO (R207). -/
def Chip.tolAccess (c : Chip) : Chip :=
  let i := c.f TOL_TBL_ADDR_INDEX
  match c.f TOL_TBL_ADDR_TABLE, c.flag TOL_TBL_ADDR_WRITE with
  | 0, true => c.meterWrite i (c.dataWords (TOL_TBL_DATA 0) 5)
  | 0, false => c.meterRead i
  | _, true => c.meterClear i
  | _, false => c.meterCounters i

/-- DRV_TBL_ADDR.GO (R207). -/
def Chip.drvAccess (c : Chip) : Chip :=
  let t := c.f DRV_TBL_ADDR_TABLE
  let i := c.f DRV_TBL_ADDR_INDEX
  if c.flag DRV_TBL_ADDR_WRITE then c.schedWrite t i (c.dataWords (DRV_TBL_DATA 0) 5) else c.schedRead t i

/-- CAR_FT_ADDR.GO (R143). -/
def Chip.carAccess (c : Chip) : Chip :=
  if c.flag CAR_FT_ADDR_WRITE then c.flowWrite (c.f CAR_FT_ADDR_FLOW) (c.reg CAR_FT_DATA) else c.flowRead (c.f CAR_FT_ADDR_FLOW)

/-- TSI_CM_ADDR.GO (R261, R264). -/
def Chip.cmAccess (c : Chip) : Chip :=
  let i := c.f TSI_CM_ADDR_INDEX
  match c.f TSI_CM_ADDR_TABLE, c.flag TSI_CM_ADDR_WRITE with
  | 0, true => c.cmStandbyWrite i (c.reg TSI_CM_DATA).toNat
  | 1, true => c.cmActiveWrite i
  | 2, w => c.cmMonitor w i
  | 3, w => c.cmAddr w 3 i 3
  | t, _ => c.cmRead t i

/-- CFG_OBJ_CTRL as written (R337): START first, then END. -/
def Chip.objectControl (c : Chip) (v : Word) : Chip :=
  let c := if wordBits v 31 1 = 1 then c.objectStart else c
  if wordBits v 30 1 = 1 then c.objectEnd else c

/-- CFG_CTRL as written (R333, R336). DESIGN CHOICE (assumption 58): a cancellation comes before a discard in the same write. -/
def Chip.configControl (c : Chip) (v : Word) : Chip :=
  let c := if wordBits v 1 1 = 1 then c.cancelCommits else c
  if wordBits v 0 1 = 1 then c.discardStaged else c

/-- ITM_PTRx_CTRL.CLR (R397). -/
def Chip.porterControl (e : Probe) (c : Chip) (x : Line) : Chip :=
  let p := c.learn e.pinIdle
  let q := p.1.learn e.checkOk
  q.1.porterClear x p.2 q.2

/-- TAL_SNAP_VIEW as written: the master's own bit (R363). -/
def Chip.viewWritten (c : Chip) (m : Master) (b : Bool) : Chip := { c with tal := { c.tal with views := natPut c.tal.views m.code 1 (b2n b) } }

/-- The equaliser register at an address: its line and place. -/
def eqReg (a : Nat) : Option (Line × Nat) :=
  if a / 65536 = 8 then ((List.range 16).find? fun k => eqAddr .a k == a).map fun k => (.a, k)
  else if a / 65536 = 10 then ((List.range 16).find? fun k => eqAddr .b k == a).map fun k => (.b, k)
  else none

/-- The ring or cipher queue whose CFG register lies at an address, by its doorbell page. -/
def cfgRing (a : Nat) : Option Nat :=
  if a / 65536 = 32 ∨ a / 65536 = 34 then (List.range 48).find? fun p => ringCfg p == a else none

/-! ## A write that was let through -/

/-- Whether a write is ignored because the access its register starts still runs (R358). DEDUCED (assumption 59): the terminal has
one such window, that of an I2C master; the other tables answer at once. -/
def Chip.windowBusy (c : Chip) (a : Nat) : Bool :=
  (List.range 2).any fun k => (a == TOP_I2C_CMD k || a == TOP_I2C_DATA k) && Map.get 0 c.i2c k != 0

/-- Whether a write starts an MDIO frame while one runs (R237). -/
def Chip.mdioBusy (c : Chip) (a : Nat) (v : Word) : Option Nat :=
  if wordBits v 31 1 = 1 then (List.range 2).find? fun k => a == ETH_MDIO_CMD k && (Map.get none c.mdio k).isSome else none

/-- Whether a register's write has its whole effect in the action, and no word of it is merged. -/
def ownsWrite (a : Nat) : Bool := a == TAL_SNAP_VIEW || a == KEY_BUF_DATA || (eqReg a).isSome

/-- The action of a write to a register of PD00 or of the monitor; `v` is the word written, `old` what stood there. -/
def Chip.actPd00 (e : Probe) (o : Otp) (c : Chip) (m : Master) (a : Nat) (v : Word) : Chip × Otp :=
  let go := wordBits v 31 1 == 1
  if a = CFG_CTRL then (c.configControl v, o)
  else if a = CFG_ROOT_BIND then
    (if go then let p := c.learn e.programmed; p.1.rootBind o m p.2 else (c, o))
  else if a = CFG_SAVE then (if go then c.savePrepare else c, o)
  else if a = CFG_OBJ_CTRL then (c.objectControl v, o)
  else if a = CFG_OBJ_DATA then (c.objectData v, o)
  else if a = NVM_CMD then (if go then c.flashCommand m else c, o)
  else if a = PWR_REQ then (if go then c.powerCommand else c, o)
  else if a = ITM_SAFE then (if go then c.safeExit else c, o)
  else if a = ITM_WDOG_KICK then (c.kick (wordBits v 0 2), o)
  else if a = ITM_LOG_ADDR then (if go then c.logRead (c.f ITM_LOG_ADDR_INDEX) else c, o)
  else if a = ITM_PTR_CTRL .a then (if wordBits v 0 1 = 1 then c.porterControl e .a else c, o)
  else if a = ITM_PTR_CTRL .b then (if wordBits v 0 1 = 1 then c.porterControl e .b else c, o)
  else if a = TOP_I2C_CMD 0 then (if go then c.i2cStart 0 else c, o)
  else if a = TOP_I2C_CMD 1 then (if go then c.i2cStart 1 else c, o)
  else if a = ETH_MDIO_CMD 0 then (if go then c.mdioStart 0 else c, o)
  else if a = ETH_MDIO_CMD 1 then (if go then c.mdioStart 1 else c, o)
  else if a = ETH_WK_ADDR then (if go then c.wakeAccess else c, o)
  else (c, o)

/-- The action of a write to a register of the traffic blocks, time, counters, host interface and key store. -/
def Chip.actBlock (o : Otp) (c : Chip) (m : Master) (a : Nat) (old v : Word) : Chip :=
  let go := wordBits v 31 1 == 1
  if a = TWE_FLOW_ADDR then (if go then c.readMergeState (c.f TWE_FLOW_ADDR_FLOW) else c)
  else if a = CAR_FT_ADDR then (if go then c.carAccess else c)
  else if a = SRT_TBL_ADDR then (if go then c.srtAccess else c)
  else if a = COP_Q_ADDR then (if go then c.copAccess else c)
  else if a = TOL_TBL_ADDR then (if go then c.tolAccess else c)
  else if a = DRV_TBL_ADDR then (if go then c.drvAccess else c)
  else if a = TSI_CTRL then (if wordBits v 0 1 = 1 then c.cmCopy else c)
  else if a = TSI_CM_ADDR then (if go then c.cmAccess else c)
  else if a = NTU_CAP then (if wordBits v 0 1 = 1 then c.ntCapture else c)
  else if a = NTU_TBL_ADDR then (if go then c.ntuAccess (c.flag NTU_TBL_ADDR_WRITE) (c.f NTU_TBL_ADDR_TABLE) (c.f NTU_TBL_ADDR_INDEX) else c)
  else if a = TAL_CTRL then c.talControl v
  else if a = TAL_SNAP_VIEW then c.viewWritten m (wordBits v 0 1 == 1)
  else if a = KEY_CMD then (if go then c.keyCommand o else c)
  else if a = KEY_BUF_DATA then c.keyBufWrite v
  else match eqReg a, cfgRing a with
    | some (x, k), _ => c.eqTaken x k v
    | none, some p => c.ringConfig p old
    | none, none => c

/-- CPH_Qn_CFG.EN stays 0 where the host cipher service is fused off (R307). -/
def fusedOff (o : Otp) (a : Nat) (w : Word) : Word := if o.hcs && (List.range 16).any (fun q => a == CPH_Q_CFG q) then wordPut w 31 1 0 else w

/-- The interrupt summary bit of a page of the register map (Table 1.6). -/
def summaryOf (a : Nat) : Option Nat :=
  match a / 65536 with
  | 0 => some 0 | 1 => some 1 | 2 => some 2 | 3 => some 3 | 4 => some 4 | 5 => some 5 | 6 => some 6 | 7 => some 6
  | 8 => some 7 | 9 => some 8 | 10 => some 9 | 11 => some 10 | 12 => some 11 | 13 => some 12 | 16 => some 13
  | 20 => some 14 | 21 => some 15 | 22 => some 16 | 24 => some 17 | 25 => some 17 | 26 => some 18 | 28 => some 19
  | 29 => some 20 | 30 => some 21 | 31 => some 21 | 32 => some 22 | 33 => some 23 | 34 => some 24 | 35 => some 25
  | 36 => some 26 | 37 => some 27 | _ => none

/-- A write to a W1C status register that leaves an enabled bit of its block set sends the block's message (R23). DEDUCED
(assumption 60): the bits of the whole block are meant. -/
def Chip.afterClear (c : Chip) (r : RegRow) (a : Nat) : Chip :=
  match if (r.mask fun x => x == .w1c) = 0 then none else summaryOf a with
  | some k => if c.summaryLine k then c.blockMessage k else c
  | none => c

/-- A class D register, no part of a pair, takes a write of the bits of `k` (R7, R9). -/
def Chip.writeReg (e : Probe) (o : Otp) (c : Chip) (m : Master) (r : RegRow) (a : Nat) (v : Word) (k : Nat) : Chip × Otp :=
  if c.windowBusy a then (c, o)
  else match c.mdioBusy a v with
    | some i => (c.put (ETH_MDIO_CMD_ERR i) 1, o)
    | none =>
      let old := c.reg a
      let v := v &&& BitVec.ofNat 32 k
      let w := fusedOff o a (r.merged old v k)
      let c := if ownsWrite a then c else c.setReg a w
      let p := c.actPd00 e o m a v
      ((p.1.actBlock o m a old v).afterClear r a, p.2)

/-! ## Pairs (R351, R354) -/

/-- The low address bits that a base register is written without (R316). -/
def baseMask (a : Nat) : Nat :=
  if a = HST_TDM_BASE_LO then 1023
  else if a / 65536 = 32 ∨ a / 65536 = 34 then 63
  else 0

/-- Whether a pair can be written. -/
def Target.writablePair (t : Target) : Bool := (t.row.mask fun x => x == .rw) != 0

/-- A pair takes a value; a write of CFG_COMMIT requests a commit (R334). -/
def Chip.setPairTo (c : Chip) (t : Target) (v : Nat) : Chip :=
  if t.isCounter then c.setCtr t.low (BitVec.ofNat 64 v)
  else
    let c := c.setPair t.low (v - v % (baseMask t.low + 1))
    if t.low = CFG_COMMIT_LO then c.commitWritten else c

/-- A write of one word of a pair. The high word goes in with the low word that the master holds, or with the present one. -/
def Chip.pairWrite (c : Chip) (m : Master) (t : Target) (v : Word) : Chip :=
  let k := pairKey m t.reg
  if !t.writablePair then c
  else if t.row.pair ≠ .hi then { c with hold := Map.set none c.hold k (some v) }
  else
    let present := if t.isCounter then (c.ctr t.low).toNat else c.pair t.low
    let low := ((Map.get none c.hold k).map BitVec.toNat).getD (present % 2 ^ 32)
    let high := mergeBits 0 v (t.row.mask fun x => x == .rw)
    ({ c with hold := Map.set none c.hold k none }).setPairTo t (high.toNat * 2 ^ 32 + low)

/-! ## Posted writes (R352, R353) -/

/-- The slow window that a write to a class D register goes through (Table 14.2). -/
def windowOf (r : RegRow) (a : Nat) : Option PostedWindow :=
  let takes := (r.mask fun x => x == .rw || x == .pw || x == .w1c || x == .sc) != 0
  match a / 65536 with
  | 2 => if takes && a != PWR_PW_STATUS then some .power else none
  | 1 => if a = CFG_OBJ_DATA then some .nvm else none
  | 36 => if a = NVM_ADDR || a = NVM_DATA || a = NVM_CMD then some .nvm else none
  | 24 => if a = ETH_WK_ADDR || a = ETH_WK_DATA then some .wake else none
  | 8 => if (eqReg a).isSome then some (.line .a) else none
  | 10 => if (eqReg a).isSome then some (.line .b) else none
  | 26 => ((List.range 24).find? fun n => a == SDS_LANE_TXEQ n).map .lane
  | 28 => if a = TDM_PW_STATUS 0 || a = TDM_PW_STATUS 1 || !takes then none else some (.trib ((a - TDM_CTRL 0) / (16 * (TDM_CTRL 1 - TDM_CTRL 0))))
  | _ => none

/-- A window's BUSY and WR_DROP bits. -/
def PostedWindow.busy : PostedWindow → Fld
  | .power => PWR_PW_STATUS_BUSY
  | .wake => ETH_WK_PW_STATUS_BUSY
  | .line x => LNx_PW_STATUS_BUSY x
  | .lane n => SDS_LANE_PW_STATUS_BUSY n
  | .trib m => TDM_PW_STATUS_BUSY m
  | .nvm => NVM_PW_STATUS_BUSY

def PostedWindow.drop : PostedWindow → Fld
  | .power => PWR_PW_STATUS_WR_DROP
  | .wake => ETH_WK_PW_STATUS_WR_DROP
  | .line x => LNx_PW_STATUS_WR_DROP x
  | .lane n => SDS_LANE_PW_STATUS_WR_DROP n
  | .trib m => TDM_PW_STATUS_WR_DROP m
  | .nvm => NVM_PW_STATUS_WR_DROP

/-- A write handed to a slow window, or discarded while the window is busy. -/
def Chip.postWrite (c : Chip) (w : PostedWindow) (m : Master) (a : Nat) (v : Word) (k : Nat) : Chip :=
  if c.flag w.busy then (c.raise w.drop).pulse 22 4 none 1
  else { c.raise w.busy with posted := c.posted ++ [{ window := w, master := m, addr := a, data := v, bits := k }] }

/-- The slow domain of a window takes the write in transfer, and BUSY falls, but for a flash command that then runs (Table 14.2). A
write whose domain has left ON is lost (R353, R357). -/
def Chip.takePosted (e : Probe) (o : Otp) (c : Chip) (w : PostedWindow) : Chip × Otp :=
  match c.posted.find? fun p => p.window == w with
  | none => (c, o)
  | some p =>
    let c := { c.lower w.busy with posted := c.posted.filter fun q => q.window != w }
    match target p.addr with
    | none => (c, o)
    | some t => if c.isOff t then (c, o) else c.writeReg e o p.master t.row p.addr p.data p.bits

/-! ## Writes -/

/-- A class C register's shadow takes a write of the bits of `k` (R9, R333); where PWR_DOMn is fixed, nothing is written (R385). -/
def Chip.writeShadow (c : Chip) (t : Target) (v : Word) (k : Nat) : Chip :=
  if t.row.name == "PWR_DOMn" && neverDown (t.idx.headD 0) then c
  else
    let c := if t.reg = TOP_LOCK then { c with lockWritten := true } else c
    c.stageReg t.reg (mergeBits (c.shadow t.reg) v k)

/-- A write that was let through: to a shadow, a pair, a slow window, or the register itself. -/
def Chip.writeTarget (e : Probe) (o : Otp) (c : Chip) (m : Master) (t : Target) (v : Word) (k : Nat) : Chip × Otp :=
  if t.staged then (c.writeShadow t v k, o)
  else if t.row.pair ≠ .none then (c.pairWrite m t v, o)
  else match windowOf t.row t.reg with
    | some w => (c.postWrite w m t.reg v k, o)
    | none => c.writeReg e o m t.row t.reg v k

/-- Every bit of a word. -/
def allBits : Nat := 0xFFFFFFFF

/-- A write by a master of the bits of `k`, and how it ends (R346, R348, R356, R357). -/
def Chip.writeAccess (e : Probe) (o : Otp) (c : Chip) (m : Master) (a : Nat) (v : Word) (k : Nat) : (Chip × Otp) × AccessEnd :=
  let j := c.judgeAccess m a true
  match j.2.2 with
  | none => ((j.1, o), j.2.1)
  | some t => (j.1.writeTarget e o m t v k, .done)

/-- A plain 32-bit write. -/
def Chip.write (e : Probe) (o : Otp) (c : Chip) (m : Master) (a : Nat) (v : Nat) : Chip × Otp := (c.writeAccess e o m a (BitVec.ofNat 32 v) allBits).1

/-- Writes made one after the other. -/
def Chip.writes (e : Probe) (m : Master) (ws : List (Nat × Nat)) (o : Otp) (c : Chip) : Chip × Otp :=
  ws.foldl (fun s w => s.1.write e s.2 m w.1 w.2) (c, o)

/-- A write to a slow window that is taken before anything else happens; one that the window discards is not. -/
def Chip.writeThrough (e : Probe) (o : Otp) (c : Chip) (m : Master) (w : PostedWindow) (a v : Nat) : Chip × Otp :=
  let free := !c.flag w.busy
  let r := c.write e o m a v
  if free then r.1.takePosted e r.2 w else r

/-- Writes through a slow window made one after the other. -/
def Chip.writesThrough (e : Probe) (m : Master) (w : PostedWindow) (ws : List (Nat × Nat)) (o : Otp) (c : Chip) : Chip × Otp :=
  ws.foldl (fun s k => s.1.writeThrough e s.2 m w k.1 k.2) (c, o)

/-- A read whose data goes back to the master. -/
def Chip.readOut (o : Otp) (c : Chip) (m : Master) (a : Nat) : Chip :=
  let r := c.readAccess o m a
  if c.reaches m then r.1.emit (.readData m.code a r.2.1) else r.1

end Sys2Proof.Machine
end

