-- ==== Sys2Proof/Machine/Registers.lean ====
section
/-! DEFINITION. The register commands: plain, masked, shadow, paired and posted accesses, the configuration engine's registers, the
management SPI target and the head ends' REG_ACCESS (spec/14_registers_and_counters.md; spec/13_boot_and_configuration.md). -/

namespace Sys2Proof.Machine
open Sys2Proof

/-! ## Plain accesses -/

/-- REGISTER_WRITE (R348): a write judged, and taken by each field's access code. -/
def execRegisterWrite (m : Master) (a : Nat) (v : Word) (s : State) : Out := runFuse s fun o c => (c.writeAccess {} o m a v allBits).1

/-- W1C_WRITE (R23): ones clear status bits; a message follows when an enabled bit is left set. -/
def execW1cWrite (m : Master) (a : Nat) (v : Word) (s : State) : Out := runFuse s fun o c => (c.writeAccess {} o m a v allBits).1

/-- MASKED_WRITE (R350): of the data bits [15:0], those whose mask bit is 1. -/
def execMaskedWrite (m : Master) (a : Nat) (mask data : BitVec 16) (s : State) : Out := runFuse s fun o c =>
  (c.writeAccess {} o m a (BitVec.ofNat 32 data.toNat) mask.toNat).1

/-- SHADOW_WRITE (R333). -/
def execShadowWrite (m : Master) (a : Nat) (v : Word) (s : State) : Out := runFuse s fun o c => (c.writeAccess {} o m a v allBits).1

/-- PAIR_LO_READ (R351). -/
def execPairLoRead (m : Master) (a : Nat) (s : State) : Out := runO s fun o c => c.readOut o m a

/-- PAIR_HI_READ (R351). -/
def execPairHiRead (m : Master) (a : Nat) (s : State) : Out := runO s fun o c => c.readOut o m a

/-- PAIR_LO_WRITE (R351). -/
def execPairLoWrite (m : Master) (a : Nat) (v : Word) (s : State) : Out := runFuse s fun o c => (c.writeAccess {} o m a v allBits).1

/-- PAIR_HI_WRITE (R351). -/
def execPairHiWrite (m : Master) (a : Nat) (v : Word) (s : State) : Out := runFuse s fun o c => (c.writeAccess {} o m a v allBits).1

/-- POSTED_WRITE (R352). -/
def execPostedWrite (m : Master) (a : Nat) (v : Word) (s : State) : Out := runFuse s fun o c => (c.writeAccess {} o m a v allBits).1

/-- POSTED_WRITE_TAKEN (R352). -/
def execPostedWriteTaken (w : PostedWindow) (s : State) : Out := runFuse s fun o c => c.takePosted {} o w

/-! ## The configuration engine -/

/-- COMMIT_REQUEST (R334): CFG_COMMIT_LO and then CFG_COMMIT_HI written. -/
def execCommitRequest (m : Master) (fn : BitVec 48) (next : Bool) (s : State) : Out := runFuse s fun o c =>
  Chip.writes {} m [(CFG_COMMIT_LO, fn.toNat % 2 ^ 32), (CFG_COMMIT_HI, b2n next * 2 ^ 31 + fn.toNat / 2 ^ 32)] o c

/-- COMMIT_CANCEL (R336). -/
def execCommitCancel (m : Master) (s : State) : Out := runFuse s fun o c => c.write {} o m CFG_CTRL 2

/-- STAGED_DISCARD (R333). -/
def execStagedDiscard (m : Master) (s : State) : Out := runFuse s fun o c => c.write {} o m CFG_CTRL 1

/-- ROOT_BIND (R331): CFG_ROOT_BIND.GO by a master; `programmed` tells whether the OTP program succeeds. -/
def execRootBind (m : Master) (programmed : Bool) (s : State) : Out := runFuse s fun o c =>
  c.write { programmed := some programmed } o m CFG_ROOT_BIND (2 ^ 31)

/-- OBJECT_START (R337). -/
def execObjectStart (m : Master) (type : BitVec 8) (size : BitVec 24) (s : State) : Out := runFuse s fun o c =>
  Chip.writes {} m [(CFG_OBJ_SIZE, size.toNat), (CFG_OBJ_CTRL, 2 ^ 31 + type.toNat)] o c

/-- OBJECT_END (R337): TYPE is written as it stands. -/
def execObjectEnd (m : Master) (s : State) : Out := runFuse s fun o c => c.write {} o m CFG_OBJ_CTRL (2 ^ 30 + c.f CFG_OBJ_CTRL_TYPE)

/-- SAVE_PREPARE (R339). -/
def execSavePrepare (m : Master) (rollback : BitVec 6) (version : Word) (s : State) : Out := runFuse s fun o c =>
  Chip.writes {} m [(CFG_SAVE_VER, version.toNat), (CFG_SAVE, 2 ^ 31 + rollback.toNat)] o c

/-! ## The flash (R341, R343) -/

/-- The words that start a flash command. -/
def nvmGo (op : Nat) : Nat := 2 ^ 31 + op * 2 ^ 24

/-- NVM_READ_WORD. -/
def execNvmReadWord (m : Master) (a : BitVec 28) (s : State) : Out := runFuse s fun o c =>
  Chip.writesThrough {} m .nvm [(NVM_ADDR, a.toNat), (NVM_CMD, nvmGo 1)] o c

/-- NVM_PROGRAM_WORD. -/
def execNvmProgramWord (m : Master) (a : BitVec 28) (v : Word) (s : State) : Out := runFuse s fun o c =>
  Chip.writesThrough {} m .nvm [(NVM_ADDR, a.toNat), (NVM_DATA, v.toNat), (NVM_CMD, nvmGo 2)] o c

/-- NVM_ERASE_SECTOR. -/
def execNvmEraseSector (m : Master) (a : BitVec 28) (s : State) : Out := runFuse s fun o c =>
  Chip.writesThrough {} m .nvm [(NVM_ADDR, a.toNat), (NVM_CMD, nvmGo 3)] o c

/-! ## The management SPI target (R340) -/

/-- MGT_WRITE: command 0x02. -/
def execMgtWrite (a : BitVec 24) (v : Word) (s : State) : Out := runFuse s fun o c =>
  let r := (c.writeAccess {} o .mgt a.toNat v allBits).1
  ({ r.1 with mgtWrote := true }, r.2)

/-- MGT_READ: command 0x0B: 0xA5 and the data, the most significant byte first. -/
def execMgtRead (a : BitVec 24) (s : State) : Out := runO s fun o c =>
  let r := c.readAccess o .mgt a.toNat
  r.1.emit (.spi (0xA5 :: beBytes 4 r.2.1.toNat))

/-- MGT_STATUS: command 0x05. -/
def execMgtStatus (s : State) : Out := run s fun c =>
  c.emit (.spi (beBytes 1 (b2n c.boot.recovery * 4 + c.f MGT_STATUS_VIOL * 2 + b2n c.mgtWrote)))

/-- MGT_BAD_COMMAND: a command byte that Table 13.11 does not list; the target drives 0xFF. -/
def execMgtBadCommand (cmd : BitVec 8) (s : State) : Out := run s fun c =>
  if cmd = 0x02 || cmd = 0x0B || cmd = 0x05 then c else (c.raise MGT_ALARM_CMD_ERR).emit (.spi [0xFF])

/-! ## The head ends (R346) -/

/-- A line's head-end channel. -/
def headOf : Line → Master
  | .a => .headA
  | .b => .headB

/-- One entry of a REG_ACCESS run by pair 1: its result and the value read. -/
def Chip.runEntry (o : Otp) (c : Chip) (x : Line) (e : RegEntry) : (Chip × Otp) × Nat × Nat :=
  if !(e.op == 1 || e.op == 2) || e.addr % 4 ≠ 0 then ((c, o), AccessEnd.bad.code, 0)
  else if e.op = 1 then let r := c.readAccess o (headOf x) e.addr; ((r.1, o), r.2.2.code, r.2.1.toNat)
  else let r := c.writeAccess {} o (headOf x) e.addr e.data allBits; (r.1, r.2.code, 0)

/-- The entries of a REG_ACCESS in order, and the bytes of their results. -/
def Chip.runEntries (x : Line) (es : List RegEntry) (o : Otp) (c : Chip) : (Chip × Otp) × List Byte :=
  es.foldl (fun r e => let t := r.1.1.runEntry r.1.2 x e; (t.1, r.2 ++ beBytes 1 t.2.1 ++ beBytes 4 t.2.2)) ((c, o), [])

/-- REG_ACCESS_RUN (R346): pair 1 runs the oldest message that waits on a line and answers it with one REG_REPLY. -/
def execRegAccessRun (x : Line) (s : State) : Out := runFuse s fun o c =>
  match (c.line x).regQueue with
  | [] => (c, o)
  | g :: rest =>
    if !c.reaches (headOf x) then (c, o) else
    let r := Chip.runEntries x g.entries o (c.modLine x fun l => { l with regQueue := rest })
    (r.1.1.sendMessage x 0x85 (beBytes 1 g.entries.length ++ beBytes 4 g.seq ++ fill 3 0 ++ r.2), r.1.2)

end Sys2Proof.Machine
end

