-- ==== Sys2Proof/Machine/Tables.lean ====
section
/-! DEFINITION. The commands that work a table window, a port's MDIO master or a ring: each is the writes that its chapter gives,
made in order by one master (R358). DESIGN CHOICE (assumption 59): an access through a window completes within the command. -/

namespace Sys2Proof.Machine
open Sys2Proof

/-- The word of a window's ADDR register that starts an access: GO, WRITE, TABLE in [28:27] and the index. -/
def goWord (write : Bool) (table index : Nat) : Nat := 2 ^ 31 + b2n write * 2 ^ 29 + table % 4 * 2 ^ 27 + index

/-- Data words for the registers from a base on. -/
def dataWrites (base : Nat) (n : Nat) (ws : List Word) : List (Nat × Nat) := (List.range n).map fun k => (base + 4 * k, (ws.getD k 0).toNat)

/-- A sequence of writes by one master. -/
def runWrites (m : Master) (ws : List (Nat × Nat)) (s : State) : Out := runFuse s fun o c => Chip.writes {} m ws o c

/-! ## Merge and flow tables -/

/-- MERGE_STATE_READ (R120). -/
def execMergeStateRead (m : Master) (flow : BitVec 12) (s : State) : Out := runWrites m [(TWE_FLOW_ADDR, 2 ^ 31 + flow.toNat)] s

/-- FLOW_TABLE_WRITE (R143). -/
def execFlowTableWrite (m : Master) (flow : BitVec 12) (entry : Word) (s : State) : Out :=
  runWrites m [(CAR_FT_DATA, entry.toNat), (CAR_FT_ADDR, goWord true 0 flow.toNat)] s

/-- FLOW_TABLE_READ (R143). -/
def execFlowTableRead (m : Master) (flow : BitVec 12) (s : State) : Out := runWrites m [(CAR_FT_ADDR, goWord false 0 flow.toNat)] s

/-! ## The classifier -/

/-- RULE_ENTRY_WRITE (R178). -/
def execRuleEntryWrite (m : Master) (i : BitVec 14) (ws : List Word) (s : State) : Out :=
  runWrites m (dataWrites (SRT_TBL_DATA 0) 25 ws ++ [(SRT_TBL_ADDR, goWord true 0 i.toNat)]) s

/-- RULE_ENTRY_READ (R181). -/
def execRuleEntryRead (m : Master) (i : BitVec 14) (s : State) : Out := runWrites m [(SRT_TBL_ADDR, goWord false 0 i.toNat)] s

/-- FRAG_ENTRY_READ (R181). -/
def execFragEntryRead (m : Master) (i : BitVec 14) (s : State) : Out := runWrites m [(SRT_TBL_ADDR, goWord false 1 i.toNat)] s

/-- ACTION_COUNTER_READ (R182). -/
def execActionCounterRead (m : Master) (i : BitVec 14) (s : State) : Out := runWrites m [(SRT_TBL_ADDR, goWord false 2 i.toNat)] s

/-- ACTION_COUNTER_CLEAR (R181). -/
def execActionCounterClear (m : Master) (i : BitVec 14) (s : State) : Out := runWrites m [(SRT_TBL_ADDR, goWord true 2 i.toNat)] s

/-! ## Queues, meters and the scheduler (R207) -/

/-- QUEUE_ENTRY_WRITE. -/
def execQueueEntryWrite (m : Master) (q : BitVec 13) (ws : List Word) (s : State) : Out :=
  runWrites m (dataWrites (COP_Q_DATA 0) 2 ws ++ [(COP_Q_ADDR, goWord true 0 q.toNat)]) s

/-- QUEUE_ENTRY_READ. -/
def execQueueEntryRead (m : Master) (q : BitVec 13) (clr : Bool) (s : State) : Out :=
  runWrites m [(COP_Q_ADDR, 2 ^ 31 + b2n clr * 2 ^ 28 + q.toNat)] s

/-- METER_ENTRY_WRITE. -/
def execMeterEntryWrite (m : Master) (i : BitVec 13) (ws : List Word) (s : State) : Out :=
  runWrites m (dataWrites (TOL_TBL_DATA 0) 5 ws ++ [(TOL_TBL_ADDR, goWord true 0 i.toNat)]) s

/-- METER_ENTRY_READ. -/
def execMeterEntryRead (m : Master) (i : BitVec 13) (s : State) : Out := runWrites m [(TOL_TBL_ADDR, goWord false 0 i.toNat)] s

/-- METER_COUNTER_READ: TABLE 1, bit 28 of TOL_TBL_ADDR. -/
def execMeterCounterRead (m : Master) (i : BitVec 13) (s : State) : Out := runWrites m [(TOL_TBL_ADDR, goWord false 2 i.toNat)] s

/-- METER_COUNTER_CLEAR. -/
def execMeterCounterClear (m : Master) (i : BitVec 13) (s : State) : Out := runWrites m [(TOL_TBL_ADDR, goWord true 2 i.toNat)] s

/-- SCHED_ENTRY_WRITE (R197): an entry of the queue, subscriber, service or port table. -/
def execSchedEntryWrite (m : Master) (t : BitVec 2) (i : BitVec 13) (ws : List Word) (s : State) : Out :=
  runWrites m (dataWrites (DRV_TBL_DATA 0) 5 ws ++ [(DRV_TBL_ADDR, goWord true t.toNat i.toNat)]) s

/-- SCHED_ENTRY_READ. -/
def execSchedEntryRead (m : Master) (t : BitVec 2) (i : BitVec 13) (s : State) : Out := runWrites m [(DRV_TBL_ADDR, goWord false t.toNat i.toNat)] s

/-! ## Ethernet ports -/

/-- TSQ_READ (R236). -/
def execTsqRead (m : Master) (n : Nat) (s : State) : Out := runO s fun o c => if n < 20 then c.readOut o m (ETH_TSQ_W0 n) else c

/-- The word of ETH_MDIOm_CMD that starts a frame. -/
def mdioGo (cl45 : Bool) (op phy reg : Nat) : Nat := 2 ^ 31 + b2n cl45 * 2 ^ 27 + op * 2 ^ 24 + phy % 32 * 2 ^ 16 + reg % 32

/-- An MDIO frame: its data or address word where it sends one, then its command. -/
def mdioFrame (m : Master) (k : Nat) (data : Option (BitVec 16)) (cmd : Nat) (s : State) : Out :=
  runWrites m ((data.map fun d => (ETH_MDIO_DATA (k % 2), d.toNat)).toList ++ [(ETH_MDIO_CMD (k % 2), cmd)]) s

/-- MDIO_C22_WRITE (R237). -/
def execMdioC22Write (m : Master) (k : Nat) (phy reg : BitVec 5) (data : BitVec 16) (s : State) : Out := mdioFrame m k (some data) (mdioGo false 1 phy.toNat reg.toNat) s

/-- MDIO_C22_READ. -/
def execMdioC22Read (m : Master) (k : Nat) (phy reg : BitVec 5) (s : State) : Out := mdioFrame m k none (mdioGo false 2 phy.toNat reg.toNat) s

/-- MDIO_C45_ADDRESS. -/
def execMdioC45Address (m : Master) (k : Nat) (port dev : BitVec 5) (addr : BitVec 16) (s : State) : Out := mdioFrame m k (some addr) (mdioGo true 0 port.toNat dev.toNat) s

/-- MDIO_C45_WRITE. -/
def execMdioC45Write (m : Master) (k : Nat) (port dev : BitVec 5) (data : BitVec 16) (s : State) : Out := mdioFrame m k (some data) (mdioGo true 1 port.toNat dev.toNat) s

/-- MDIO_C45_READ_INC. -/
def execMdioC45ReadInc (m : Master) (k : Nat) (port dev : BitVec 5) (s : State) : Out := mdioFrame m k none (mdioGo true 2 port.toNat dev.toNat) s

/-- MDIO_C45_READ. -/
def execMdioC45Read (m : Master) (k : Nat) (port dev : BitVec 5) (s : State) : Out := mdioFrame m k none (mdioGo true 3 port.toNat dev.toNat) s

/-- MDIO_FRAME_END (R237): the frame of master `k` ends; of a read, `ack` tells that the PHY drove the turnaround bit low. -/
def execMdioFrameEnd (k : Nat) (ack : Bool) (data : BitVec 16) (s : State) : Out := run s fun c =>
  match Map.get none c.mdio k with
  | none => c
  | some reads =>
    let c := { c with mdio := Map.set none c.mdio k none }
    let c := c.raise (ETH_MDIO_CMD_DONE k)
    if !reads then c
    else if ack then c.put (ETH_MDIO_DATA_DATA k) data.toNat
    else (c.put (ETH_MDIO_CMD_ERR k) 2).put (ETH_MDIO_DATA_DATA k) 0xFFFF

/-- The word of ETH_WK_ADDR that starts an access. -/
def wakeGo (write : Bool) (port pat word : Nat) : Nat := 2 ^ 31 + b2n write * 2 ^ 29 + port * 2 ^ 16 + pat * 2 ^ 8 + word

/-- WAKE_PATTERN_WRITE (R238). -/
def execWakePatternWrite (m : Master) (port : BitVec 5) (pat : BitVec 3) (word : BitVec 5) (v : Word) (s : State) : Out := runFuse s fun o c =>
  Chip.writesThrough {} m .wake [(ETH_WK_DATA, v.toNat), (ETH_WK_ADDR, wakeGo true port.toNat pat.toNat word.toNat)] o c

/-- WAKE_PATTERN_READ (R238). -/
def execWakePatternRead (m : Master) (port : BitVec 5) (pat : BitVec 3) (word : BitVec 5) (s : State) : Out := runFuse s fun o c =>
  Chip.writesThrough {} m .wake [(ETH_WK_ADDR, wakeGo false port.toNat pat.toNat word.toNat)] o c

/-- EQ_OVERRIDE_WRITE (R33): equaliser register `k` of a line: EQ_CTRL, the DFE taps, then the FFE taps. -/
def execEqOverrideWrite (m : Master) (x : Line) (k : BitVec 4) (v : Word) (s : State) : Out := runFuse s fun o c =>
  c.writeThrough {} o m (.line x) (eqAddr x k.toNat) v.toNat

/-! ## The time-slot interchange -/

/-- CM_STANDBY_WRITE (R261). -/
def execCmStandbyWrite (m : Master) (i : BitVec 12) (v : Word) (s : State) : Out := runWrites m [(TSI_CM_DATA, v.toNat), (TSI_CM_ADDR, goWord true 0 i.toNat)] s

/-- CM_ACTIVE_WRITE (R261). -/
def execCmActiveWrite (m : Master) (i : BitVec 12) (v : Word) (s : State) : Out := runWrites m [(TSI_CM_DATA, v.toNat), (TSI_CM_ADDR, goWord true 1 i.toNat)] s

/-- CM_READ (R264): of the standby page, or of the active one. -/
def execCmRead (m : Master) (active : Bool) (i : BitVec 12) (s : State) : Out := runWrites m [(TSI_CM_ADDR, goWord false (b2n active) i.toNat)] s

/-- MONITOR_COUNT_READ (R259). -/
def execMonitorCountRead (m : Master) (i : BitVec 12) (s : State) : Out := runWrites m [(TSI_CM_ADDR, goWord false 2 i.toNat)] s

/-- MONITOR_COUNT_CLEAR (R259). -/
def execMonitorCountClear (m : Master) (i : BitVec 12) (s : State) : Out := runWrites m [(TSI_CM_ADDR, goWord true 2 i.toNat)] s

/-- CM_COPY (R261). -/
def execCmCopy (m : Master) (s : State) : Out := runWrites m [(TSI_CTRL, 1)] s

/-! ## Network time -/

/-- SLOT_ARM (R282): the four words of a slot, with ARM = 1. -/
def execSlotArm (m : Master) (i : BitVec 9) (w0 w1 w2 w3 : Word) (s : State) : Out :=
  runWrites m (dataWrites (NTU_TBL_DATA 0) 4 [w0, w1 ||| 0x20000000, w2, w3] ++ [(NTU_TBL_ADDR, goWord true 0 i.toNat)]) s

/-- SLOT_FREE (R282): ARM = 0. -/
def execSlotFree (m : Master) (i : BitVec 9) (s : State) : Out := runWrites m [(NTU_TBL_DATA 1, 0), (NTU_TBL_ADDR, goWord true 0 i.toNat)] s

/-- REQUIREMENT_WRITE (R292). -/
def execRequirementWrite (m : Master) (i : BitVec 9) (w : Word) (s : State) : Out := runWrites m [(NTU_TBL_DATA 0, w.toNat), (NTU_TBL_ADDR, goWord true 1 i.toNat)] s

/-- EXPRESS_GRANT_WRITE (R292). -/
def execExpressGrantWrite (m : Master) (i : BitVec 9) (w0 w1 : Word) (s : State) : Out :=
  runWrites m (dataWrites (NTU_TBL_DATA 0) 2 [w0, w1] ++ [(NTU_TBL_ADDR, goWord true 2 i.toNat)]) s

/-- NTU_TABLE_READ (R292). -/
def execNtuTableRead (m : Master) (t : BitVec 2) (i : BitVec 9) (s : State) : Out := runWrites m [(NTU_TBL_ADDR, goWord false t.toNat i.toNat)] s

/-- NT_CAPTURE (R291). -/
def execNtCapture (m : Master) (s : State) : Out := runWrites m [(NTU_CAP, 1)] s

/-! ## Rings, queues and the key store -/

/-- RING_ENABLE (R301): a ring's or queue's CFG register written; pages 0 to 15 are transmit rings, 16 to 31 receive rings,
32 to 47 cipher queues. -/
def execRingEnable (m : Master) (p : Nat) (w : Word) (s : State) : Out := runWrites m (if p < 48 then [(ringCfg p, w.toNat)] else []) s

/-- The word of KEY_CMD that starts a command. -/
def keyGo (op slot : Nat) : Nat := 2 ^ 31 + op * 2 ^ 24 + slot

/-- KEY_LOAD (R313). -/
def execKeyLoad (m : Master) (slot : BitVec 10) (s : State) : Out := runWrites m [(KEY_CMD, keyGo 1 slot.toNat)] s

/-- KEY_ERASE (R311). -/
def execKeyErase (m : Master) (slot : BitVec 10) (s : State) : Out := runWrites m [(KEY_CMD, keyGo 2 slot.toNat)] s

/-- KEY_XPUB (R314). -/
def execKeyXpub (m : Master) (s : State) : Out := runWrites m [(KEY_CMD, keyGo 3 0)] s

/-- KEY_IMPORT (R314). -/
def execKeyImport (m : Master) (slot : BitVec 10) (s : State) : Out := runWrites m [(KEY_CMD, keyGo 4 slot.toNat)] s

/-- KEY_INFO (R312). -/
def execKeyInfo (m : Master) (slot : BitVec 10) (s : State) : Out := runWrites m [(KEY_CMD, keyGo 5 slot.toNat)] s

/-- KEY_BUF_ACCESS (R316): a word of KEY_BUF written, or read. -/
def execKeyBufAccess (m : Master) (v : Option Word) (s : State) : Out :=
  match v with
  | some w => runWrites m [(KEY_BUF_DATA, w.toNat)] s
  | none => runO s fun o c => c.readOut o m KEY_BUF_DATA

/-! ## The Tallyman -/

/-- COUNTER_SNAPSHOT (R363). -/
def execCounterSnapshot (m : Master) (s : State) : Out := runWrites m [(TAL_CTRL, 1)] s

/-- COUNTER_FREEZE (R362). -/
def execCounterFreeze (m : Master) (s : State) : Out := runWrites m [(TAL_CTRL, 2)] s

/-- COUNTER_RELEASE (R362). -/
def execCounterRelease (m : Master) (s : State) : Out := runWrites m [(TAL_CTRL, 4)] s

/-- SAMPLE_READ (R364). -/
def execSampleRead (m : Master) (s : State) : Out := runO s fun o c => c.readOut o m TAL_SMP_W0

/-! ## Power and integrity -/

/-- POWER_REQUEST_DOMAIN (R375). -/
def execPowerRequestDomain (m : Master) (d : BitVec 6) (t : BitVec 2) (s : State) : Out := runFuse s fun o c =>
  c.writeThrough {} o m .power PWR_REQ (2 ^ 31 + t.toNat * 2 ^ 8 + d.toNat)

/-- LISTEN_ENTER (R377). -/
def execListenEnter (m : Master) (g : BitVec 3) (s : State) : Out := runFuse s fun o c =>
  c.writeThrough {} o m .power PWR_REQ (2 ^ 31 + 2 ^ 27 + g.toNat * 2 ^ 24)

/-- LISTEN_LEAVE (R377). -/
def execListenLeave (m : Master) (g : BitVec 3) (s : State) : Out := runFuse s fun o c =>
  c.writeThrough {} o m .power PWR_REQ (2 ^ 31 + 2 ^ 28 + g.toNat * 2 ^ 24)

/-- SAFE_EXIT (R392). -/
def execSafeExit (m : Master) (s : State) : Out := runWrites m [(ITM_SAFE, 2 ^ 31)] s

/-- WATCHDOG_KICK (R405). -/
def execWatchdogKick (m : Master) (pairs : BitVec 2) (s : State) : Out := runWrites m [(ITM_WDOG_KICK, pairs.toNat)] s

/-- PORTER_CLEAR (R397): `pinIdle` tells that the ball has read low and the lane been idle for 1 ms, `checkOk` that the checks of
TIME and DUP have passed for 1 ms. -/
def execPorterClear (m : Master) (x : Line) (pinIdle checkOk : Bool) (s : State) : Out := runFuse s fun o c =>
  c.write { pinIdle := some pinIdle, checkOk := some checkOk } o m (ITM_PTR_CTRL x) 1

/-- LOG_READ (R401). -/
def execLogRead (m : Master) (i : BitVec 8) (s : State) : Out := runWrites m [(ITM_LOG_ADDR, 2 ^ 31 + i.toNat)] s

/-! ## The I2C masters (R423) -/

/-- The word of TOP_I2Cm_CMD that starts a transaction. -/
def i2cGo (rd : Bool) (len dev reg : Nat) : Nat := 2 ^ 31 + b2n rd * 2 ^ 27 + len * 2 ^ 24 + dev * 2 ^ 16 + reg

/-- I2C_WRITE. -/
def execI2cWrite (m : Master) (k : Nat) (dev : BitVec 7) (reg : BitVec 8) (len : BitVec 3) (data : Word) (s : State) : Out :=
  runWrites m [(TOP_I2C_DATA (k % 2), data.toNat), (TOP_I2C_CMD (k % 2), i2cGo false len.toNat dev.toNat reg.toNat)] s

/-- I2C_READ. -/
def execI2cRead (m : Master) (k : Nat) (dev : BitVec 7) (reg : BitVec 8) (len : BitVec 3) (s : State) : Out :=
  runWrites m [(TOP_I2C_CMD (k % 2), i2cGo true len.toNat dev.toNat reg.toNat)] s

/-- The bytes read, from [31:24] downward; the others stay. -/
def i2cData (old data : Word) (len : Nat) : Word :=
  BitVec.ofNat 32 (beNat ((beBytes 4 data.toNat).take len ++ (beBytes 4 old.toNat).drop len))

/-- I2C_TRANSACTION_END. -/
def execI2cTransactionEnd (k : Nat) (how : I2cEnd) (data : Word) (s : State) : Out := run s fun c =>
  let kind := Map.get 0 c.i2c k
  if kind = 0 then c else
  let c := { c with i2c := Map.set 0 c.i2c k 0 }
  let c := c.raise (TOP_I2C_CMD_DONE k)
  match how with
  | .addressNack => c.put (TOP_I2C_CMD_ERR k) 1
  | .dataNack => c.put (TOP_I2C_CMD_ERR k) 2
  | .complete =>
    if kind = 2 then c.setReg (TOP_I2C_DATA k) (i2cData (c.reg (TOP_I2C_DATA k)) data (max 1 (min 4 (c.f (TOP_I2C_CMD_LEN k))))) else c

/-- I2C_BUS_HELD: 9 clocks and a STOP, ERR 3. -/
def execI2cBusHeld (k : Nat) (s : State) : Out := run s fun c =>
  if Map.get 0 c.i2c k = 0 then c
  else ({ c with i2c := Map.set 0 c.i2c k 0 }.raise (TOP_I2C_CMD_DONE k)).put (TOP_I2C_CMD_ERR k) 3

end Sys2Proof.Machine
end

