-- ==== Sys2Proof/Machine/Tributary.lean ====
section
/-! DEFINITION. The tributary ports: receive framing, defects, the receive aligner and the frames sent
(spec/10_tributaries_and_tsi.md, R240 to R246, R255 to R257). The CRC-4 multiframe is that of G.704, which the spec
names (assumption 30). -/

namespace Sys2Proof.Machine
open Sys2Proof

/-- A tributary changed. -/
def Chip.modTrib (c : Chip) (n : Nat) (g : Trib → Trib) : Chip := c.setTrib n (g (c.trib n))

/-- LOF of a framed tributary raised, with the search starting again at step 1 (R243, R244). -/
def Chip.tribLof (c : Chip) (n : Nat) : Chip :=
  let t := c.trib n
  let held := match t.heldFrom with
    | some a => t.held + (c.now - a)
    | none => t.held
  let c := c.setTrib n { t with cands := [], at_ := none, badFas := 0, mf := none, mfas := [], heldFrom := none, held := held, raiRun := 0, raiClear := 0,
                                barred := (t.barred.map fun e => (e.1, e.2 - 1)).filter fun e => e.2 != 0 }
  let c := ((c.lower (TDM_STATUS_MF_ALIGN n)).lower (TDM_STATUS_INTWK n)).stop (.mfSearch n)
  if c.tribMode n = 2 || c.flag (TDM_STATUS_LOF n) then c
  else ((c.raise (TDM_STATUS_LOF n)).raise (TDM_ALARM_LOF n)).count (N_TDM_LOF_EVT n)

/-- LOS of a tributary raised; it holds LOF raised in modes 0 and 1 (R245). -/
def Chip.tribLos (c : Chip) (n : Nat) : Chip :=
  let c := if c.flag (TDM_STATUS_LOS n) then c else ((c.raise (TDM_STATUS_LOS n)).raise (TDM_ALARM_LOS n)).count (N_TDM_LOS_EVT n)
  if c.tribMode n = 2 then c else c.tribLof n

/-- The bits of the last row and of the new one, and the byte that starts at one of them. -/
def windowByte (buf : List Byte) (bit : Nat) : Nat :=
  natBits ((byteAt buf (bit / 8)) * 256 + byteAt buf (bit / 8 + 1)) (8 - bit % 8) 8

/-- Whether a byte holds the FAS in bits 2 to 8. -/
def isFas (w : Nat) : Bool := w % 128 == 0x1B

/-- The zeros among the bits of bytes. -/
def zerosOf (bs : List Byte) : Nat := bs.foldl (fun n b => n + (8 - popcount 8 b.toNat)) 0

/-- LOS by zeros and its clearing, bit by bit (R245): the run of zeros, and whether LOS stands. -/
def losScan (n : Nat) (bits : List Bool) (from_ : Nat) (zeros : Nat) (los : Bool) : Nat × Bool :=
  (List.range (bits.length - from_)).foldl (fun (a : Nat × Bool) i =>
    let b := bits.getD (from_ + i) false
    let z := if b then 0 else a.1 + 1
    if a.2 then
      let win := (bits.drop (from_ + i + 1 - n)).take n
      (z, !(decide (ceilDiv n 8 ≤ (win.filter id).length) && decide (win.length = n)))
    else (z, decide (n ≤ z))) (zeros, los)

/-- The search of R242 over the positions whose time slot 0 ends in this row: the checkers, and the position aligned. -/
def searchRow (t : Trib) (buf : List Byte) : List (Nat × Nat) × Option Nat :=
  (List.range 256).foldl (fun (a : List (Nat × Nat) × Option Nat) i =>
    if a.2.isSome then a
    else
      let bit := 249 + i
      let p := bit % 256
      let w := windowByte buf bit
      match t.cands.find? fun e => e.1 == p with
      | some (_, 1) => if w.testBit 6 then (a.1 ++ [(p, 2)], none) else a
      | some _ => if isFas w then (a.1, some p) else a
      | none => if isFas w && !(t.barred.any fun e => e.1 == p) then (a.1 ++ [(p, 1)], none) else a) ([], none)

/-- A position aligned (R242): LOF clears and delivery begins; in mode 1 the multiframe is sought for 8 ms (R244). -/
def Chip.tribAligned (c : Chip) (n p : Nat) : Chip :=
  let c := c.modTrib n fun t => { t with cands := [], at_ := some p, fas := decide (0 < p && p ≤ 248), badFas := 0, fifo := [], mfas := [], mf := none,
                                         barred := t.barred.filter fun e => e.1 == p, heldFrom := some c.now }
  let c := c.lower (TDM_STATUS_LOF n)
  if c.tribMode n = 1 then c.start (.mfSearch n) (8 * msCcy) else c.modTrib n fun t => { t with held := 0 }

/-- RAI of the NFAS word (R245). -/
def Chip.tribRai (c : Chip) (n : Nat) (a : Bool) : Chip :=
  let t := c.trib n
  let up := if a then t.raiRun + 1 else 0
  let down := if a then 0 else t.raiClear + 1
  let c := c.setTrib n { t with raiRun := up, raiClear := down }
  if 3 ≤ up && !c.flag (TDM_STATUS_RAI n) then (c.raise (TDM_STATUS_RAI n)).raise (TDM_ALARM_RAI n)
  else if 3 ≤ down then c.lower (TDM_STATUS_RAI n) else c

/-- The multiframe search of R244 on one NFAS word: two signals spaced a multiple of 2 ms within 8 ms. -/
def Chip.seekMultiframe (c : Chip) (n : Nat) (bit1 : Bool) : Chip :=
  let t := c.trib n
  let bits := (2 * t.nfas + b2n bit1) % 64
  let hit := bits == 0b001011
  let found := hit && t.mfas.any fun f => decide (t.frames - f ≤ 64) && (t.frames - f) % 16 == 0 && t.frames != f
  let t := { t with nfas := bits, mfas := (if hit then [t.frames] else []) ++ t.mfas.filter fun f => decide (t.frames - f < 64) }
  if found then
    ((c.setTrib n { t with mf := some 11, crc := 0, crcWant := none, crcGot := 0, smf := 0, smfBad := 0, mfas := [], held := 0, heldFrom := none }).raise (TDM_STATUS_MF_ALIGN n)).stop (.mfSearch n)
  else c.setTrib n t

/-- An errored or good CRC-4 submultiframe, with the rule of 915 in 1,000 (R244). -/
def Chip.submultiframe (c : Chip) (n : Nat) (bad : Bool) : Chip :=
  let t := c.trib n
  let k := t.smfBad + b2n bad
  let c := if bad then c.count (N_TDM_CRC4_ERR n) else c
  let c := c.setTrib n { t with smf := if t.smf + 1 = 1000 then 0 else t.smf + 1, smfBad := if t.smf + 1 = 1000 then 0 else k, ebits := t.ebits + b2n bad }
  if 915 ≤ k then (c.raise (TDM_ALARM_CRC4_LOSS n)).tribLof n else c

/-- CRC-4 and E bits of one frame at index `i` of its multiframe (R244). -/
def Chip.crcFrame (c : Chip) (n i : Nat) (frame : List Byte) : Chip :=
  let t := c.trib n
  let bit1 := (byteAt frame 0).testBit 7
  let fas := i % 2 == 0
  let got := if fas then (2 * t.crcGot + b2n bit1) % 16 else t.crcGot
  let clean := if fas then BitVec.ofNat 8 (byteAt frame 0 % 128) :: frame.drop 1 else frame
  let crc := crcMsb 4 3 t.crc clean
  let c := if (i = 13 || i = 15) && !bit1 then c.count (N_TDM_REBE n) else c
  let ends := i % 8 == 7
  let c := c.setTrib n { t with mf := some ((i + 1) % 16), crcGot := if ends then 0 else got, crc := if ends then 0 else crc, crcWant := if ends then some crc else t.crcWant }
  if ends then
    match t.crcWant with
    | some w => c.submultiframe n (w != got)
    | none => c
  else c

/-- One whole frame of an aligned tributary: FAS errors, RAI, the multiframe and the receive aligner (R243 to R246). -/
def Chip.tribFrame (c : Chip) (n : Nat) (frame : List Byte) : Chip :=
  let t := c.trib n
  let w := byteAt frame 0
  let errs := popcount 7 ((w % 128) ^^^ 0x1B)
  let bad := if t.fas then (if errs = 0 then 0 else t.badFas + 1) else t.badFas
  let c := if t.fas then c.count (N_TDM_FAS_ERR n) errs else c.tribRai n (w.testBit 5)
  let isNfas := !t.fas
  let c := c.modTrib n fun t => { t with fas := !t.fas, badFas := bad, frames := t.frames + 1 }
  if 3 ≤ bad then c.tribLof n
  else
    let c := if c.tribMode n ≠ 1 || c.flag (TDM_STATUS_INTWK n) then c
      else match (c.trib n).mf with
        | some i => c.crcFrame n i frame
        | none => if isNfas then
            let c := c.seekMultiframe n (w.testBit 7)
            c.modTrib n fun t => { t with mf := t.mf.map (· + 1) }
          else c
    if (c.trib n).at_.isNone then c
    else if c.tribDirect n then
      c.modTrib n fun t => { t with store := (fun s => if 96 < s.length then s.drop 32 else s) ((if t.store = [] then ones32 else t.store) ++ frame) }
    else
      let t := c.trib n
      if 2 ≤ t.fifo.length then ((c.setTrib n { t with fifo := t.fifo.drop 1 ++ [frame] }).count (N_TDM_SLIP_RX n)).raise (TDM_ALARM_RX_SLIP n)
      else c.setTrib n { t with fifo := t.fifo ++ [frame], last := if t.last = [] then frame else t.last }

/-- AIS over 512-bit periods (R245). -/
def Chip.tribAis (c : Chip) (n : Nat) (zeros : Nat) : Chip :=
  let t := c.trib n
  match t.aisHalf with
  | none => c.setTrib n { t with aisHalf := some zeros }
  | some z =>
    let low := decide (z + zeros < 3)
    let c := c.setTrib n { t with aisHalf := none, aisLow := some low }
    if t.aisLow = some low then
      if low then (if c.flag (TDM_STATUS_AIS n) then c else (c.raise (TDM_STATUS_AIS n)).raise (TDM_ALARM_AIS n)) else c.lower (TDM_STATUS_AIS n)
    else c

/-- TRIB_E1_FRAME (R240 to R246): 256 bits of a received E1 advance the defects, the framing and the aligner. -/
def execTribE1Frame (n : Nat) (row : List Byte) (s : State) : Out := run s fun c =>
  if !c.tribOn n then c else
  let row := slice row 0 32
  let c := c.raise (TDM_STATUS_RXC_OK n)
  let t := c.trib n
  let lim := max 10 (c.f (TDM_CFG_LOS_N n))
  let bits := (t.prev ++ row).flatMap fun b => (List.range 8).map fun k => b.toNat.testBit (7 - k)
  let l := losScan lim bits (8 * t.prev.length) t.zeros (c.flag (TDM_STATUS_LOS n))
  let buf := (if t.prev = [] then fill 32 0 else t.prev) ++ row
  let c := c.setTrib n { t with zeros := l.1, prev := row }
  let c := if l.2 then c.tribLos n else c.lower (TDM_STATUS_LOS n)
  let c := c.tribAis n (zerosOf row)
  if c.tribMode n = 2 then
    let c := c.lower (TDM_STATUS_LOF n)
    if c.tribDirect n then c.modTrib n fun t => { t with store := (fun s => if 96 < s.length then s.drop 32 else s) ((if t.store = [] then ones32 else t.store) ++ row) } else c
  else if l.2 then c
  else match (c.trib n).at_ with
    | some p => c.tribFrame n (if p = 0 then row else (List.range 32).map fun k => BitVec.ofNat 8 (windowByte buf (p + 8 * k)))
    | none =>
      let r := searchRow (c.trib n) buf
      match r.2 with
      | some p => c.tribAligned n p
      | none => c.modTrib n fun t => { t with cands := r.1 }

/-- TRIB_CLOCK_LOSS (R245): TRIB_RXCn has shown no edge for 4 µs. -/
def execTribClockLoss (n : Nat) (s : State) : Out := run s fun c =>
  if c.tribOn n then ((c.lower (TDM_STATUS_RXC_OK n)).tribLos n).modTrib n fun t => { t with prev := [], zeros := 0 } else c

/-- MF_SEARCH_EXPIRY (R244): no multiframe in 8 ms bars the position and restarts the search. -/
def execMfSearchExpiry (n : Nat) (s : State) : Out := run s fun c =>
  c.expire (.mfSearch n) fun c =>
    if c.tribMode n ≠ 1 || c.flag (TDM_STATUS_MF_ALIGN n) || c.flag (TDM_STATUS_INTWK n) then c
    else match (c.trib n).at_ with
      | none => c
      | some p =>
        let c := (c.tribLof n).count (N_TDM_BARRED n)
        c.modTrib n fun t => { t with barred := (p, 3) :: t.barred.filter fun e => e.1 != p }

/-- INTWK_DECLARE (R244): basic alignment held for 400 ms in total without a multiframe declares CRC-4 interworking. -/
def execIntwkDeclare (n : Nat) (s : State) : Out := run s fun c =>
  let t := c.trib n
  match t.heldFrom with
  | none => c
  | some a =>
    if c.tribMode n ≠ 1 || !c.flag (TDM_CFG_INTWK_EN n) || c.flag (TDM_STATUS_MF_ALIGN n) || c.flag (TDM_STATUS_INTWK n) || !c.tribOn n then c
    else
      let c := c.elapse (400 * msCcy - (t.held + (c.now - a)))
      (((c.raise (TDM_STATUS_INTWK n)).raise (TDM_ALARM_INTWK n)).stop (.mfSearch n)).modTrib n fun t => { t with held := 0, heldFrom := none }

/-- Whether a tributary must send AIS (Table 10.3). -/
def Chip.sendsAis (c : Chip) (n : Nat) : Bool :=
  let named := slotOf (lineOf (c.f (TDM_CFG_DIR_LINE n))) (c.f (TDM_CFG_DIR_SLOT n))
  let src := match c.pairOfA named with
    | some k => if c.isOn 7 && c.selected k = .b then slotOf .b (c.f (TWE_SEL_SLOT_B k)) else named
    | none => named
  c.flag (TDM_CTRL_FORCE_AIS n) || c.flag ITM_SAFE_ACTIVE || c.boot.recovery || !c.isOn 44 ||
    (c.flag (TDM_CFG_TX_SRC n) && (!c.flag (TCM_DS_SLOT_VALID src) || c.f (TCM_DS_STAT_STATE src) != 0))

/-- Bit 1 of the time slot 0 sent at index `i` of the transmit multiframe (R255): the CRC-4 of the submultiframe before,
the multiframe signal, and the E bits. -/
def txBit1 (mode i crc : Nat) (errored intwk : Bool) : Bool :=
  if mode ≠ 1 then true
  else if i % 2 = 0 then crc.testBit (3 - i % 8 / 2)
  else if i = 13 || i = 15 then !(errored || intwk)
  else [false, false, true, false, true, true].getD (i / 2) false

/-- The transmit store of a direct tributary read for one E1 frame, re-centred when it is empty (R257). -/
def Chip.readTx (c : Chip) (n : Nat) : Chip × List Byte :=
  let t := c.trib n
  let r := if t.tx.length < 32 then
      ((((c.setTrib n { t with tx := ones32 }).count (N_TDM_SLIP_TX n)).raise (TDM_ALARM_TX_SLIP n)), t.tx ++ slice t.txLast 0 (32 - t.tx.length))
    else (c.setTrib n { t with tx := t.tx.drop 32 }, t.tx.take 32)
  ((r.1.modTrib n fun t => { t with txLast := r.2 }).put (TDM_NCO_FILL n) (min 64 (r.1.trib n).tx.length), r.2)

/-- TRIB_TX_E1_FRAME (R255 to R257): one E1 frame sent on a tributary. -/
def execTribTxE1Frame (n : Nat) (s : State) : Out := run s fun c =>
  if !c.tribOn n then c else
  let ais := c.sendsAis n
  let mode := c.tribMode n
  let a := c.flag (TDM_CTRL_FORCE_RAI n) || c.flag (TDM_STATUS_LOS n) || c.flag (TDM_STATUS_LOF n) || c.flag (TDM_STATUS_AIS n)
  let c := (c.putB (TDM_STATUS_TX_AIS n) ais).putB (TDM_STATUS_TX_RAI n) (a && mode != 2)
  let direct := c.flag (TDM_CFG_TX_SRC n)
  let d := if direct then c.readTx n else (c, [])
  let c := d.1
  let c := if direct && c.flag (TDM_CFG_CLK_SRC n) && !ais then let v := c.free; v.1.put (TDM_NCO_OFS n) v.2 else if c.flag (TDM_CFG_CLK_SRC n) then c else c.put (TDM_NCO_OFS n) 0
  let t := c.trib n
  let i := t.txIdx
  let e := decide (0 < t.ebits) && (i == 13 || i == 15)
  let ts0 := if i % 2 = 0 then 0x1B else 0x5F + b2n a * 0x20
  let first := ts0 + b2n (txBit1 mode i t.txCrcWas e (c.flag (TDM_STATUS_INTWK n))) * 128
  let frame : List Byte := if ais then ones32 else if direct then d.2
    else BitVec.ofNat 8 first :: (List.range 31).map fun k => BitVec.ofNat 8 (Map.get 0xFF c.tsi.outputs (32 * n + 1 + k))
  let crc := crcMsb 4 3 (if i % 8 = 0 then 0 else t.txCrc) (if i % 2 = 0 then BitVec.ofNat 8 (first % 128) :: frame.drop 1 else frame)
  let c := c.setTrib n { t with txIdx := (i + 1) % 16, ebits := t.ebits - b2n e, txCrc := crc, txCrcWas := if i % 8 = 7 then crc else t.txCrcWas }
  c.emit (.e1 n frame)

end Sys2Proof.Machine
end

