-- ==== Sys2Proof/Machine/Dispatch.lean ====
section
/-! DEFINITION. One arm per command: the direct call of its meaning. -/

namespace Sys2Proof.Machine
open Sys2Proof

def exec (i : Instr) (s : State) : Host.Outcome State Fault Refusal :=
  match i with
  | .powerOnReset => Sys2Proof.Machine.execPowerOnReset s
  | .aonBrownout => Sys2Proof.Machine.execAonBrownout s
  | .startup r => Sys2Proof.Machine.execStartup r s
  | .registerWrite m a v => Sys2Proof.Machine.execRegisterWrite m a v s
  | .w1cWrite m a v => Sys2Proof.Machine.execW1cWrite m a v s
  | .maskedWrite m a mask data => Sys2Proof.Machine.execMaskedWrite m a mask data s
  | .shadowWrite m a v => Sys2Proof.Machine.execShadowWrite m a v s
  | .pairLoRead m a => Sys2Proof.Machine.execPairLoRead m a s
  | .pairHiRead m a => Sys2Proof.Machine.execPairHiRead m a s
  | .pairLoWrite m a v => Sys2Proof.Machine.execPairLoWrite m a v s
  | .pairHiWrite m a v => Sys2Proof.Machine.execPairHiWrite m a v s
  | .postedWrite m a v => Sys2Proof.Machine.execPostedWrite m a v s
  | .postedWriteTaken w => Sys2Proof.Machine.execPostedWriteTaken w s
  | .eventFire => Sys2Proof.Machine.execEventFire s
  | .slotArm m k w0 w1 w2 w3 => Sys2Proof.Machine.execSlotArm m k w0 w1 w2 w3 s
  | .slotFree m k => Sys2Proof.Machine.execSlotFree m k s
  | .requirementWrite m k w => Sys2Proof.Machine.execRequirementWrite m k w s
  | .expressGrantWrite m k w0 w1 => Sys2Proof.Machine.execExpressGrantWrite m k w0 w1 s
  | .ntuTableRead m t k => Sys2Proof.Machine.execNtuTableRead m t k s
  | .ntCapture m => Sys2Proof.Machine.execNtCapture m s
  | .commitRequest m fn next => Sys2Proof.Machine.execCommitRequest m fn next s
  | .commitCheckEnd => Sys2Proof.Machine.execCommitCheckEnd s
  | .commitApply => Sys2Proof.Machine.execCommitApply s
  | .commitCancel m => Sys2Proof.Machine.execCommitCancel m s
  | .stagedDiscard m => Sys2Proof.Machine.execStagedDiscard m s
  | .rootBind m programmed => Sys2Proof.Machine.execRootBind m programmed s
  | .objectStart m type size => Sys2Proof.Machine.execObjectStart m type size s
  | .objectEnd m => Sys2Proof.Machine.execObjectEnd m s
  | .configImageDelivered src otpFails => Sys2Proof.Machine.execConfigImageDelivered src otpFails s
  | .configDeltaDelivered src => Sys2Proof.Machine.execConfigDeltaDelivered src s
  | .firmwareDelivered src otpFails => Sys2Proof.Machine.execFirmwareDelivered src otpFails s
  | .savePrepare m rollback version => Sys2Proof.Machine.execSavePrepare m rollback version s
  | .saveReady => Sys2Proof.Machine.execSaveReady s
  | .saveSignature src otpFails => Sys2Proof.Machine.execSaveSignature src otpFails s
  | .nvmReadWord m a => Sys2Proof.Machine.execNvmReadWord m a s
  | .nvmProgramWord m a v => Sys2Proof.Machine.execNvmProgramWord m a v s
  | .nvmEraseSector m a => Sys2Proof.Machine.execNvmEraseSector m a s
  | .nvmCmdDone failed => Sys2Proof.Machine.execNvmCmdDone failed s
  | .mgtWrite a v => Sys2Proof.Machine.execMgtWrite a v s
  | .mgtRead a => Sys2Proof.Machine.execMgtRead a s
  | .mgtStatus => Sys2Proof.Machine.execMgtStatus s
  | .mgtBadCommand cmd => Sys2Proof.Machine.execMgtBadCommand cmd s
  | .fwHeartbeat load0 load1 => Sys2Proof.Machine.execFwHeartbeat load0 load1 s
  | .faultLogCopy failed => Sys2Proof.Machine.execFaultLogCopy failed s
  | .losRise x bySd => Sys2Proof.Machine.execLosRise x bySd s
  | .losClear x sd => Sys2Proof.Machine.execLosClear x sd s
  | .acquisition x foms taps => Sys2Proof.Machine.execAcquisition x foms taps s
  | .acquisitionRestart x => Sys2Proof.Machine.execAcquisitionRestart x s
  | .lofReacquire x => Sys2Proof.Machine.execLofReacquire x s
  | .fomUpdate x fom => Sys2Proof.Machine.execFomUpdate x fom s
  | .eqOverrideWrite m x k v => Sys2Proof.Machine.execEqOverrideWrite m x k v s
  | .syncField x pos inv errors hdr cif => Sys2Proof.Machine.execSyncField x pos inv errors hdr cif s
  | .directedReacq x e0 h0 e1 h1 => Sys2Proof.Machine.execDirectedReacq x e0 h0 e1 h1 s
  | .downstreamFrame x r => Sys2Proof.Machine.execDownstreamFrame x r s
  | .berWindowEnd x sf => Sys2Proof.Machine.execBerWindowEnd x sf s
  | .profile x m ps => Sys2Proof.Machine.execProfile x m ps s
  | .tidAssign x m serial tid => Sys2Proof.Machine.execTidAssign x m serial tid s
  | .eqdAssign x m eqd fn => Sys2Proof.Machine.execEqdAssign x m eqd fn s
  | .eqdAdjust x m delta fn => Sys2Proof.Machine.execEqdAdjust x m delta fn s
  | .eqdTakeEffect x => Sys2Proof.Machine.execEqdTakeEffect x s
  | .allocAssign x m n es => Sys2Proof.Machine.execAllocAssign x m n es s
  | .nonce x m nonce => Sys2Proof.Machine.execNonce x m nonce s
  | .attestSigned x recorded => Sys2Proof.Machine.execAttestSigned x recorded s
  | .headEndProof x => Sys2Proof.Machine.execHeadEndProof x s
  | .bulkAnnounce x m type size hash => Sys2Proof.Machine.execBulkAnnounce x m type size hash s
  | .keyRoll x m first last gen fn => Sys2Proof.Machine.execKeyRoll x m first last gen fn s
  | .keyRollOverlapEnd x => Sys2Proof.Machine.execKeyRollOverlapEnd x s
  | .sleepGrant x m mode start wake => Sys2Proof.Machine.execSleepGrant x m mode start wake s
  | .sleepStart x => Sys2Proof.Machine.execSleepStart x s
  | .tod x m fn sec ns => Sys2Proof.Machine.execTod x m fn sec ns s
  | .emergencyStop x m serial written => Sys2Proof.Machine.execEmergencyStop x m serial written s
  | .silenceEntry x written => Sys2Proof.Machine.execSilenceEntry x written s
  | .silenceRecordRetry x written => Sys2Proof.Machine.execSilenceRecordRetry x written s
  | .silenceRelease x m serial size => Sys2Proof.Machine.execSilenceRelease x m serial size s
  | .silenceReleaseObject x => Sys2Proof.Machine.execSilenceReleaseObject x s
  | .silenceReleaseTimeout x => Sys2Proof.Machine.execSilenceReleaseTimeout x s
  | .deactivate x m serial => Sys2Proof.Machine.execDeactivate x m serial s
  | .regAccess x m n es => Sys2Proof.Machine.execRegAccess x m n es s
  | .regAccessRun x => Sys2Proof.Machine.execRegAccessRun x s
  | .lomTimeout x => Sys2Proof.Machine.execLomTimeout x s
  | .annWaitExpiry x => Sys2Proof.Machine.execAnnWaitExpiry x s
  | .rangeToExpiry x => Sys2Proof.Machine.execRangeToExpiry x s
  | .proveToExpiry x => Sys2Proof.Machine.execProveToExpiry x s
  | .holdExpiry x => Sys2Proof.Machine.execHoldExpiry x s
  | .announceHoldoffEnd x => Sys2Proof.Machine.execAnnounceHoldoffEnd x s
  | .announce x => Sys2Proof.Machine.execAnnounce x s
  | .rangingResp x => Sys2Proof.Machine.execRangingResp x s
  | .upstreamBurst x => Sys2Proof.Machine.execUpstreamBurst x s
  | .activeLineSwitch => Sys2Proof.Machine.execActiveLineSwitch s
  | .actWtrExpiry => Sys2Proof.Machine.execActWtrExpiry s
  | .mergePacket => Sys2Proof.Machine.execMergePacket s
  | .mergeStateRead m flow => Sys2Proof.Machine.execMergeStateRead m flow s
  | .gapExpiry flow => Sys2Proof.Machine.execGapExpiry flow s
  | .flowIdleExpiry flow => Sys2Proof.Machine.execFlowIdleExpiry flow s
  | .referenceAgeing => Sys2Proof.Machine.execReferenceAgeing s
  | .trackUpdate d ppb paired => Sys2Proof.Machine.execTrackUpdate d ppb paired s
  | .tmSwitch => Sys2Proof.Machine.execTmSwitch s
  | .tmRevert => Sys2Proof.Machine.execTmRevert s
  | .selSwitch k => Sys2Proof.Machine.execSelSwitch k s
  | .containerDelivery => Sys2Proof.Machine.execContainerDelivery s
  | .carriageFrame x hdr hdrErrored body bodyErrored => Sys2Proof.Machine.execCarriageFrame x hdr hdrErrored body bodyErrored s
  | .reasmTimeout x => Sys2Proof.Machine.execReasmTimeout x s
  | .bulkSegment x => Sys2Proof.Machine.execBulkSegment x s
  | .flowTableWrite m flow entry => Sys2Proof.Machine.execFlowTableWrite m flow entry s
  | .flowTableRead m flow => Sys2Proof.Machine.execFlowTableRead m flow s
  | .codewordRebuild x k => Sys2Proof.Machine.execCodewordRebuild x k s
  | .codewordCommit x => Sys2Proof.Machine.execCodewordCommit x s
  | .expressStage x p => Sys2Proof.Machine.execExpressStage x p s
  | .classify ecc => Sys2Proof.Machine.execClassify ecc s
  | .fragEntryAged => Sys2Proof.Machine.execFragEntryAged s
  | .ruleEntryWrite m k ws => Sys2Proof.Machine.execRuleEntryWrite m k ws s
  | .ruleEntryRead m k => Sys2Proof.Machine.execRuleEntryRead m k s
  | .fragEntryRead m k => Sys2Proof.Machine.execFragEntryRead m k s
  | .actionCounterRead m k => Sys2Proof.Machine.execActionCounterRead m k s
  | .actionCounterClear m k => Sys2Proof.Machine.execActionCounterClear m k s
  | .meterUpdate => Sys2Proof.Machine.execMeterUpdate s
  | .admission => Sys2Proof.Machine.execAdmission s
  | .schedulerSelect p => Sys2Proof.Machine.execSchedulerSelect p s
  | .queueEntryWrite m q ws => Sys2Proof.Machine.execQueueEntryWrite m q ws s
  | .queueEntryRead m q clr => Sys2Proof.Machine.execQueueEntryRead m q clr s
  | .meterEntryWrite m k ws => Sys2Proof.Machine.execMeterEntryWrite m k ws s
  | .meterEntryRead m k => Sys2Proof.Machine.execMeterEntryRead m k s
  | .meterCounterRead m k => Sys2Proof.Machine.execMeterCounterRead m k s
  | .meterCounterClear m k => Sys2Proof.Machine.execMeterCounterClear m k s
  | .schedEntryWrite m t k ws => Sys2Proof.Machine.execSchedEntryWrite m t k ws s
  | .schedEntryRead m t k => Sys2Proof.Machine.execSchedEntryRead m t k s
  | .ethRxFrame n r => Sys2Proof.Machine.execEthRxFrame n r s
  | .pauseTimerExpiry n => Sys2Proof.Machine.execPauseTimerExpiry n s
  | .xoffChange n => Sys2Proof.Machine.execXoffChange n s
  | .xoffRefresh n => Sys2Proof.Machine.execXoffRefresh n s
  | .ethTxFrame n k frac => Sys2Proof.Machine.execEthTxFrame n k frac s
  | .preemption n k frac => Sys2Proof.Machine.execPreemption n k frac s
  | .mmVerify n responded => Sys2Proof.Machine.execMmVerify n responded s
  | .linkChange n r => Sys2Proof.Machine.execLinkChange n r s
  | .polarityTryExpiry l => Sys2Proof.Machine.execPolarityTryExpiry l s
  | .laneAlignmentLock map => Sys2Proof.Machine.execLaneAlignmentLock map s
  | .largeSend hd payload mss tag => Sys2Proof.Machine.execLargeSend hd payload mss tag s
  | .listenFrame n bs => Sys2Proof.Machine.execListenFrame n bs s
  | .tsqRead m n => Sys2Proof.Machine.execTsqRead m n s
  | .mdioC22Write m k phy reg data => Sys2Proof.Machine.execMdioC22Write m k phy reg data s
  | .mdioC22Read m k phy reg => Sys2Proof.Machine.execMdioC22Read m k phy reg s
  | .mdioC45Address m k port dev addr => Sys2Proof.Machine.execMdioC45Address m k port dev addr s
  | .mdioC45Write m k port dev data => Sys2Proof.Machine.execMdioC45Write m k port dev data s
  | .mdioC45ReadInc m k port dev => Sys2Proof.Machine.execMdioC45ReadInc m k port dev s
  | .mdioC45Read m k port dev => Sys2Proof.Machine.execMdioC45Read m k port dev s
  | .mdioFrameEnd k ack data => Sys2Proof.Machine.execMdioFrameEnd k ack data s
  | .wakePatternWrite m port pat word v => Sys2Proof.Machine.execWakePatternWrite m port pat word v s
  | .wakePatternRead m port pat word => Sys2Proof.Machine.execWakePatternRead m port pat word s
  | .tribE1Frame n row => Sys2Proof.Machine.execTribE1Frame n row s
  | .tribClockLoss n => Sys2Proof.Machine.execTribClockLoss n s
  | .mfSearchExpiry n => Sys2Proof.Machine.execMfSearchExpiry n s
  | .intwkDeclare n => Sys2Proof.Machine.execIntwkDeclare n s
  | .usContainerBuild => Sys2Proof.Machine.execUsContainerBuild s
  | .tsiFrame ecc => Sys2Proof.Machine.execTsiFrame ecc s
  | .cmStandbyWrite m k v => Sys2Proof.Machine.execCmStandbyWrite m k v s
  | .cmActiveWrite m k v => Sys2Proof.Machine.execCmActiveWrite m k v s
  | .cmRead m active k => Sys2Proof.Machine.execCmRead m active k s
  | .monitorCountRead m k => Sys2Proof.Machine.execMonitorCountRead m k s
  | .monitorCountClear m k => Sys2Proof.Machine.execMonitorCountClear m k s
  | .cmCopy m => Sys2Proof.Machine.execCmCopy m s
  | .cmCopyDone => Sys2Proof.Machine.execCmCopyDone s
  | .ntSet x => Sys2Proof.Machine.execNtSet x s
  | .ntLock => Sys2Proof.Machine.execNtLock s
  | .holdoverEntry => Sys2Proof.Machine.execHoldoverEntry s
  | .holdoverAged => Sys2Proof.Machine.execHoldoverAged s
  | .holdoverExit x e => Sys2Proof.Machine.execHoldoverExit x e s
  | .hoWindowEnd measured => Sys2Proof.Machine.execHoWindowEnd measured s
  | .ppsOutPulse => Sys2Proof.Machine.execPpsOutPulse s
  | .ppsInEdge frac => Sys2Proof.Machine.execPpsInEdge frac s
  | .ppsInLoss => Sys2Proof.Machine.execPpsInLoss s
  | .ptpSync n => Sys2Proof.Machine.execPtpSync n s
  | .ptpAnnounce n => Sys2Proof.Machine.execPtpAnnounce n s
  | .ptpDelayReq n peer seq => Sys2Proof.Machine.execPtpDelayReq n peer seq s
  | .lineWakeStart x => Sys2Proof.Machine.execLineWakeStart x s
  | .boundLost n => Sys2Proof.Machine.execBoundLost n s
  | .configRequest r => Sys2Proof.Machine.execConfigRequest r s
  | .hostLinkDown how => Sys2Proof.Machine.execHostLinkDown how s
  | .flr => Sys2Proof.Machine.execFlr s
  | .busMasterDisable => Sys2Proof.Machine.execBusMasterDisable s
  | .doorbellWrite off v => Sys2Proof.Machine.execDoorbellWrite off v s
  | .ringEnable m p w => Sys2Proof.Machine.execRingEnable m p w s
  | .txRingFrame descs bad => Sys2Proof.Machine.execTxRingFrame descs bad s
  | .rxRingDeliver descs bad k => Sys2Proof.Machine.execRxRingDeliver descs bad k s
  | .msixSend p => Sys2Proof.Machine.execMsixSend p s
  | .msixUnmask v => Sys2Proof.Machine.execMsixUnmask v s
  | .hostTdmRead half => Sys2Proof.Machine.execHostTdmRead half s
  | .hostTdmWrite => Sys2Proof.Machine.execHostTdmWrite s
  | .xtsEncrypt req data bad => Sys2Proof.Machine.execXtsEncrypt req data bad s
  | .xtsDecrypt req data bad => Sys2Proof.Machine.execXtsDecrypt req data bad s
  | .gcmEncrypt req data aad bad => Sys2Proof.Machine.execGcmEncrypt req data aad bad s
  | .gcmDecrypt req data aad bad => Sys2Proof.Machine.execGcmDecrypt req data aad bad s
  | .sha384 req data bad => Sys2Proof.Machine.execSha384 req data bad s
  | .keyLoad m slot => Sys2Proof.Machine.execKeyLoad m slot s
  | .keyErase m slot => Sys2Proof.Machine.execKeyErase m slot s
  | .keyXpub m => Sys2Proof.Machine.execKeyXpub m s
  | .keyImport m slot => Sys2Proof.Machine.execKeyImport m slot s
  | .keyInfo m slot => Sys2Proof.Machine.execKeyInfo m slot s
  | .keyBufAccess m v => Sys2Proof.Machine.execKeyBufAccess m v s
  | .counterSnapshot m => Sys2Proof.Machine.execCounterSnapshot m s
  | .counterFreeze m => Sys2Proof.Machine.execCounterFreeze m s
  | .counterRelease m => Sys2Proof.Machine.execCounterRelease m s
  | .counterOverflow g k n attr => Sys2Proof.Machine.execCounterOverflow g k n attr s
  | .sampleRead m => Sys2Proof.Machine.execSampleRead m s
  | .bwWindowEnd => Sys2Proof.Machine.execBwWindowEnd s
  | .powerRequestDomain m d t => Sys2Proof.Machine.execPowerRequestDomain m d t s
  | .listenEnter m g => Sys2Proof.Machine.execListenEnter m g s
  | .listenLeave m g => Sys2Proof.Machine.execListenLeave m g s
  | .quiesceEnd d => Sys2Proof.Machine.execQuiesceEnd d s
  | .drainTimeout d => Sys2Proof.Machine.execDrainTimeout d s
  | .drainRetry => Sys2Proof.Machine.execDrainRetry s
  | .wakeStepReady d bist => Sys2Proof.Machine.execWakeStepReady d bist s
  | .wakeStepTimeout d => Sys2Proof.Machine.execWakeStepTimeout d s
  | .wakeComplete d bad => Sys2Proof.Machine.execWakeComplete d bad s
  | .wakeEvent k => Sys2Proof.Machine.execWakeEvent k s
  | .faultDetected reports => Sys2Proof.Machine.execFaultDetected reports s
  | .safeExit m => Sys2Proof.Machine.execSafeExit m s
  | .watchdogExpiry p => Sys2Proof.Machine.execWatchdogExpiry p s
  | .watchdogKick m pairs => Sys2Proof.Machine.execWatchdogKick m pairs s
  | .monitorHeartbeatMiss => Sys2Proof.Machine.execMonitorHeartbeatMiss s
  | .tempSample t0 t1 t2 t3 => Sys2Proof.Machine.execTempSample t0 t1 t2 t3 s
  | .cregSweep regs tabs => Sys2Proof.Machine.execCregSweep regs tabs s
  | .ruleSweep upsets => Sys2Proof.Machine.execRuleSweep upsets s
  | .periodicSelftest reported failed => Sys2Proof.Machine.execPeriodicSelftest reported failed s
  | .porterViolation x kinds => Sys2Proof.Machine.execPorterViolation x kinds s
  | .porterClear m x pinIdle checkOk => Sys2Proof.Machine.execPorterClear m x pinIdle checkOk s
  | .logRead m k => Sys2Proof.Machine.execLogRead m k s
  | .i2cWrite m k dev reg len data => Sys2Proof.Machine.execI2cWrite m k dev reg len data s
  | .i2cRead m k dev reg len => Sys2Proof.Machine.execI2cRead m k dev reg len s
  | .i2cTransactionEnd k how data => Sys2Proof.Machine.execI2cTransactionEnd k how data s
  | .i2cBusHeld k => Sys2Proof.Machine.execI2cBusHeld k s
  | .jtagInstruction k => Sys2Proof.Machine.execJtagInstruction k s
  | .tapReset => Sys2Proof.Machine.execTapReset s
  | .dozeWake x => Sys2Proof.Machine.execDozeWake x s
  | .tribTxE1Frame n => Sys2Proof.Machine.execTribTxE1Frame n s
  | .hostLinkUp speed width rev => Sys2Proof.Machine.execHostLinkUp speed width rev s
  | .clockInputChange k present => Sys2Proof.Machine.execClockInputChange k present s
  | .railReturn rail => Sys2Proof.Machine.execRailReturn rail s

end Sys2Proof.Machine
end

