-- ==== Sys2Proof/Machine/Step.lean ====
section
/-! DEFINITION. One step: the command at the front of the queue takes effect with the queue's rest; with no command waiting one
ccy passes (assumption 1). -/

namespace Sys2Proof.Machine
open Sys2Proof

/-- The state with the front command taken off the queue. -/
def State.rest (s : State) : State := { s with pending := s.pending.tail }

/-- One step of the terminal. -/
def step (s : State) : Host.Outcome State Fault Refusal :=
  match s.pending with
  | [] => idle s
  | i :: _ => exec i s.rest

/-- The state with a command that a table word spells put at the front of the queue. -/
def State.withFetchWord (s : State) (nbits w : Nat) : State :=
  match decodeTableWord nbits w with
  | some i => { s with pending := i :: s.pending }
  | none => s

end Sys2Proof.Machine
end

