-- ==== Sys2Proof/Safety.lean ====
section
/-! DEFINITION. The terms that statements about the terminal are made in: what a command answers, what it leaves as it was, and
what may become of the fuses. -/

namespace Sys2Proof.Machine
open Sys2Proof

/-! ## What a command leaves as it was -/

/-- The registers that follow other state at every moment, whatever command runs: the core clock's source and lock (R5, R384),
TRACEABLE (R272), the waits and the lines' fitness (R118, R131), the container pairs (R133) and LMS_LOW (R105). -/
def standingReg (a : Nat) : Bool :=
  a == CLK_STATUS || a == CLK_ALARM || a == NTU_STATUS || a == TWE_STATUS || a == LPx_ACT_ALARM .a || a == LPx_ACT_ALARM .b ||
    (List.range 32).any fun k => a == TWE_SEL_STATUS k

/-- The waits that start and stop with that state (R118, R131, R133). -/
def standingWait : TimerKey → Bool
  | .actWtr | .tmRevert | .selHold _ | .selWtr _ => true
  | _ => false

/-- The pages of the Tallyman, which counts the events of every command (R359). -/
def tallyPage (a : Nat) : Bool := a / 65536 == 6 || a / 65536 == 7

/-- A message of the interrupt tree or of a ring (R23, R300). -/
def Output.isMessage : Output → Bool
  | .msix _ _ => true
  | _ => false

/-- The pieces of the terminal's state beside its registers, counters and timers. -/
inductive Piece where
  | clock | staged | config | access | free | power | itm | pins | line (x : Line) | trust | twoEnded | sorter | cooper | meters
  | drover | boot | flash | tribs | conts | tsi | time | cfg | ports | serial | host | keys | sent
  deriving DecidableEq, Repr

/-- A field as it stands, or blank where its piece is named. -/
def keep {α : Type} (ps : List Piece) (p : Piece) (blank x : α) : α := if p ∈ ps then blank else x

/-- The terminal without its registers, counters, timers and Tallyman, without the messages sent and pending, and without the
pieces named. -/
def Chip.body (ps : List Piece) (c : Chip) : Chip :=
  {
    now := keep ps .clock 0 c.now
    nt := keep ps .clock {} c.nt
    lastFrame := keep ps .clock [] c.lastFrame
    staged := keep ps .staged [] c.staged
    tableStaged := keep ps .staged [] c.tableStaged
    lockWritten := keep ps .staged false c.lockWritten
    store := keep ps .config [] c.store
    tables := keep ps .config [] c.tables
    tableStore := keep ps .config [] c.tableStore
    everCommitted := keep ps .config false c.everCommitted
    latch := keep ps .access [] c.latch
    hold := keep ps .access [] c.hold
    posted := keep ps .access [] c.posted
    copies := keep ps .access [] c.copies
    mgtWrote := keep ps .access false c.mgtWrote
    freeCtr := keep ps .free 0 c.freeCtr
    power := keep ps .power {} c.power
    itm := keep ps .itm {} c.itm
    pins := keep ps .pins {} c.pins
    lineA := keep ps (.line .a) {} c.lineA
    lineB := keep ps (.line .b) {} c.lineB
    trust := keep ps .trust {} c.trust
    twoEnded := keep ps .twoEnded {} c.twoEnded
    sorter := keep ps .sorter {} c.sorter
    cooper := keep ps .cooper {} c.cooper
    meters := keep ps .meters [] c.meters
    drover := keep ps .drover {} c.drover
    boot := keep ps .boot {} c.boot
    flash := keep ps .flash [] c.flash
    tribs := keep ps .tribs [] c.tribs
    conts := keep ps .conts [] c.conts
    tsi := keep ps .tsi {} c.tsi
    time := keep ps .time {} c.time
    cfg := keep ps .cfg {} c.cfg
    ports := keep ps .ports [] c.ports
    stampLatch := keep ps .ports [] c.stampLatch
    mdio := keep ps .serial [] c.mdio
    i2c := keep ps .serial [] c.i2c
    keys := keep ps .keys {} c.keys
    emitted := keep ps .sent [] (c.emitted.filter fun o => !o.isMessage)
    host := keep ps .host {} { c.host with pba := 0 } }

/-- `d` differs from `c` in the registers `R`, the counters `C`, the timers `K` and the pieces `ps` alone, beside what the
Tallyman counts and what follows other state at every moment. -/
structure Chip.Within (R C : Nat → Bool) (K : TimerKey → Bool) (ps : List Piece) (c d : Chip) : Prop where
  reg : ∀ a, R a = false → standingReg a = false → tallyPage a = false → d.reg a = c.reg a
  ctr : ∀ a, C a = false → tallyPage a = false → d.ctr a = c.ctr a
  timer : ∀ k, K k = false → standingWait k = false → d.deadline k = c.deadline k
  body : d.body ps = c.body ps

/-- As `Chip.Within`, with the registers, counters and timers listed. -/
abbrev Chip.Only (rs cs : List Nat) (ks : List TimerKey) (ps : List Piece) : Chip → Chip → Prop :=
  Chip.Within rs.contains cs.contains ks.contains ps

/-- What the terminal has sent beside messages, the newest first. -/
def Chip.sent (c : Chip) : List Output := c.emitted.filter fun o => !o.isMessage

/-! ## What a command answers -/

/-- The command completes: it answers a next state with the fuses and the queue as they were, and its blocks are as `P` says. -/
def Does (i : Instr) (s : State) (P : Chip → Prop) : Prop :=
  ∃ t, exec i s = .next t ∧ t.pending = s.pending ∧ t.otp = s.otp ∧ P t.chip

/-- The command completes with the queue as it was, and its blocks and fuses are as `P` says. -/
def DoesFuse (i : Instr) (s : State) (P : Chip → Otp → Prop) : Prop :=
  ∃ t, exec i s = .next t ∧ t.pending = s.pending ∧ P t.chip t.otp

/-! ## Lines -/

/-- A line message reaches a line that holds no message key, unharmed, with the all-zero MIC of R71. -/
abbrev Chip.HearsOpen (c : Chip) (x : Line) (m : Msg) : Prop :=
  c.hearsMessages x = true ∧ (m.tid = c.f (LPx_IDENT_TID x) ∨ m.tid = 0x3FF) ∧ m.errored = false ∧
    (c.line x).micKey = none ∧ m.mic = List.replicate 8 0

/-- A unicast line message reaches a line that holds a message key, unharmed, with a valid MIC over its bytes and a SEQ above the
last one accepted (R71, R72). -/
abbrev Chip.HearsKeyed (c : Chip) (x : Line) (m : Msg) (type : Nat) (content : List Byte) : Prop :=
  c.hearsMessages x = true ∧ m.tid = c.f (LPx_IDENT_TID x) ∧ m.tid ≠ 0x3FF ∧ m.errored = false ∧
    ((c.line x).micKey.any fun key => micOf key m.fn false x (msgBytes m.tid type m.ackreq m.seq content) == m.mic) = true ∧
    ((c.line x).lastSeq.all fun q => decide (q < m.seq)) = true

/-- A line message that is accepted with or without a key (R71, R72), on a line that is not in Proving with a key. -/
abbrev Chip.Hears (c : Chip) (x : Line) (m : Msg) (type : Nat) (content : List Byte) : Prop :=
  c.HearsOpen x m ∨ (c.HearsKeyed x m type content ∧ c.actState x ≠ stProving)

/-- The line messages of Table 3.5: the line, the message, its type and its content bytes. -/
def lineMessage : Instr → Option (Line × Msg × Nat × List Byte)
  | .profile x m ps => some (x, m, 0x01, ps.flatMap fun p => beBytes 2 p.len ++ beBytes 4 p.pat.toNat)
  | .tidAssign x m serial tid => some (x, m, 0x02, beBytes 8 serial ++ beBytes 2 tid)
  | .eqdAssign x m eqd fn => some (x, m, 0x03, beBytes 4 eqd ++ beBytes 6 fn)
  | .eqdAdjust x m delta fn => some (x, m, 0x04, beBytes 4 delta.toNat ++ beBytes 6 fn)
  | .allocAssign x m n es => some (x, m, 0x05, allocContent n es)
  | .nonce x m nonce => some (x, m, 0x06, slice nonce 0 32)
  | .bulkAnnounce x m type size hash => some (x, m, 0x07, beBytes 4 (type * 2 ^ 24) ++ beBytes 4 size ++ slice hash 0 32)
  | .keyRoll x m first last gen fn => some (x, m, 0x08, beBytes 2 first ++ beBytes 2 last ++ beBytes 1 gen ++ beBytes 6 fn)
  | .sleepGrant x m mode start wake => some (x, m, 0x09, beBytes 1 mode ++ beBytes 6 start ++ beBytes 6 wake)
  | .tod x m fn sec ns => some (x, m, 0x0A, beBytes 6 fn ++ beBytes 6 sec ++ beBytes 4 ns)
  | .emergencyStop x m serial _ => some (x, m, 0x10, beBytes 8 serial)
  | .silenceRelease x m serial size => some (x, m, 0x11, beBytes 8 serial ++ beBytes 4 size)
  | .deactivate x m serial => some (x, m, 0x12, beBytes 8 serial)
  | .regAccess x m n es => some (x, m, 0x13, regContent n es)
  | _ => none

/-- The line has no identity (R93): no TID, EqD 0, no bindings, no keys, no pending grants. -/
abbrev Chip.Anonymous (c : Chip) (x : Line) : Prop :=
  c.f (LPx_IDENT_TID x) = 0x3FF ∧ c.f (LPx_IDENT_EQD x) = 0 ∧ c.flag (LPx_ACT_STATUS_KEYED x) = false ∧
    (c.line x).micKey = none ∧ (c.line x).lineKey = none ∧ (c.line x).grants = [] ∧
    ∀ n < 64, c.flag (LPx_ALLOC_VALID x n) = false

/-- What an accepted line message touches beside its own effect: its count, and what waits for the bulk channel as its answer. -/
def heardCtrs (x : Line) : List Nat := [N_LPx_MSG_RX x]

/-- What a unicast message under the key touches too: the LOM level and its timer (R109). -/
def keyedRegs (x : Line) : List Nat := [LPx_ACT_ALARM_STATE x]

/-- The timers of the activation states. -/
def stateTimers (x : Line) : List TimerKey := [.line x .annWait, .line x .rangeTo, .line x .proveTo, .line x .hold]

/-- What clearing a line's identity touches (R93, R127). -/
def identityRegs (x : Line) : List Nat :=
  [LPx_IDENT x, LPx_ACT_STATUS x, LPx_KEY_ROLL_STATUS x, LPx_GRANT_STATUS x] ++ (List.range 256).map fun i => LPx_ALLOC x 0 + i
def identityCtrs (x : Line) : List Nat := [N_LPx_GRANT_LOST x, N_TWE_UP_REL_A + 8 * x.idx, N_COP_FRAMES_OUT]
def identityTimers (x : Line) : List TimerKey := stateTimers x ++ [.line x .lom, .line x .roll]
def identityPieces (x : Line) : List Piece := [.line x, .cooper, .drover]

/-- The equaliser registers of a line (R33). -/
def equaliserRegs (x : Line) : List Nat :=
  LNx_EQ_CTRL x :: (((List.range 3).map fun k => LNx_EQ_DFE x k) ++ (List.range 12).map fun k => LNx_EQ_FFE x k)

/-- What loss of a line touches (R35, R42, Table 4.2). -/
def lossRegs (x : Line) : List Nat := LNx_RX_STATUS x :: LNx_ALARM x :: LNx_ALARM_STATE x :: LNx_HUNT_STATUS x :: identityRegs x
def lossCtrs (x : Line) : List Nat := N_LNx_LOF_EVT x :: N_LPx_HOLD_ENTRY x :: identityCtrs x
def lossTimers (x : Line) : List TimerKey := .line x .lofAcq :: .line x .acquire :: identityTimers x

/-- The activation state after loss of line: Working outside a deep sleep holds, Silenced and Holding stay, the others are Dark. -/
def afterLoss (st sleep : Nat) : Nat :=
  if st = stWorking then (if 2 ≤ sleep then stWorking else stHolding)
  else if st = stListening ∨ st = stAnnouncing ∨ st = stRanging ∨ st = stProving then stDark else st

/-- Whether a register is on one of some pages of 64 KiB. -/
def onPages (ps : List Nat) (a : Nat) : Bool := ps.contains (a / 65536)

/-! ## Power -/

/-- The registers of the power sequencer, with CLK_RUN, which follows the domains (R384). -/
def powerReg (a : Nat) : Bool := a / 65536 == 2 || a == CLK_RUN

/-- The counters of the power sequencer. -/
def powerCtr (a : Nat) : Bool := a / 65536 == 2

/-- The timers of drains and wake steps. -/
def powerTimer : TimerKey → Bool
  | .drain _ | .wake _ => true
  | _ => false

/-! ## Register accesses -/

/-- Whether a master may make an access, and the register's block takes it: the master's accesses reach the interconnect, it has the
privilege (R348), no lock bars it (R356), and the block is on (R357). -/
def Chip.admits1 (c : Chip) (m : Master) (write : Bool) (a : Nat) : Bool :=
  (target a).any fun t => !c.violates m t write && !(write && c.barred t) && (t.shadow || (write && t.staged) || !c.isOff t)

/-- The same for several registers; in recovery mode the management SPI reaches few (R322). -/
abbrev Chip.admits (c : Chip) (m : Master) (write : Bool) (as : List Nat) : Prop :=
  c.reaches m = true ∧ (m = .mgt → c.boot.recovery = false) ∧ (as.all (c.admits1 m write)) = true

/-- The registers whose write starts an action, or whose written value is not what a later read shows. -/
def actionRegs : List Nat :=
  [CFG_CTRL, CFG_ROOT_BIND, CFG_SAVE, CFG_OBJ_CTRL, CFG_OBJ_DATA, NVM_CMD, PWR_REQ, ITM_SAFE, ITM_WDOG_KICK, ITM_LOG_ADDR, ITM_PTR_CTRL .a,
    ITM_PTR_CTRL .b, TOP_I2C_CMD 0, TOP_I2C_CMD 1, TOP_I2C_DATA 0, TOP_I2C_DATA 1, ETH_MDIO_CMD 0, ETH_MDIO_CMD 1, ETH_WK_ADDR, TWE_FLOW_ADDR,
    CAR_FT_ADDR, SRT_TBL_ADDR, COP_Q_ADDR, TOL_TBL_ADDR, DRV_TBL_ADDR, TSI_CTRL, TSI_CM_ADDR, NTU_CAP, NTU_TBL_ADDR, TAL_CTRL, TAL_SNAP_VIEW, MGT_STATUS, KEY_CMD,
    KEY_BUF_DATA]

/-- Whether a register only holds what is written to it. -/
def plainReg (a : Nat) : Bool := !actionRegs.contains a && (eqReg a).isNone && (cfgRing a).isNone && !standingReg a && !tallyPage a

/-- Whether a shadow is that of PWR_DOMn of a domain that is always ON (R385). -/
def Target.fixedOn (t : Target) : Bool := t.row.name == "PWR_DOMn" && neverDown (t.idx.headD 0)

/-- A register after a write of the bits of `k` (R7, R350): fields RW, MW, PW and WO take the bit written, W1C bits written 1 clear, and
every other bit stays. -/
abbrev tookWrite (r : RegRow) (old v : Word) (k : Nat) (new : Word) : Prop :=
  ∀ i < 32, new.getLsbD i = if bitOf k i = true ∧ bitOf (r.mask fun x => x == .rw || x == .mw || x == .pw || x == .wo) i = true then v.getLsbD i
    else if bitOf k i = true ∧ bitOf (r.mask fun x => x == .w1c) i = true then old.getLsbD i && !v.getLsbD i
    else old.getLsbD i

/-- The data registers of a table window. -/
def tableData (base n : Nat) : List Nat := (List.range n).map fun k => base + 4 * k

/-- An entry of a table is staged for the next commit, and nothing else is (R143, R207, R333). -/
abbrev Chip.Stages (k v : Nat) (c d : Chip) : Prop :=
  Map.get none d.tableStaged k = some v ∧ (∀ j, j ≠ k → Map.get none d.tableStaged j = Map.get none c.tableStaged j) ∧
    d.staged = c.staged ∧ d.lockWritten = c.lockWritten

/-! ## Packets and bursts -/

/-- The burst that an output is: its line, its grant's FN, and the word at which it starts. -/
def Output.burstAt : Output → Option (Line × Nat × Nat)
  | .burst x fn start _ => some (x, fn, start)
  | _ => none

/-- `d` differs from `c` on some pages of registers and counters, in some timers and in some pieces alone, beside what the
Tallyman counts and what follows other state at every moment. -/
abbrev Chip.InPages (pages : List Nat) (ks : List TimerKey) (ps : List Piece) : Chip → Chip → Prop :=
  Chip.Within (onPages pages) (onPages pages) ks.contains ps

/-- The timers of the Ethernet ports and their lanes. -/
def portTimer : TimerKey → Bool
  | .pause _ | .xoff _ | .verify _ | .polarity _ => true
  | _ => false

/-- The registers and counters of the Ethernet ports, of their lanes, and of the ports' guarantees. -/
def portPage (a : Nat) : Bool := onPages [5, 24, 25, 26, 35] a

/-- The pages of a line's lane and frame registers. -/
def linePages (x : Line) : List Nat := [8 + 2 * x.idx, 9 + 2 * x.idx]

/-! ## The fuses -/

/-- The grade is one that is shipped, and the grade without the host cipher is the one with the fuse blown (R2, R3); the floors are
63-bit thermometers, and the operator roots are written together (R331, R332). -/
abbrev Otp.Legal (o : Otp) : Prop :=
  1 ≤ o.grade ∧ o.grade ≤ 3 ∧ (o.hcs = true ↔ o.grade = 3) ∧ o.fwFloor ≤ 63 ∧ o.cfgFloor ≤ 63 ∧ (o.bound = false → o.ecRoot = [] ∧ o.hssRoot = [])

/-- What programming may do to the fuses: the floors never fall, roots once bound stay, and what manufacture wrote stays. -/
abbrev Otp.Grows (o p : Otp) : Prop :=
  o.fwFloor ≤ p.fwFloor ∧ o.cfgFloor ≤ p.cfgFloor ∧ (o.bound = true → p.bound = true ∧ p.ecRoot = o.ecRoot ∧ p.hssRoot = o.hssRoot) ∧
    p.serial = o.serial ∧ p.grade = o.grade ∧ p.hcs = o.hcs ∧ p.vendorId = o.vendorId ∧ p.lifecycle = o.lifecycle ∧
    p.vendorEc = o.vendorEc ∧ p.vendorHss = o.vendorHss

end Sys2Proof.Machine
end

