-- ==== Sys2Proof/Certificates/Slice0/Obligations.lean ====
section
/-! DEFINITION. The statements for the provers. Each says which rules of the spec it states; `Does` (Sys2Proof/Safety.lean) says
that a command answers a next state with the queue and the fuses as they were, and `Chip.Only` what it leaves as it was. -/

open Sys2Proof Sys2Proof.Machine

/-! ## Activation -/

/-- R93, R96, R98, R100, Tables 3.5 and 4.2: what the messages that a line without a key takes do to it.
Where the rules leave a choice it follows the model's (assumption log entries 70 and 90). -/
def Obligations.MessagesThatRangeALine : Prop :=
  (∀ (x : Line) (m : Msg) (len : Nat) (pat : Word) (s : State), s.chip.HearsOpen x m → s.chip.actState x ≠ stDark →
    32 ≤ len → len ≤ 1024 →
    Does (.profile x m [⟨len, pat⟩]) s fun c =>
      c.f (LPx_PROF_LEN_LEN x 0) = len ∧ c.reg (LPx_PROF_PAT x 0) = pat ∧
      Chip.Only (LPx_PROF_LEN x 0 :: LPx_PROF_PAT x 0 :: keyedRegs x) (heardCtrs x) [] [.line x] s.chip c) ∧
  (∀ (x : Line) (m : Msg) (serial tid : Nat) (s : State), s.chip.HearsOpen x m → serial = s.otp.serial → serial < 2 ^ 64 →
    (s.chip.actState x = stAnnouncing ∨ s.chip.actState x = stRanging) → tid % 1024 ≠ 0x3FF →
    Does (.tidAssign x m serial tid) s fun c =>
      c.actState x = stRanging ∧ c.f (LPx_IDENT_TID x) = tid % 1024 ∧ c.f (LPx_IDENT_EQD x) = 0 ∧ (c.line x).eqds = [] ∧
      c.deadline (.line x .rangeTo) = some (s.chip.now + max 80 (s.chip.f (LPx_ACT_TMR1_RANGE_TO x)) * frameCcy) ∧
      c.ctr (N_LPx_MSG_RX x) = s.chip.ctr (N_LPx_MSG_RX x) + 1 ∧
      Chip.Only (LPx_IDENT x :: LPx_ACT_STATUS x :: keyedRegs x) (heardCtrs x) (stateTimers x) [.line x] s.chip c) ∧
  (∀ (x : Line) (m : Msg) (eqd fn : Nat) (s : State), s.chip.HearsOpen x m → (m.tid ≠ 0x3FF ∨ s.chip.f (LPx_IDENT_TID x) = 0x3FF) →
    s.chip.actState x = stRanging →
    Does (.eqdAssign x m eqd fn) s fun c =>
      c.actState x = stProving ∧ c.f (LPx_PROVE_STATUS_RESULT x) = 0 ∧ c.f (LPx_PROVE_STATUS_STEP x) = 0 ∧
      (c.line x).eqds = addEqd (s.chip.line x).eqds ⟨max (fn % 2 ^ 48) (m.fn + 2), ((eqd % 2 ^ 22 : Nat) : Int), false⟩ ∧
      c.f (LPx_EQD_ACC_ACC x) = 0 ∧ c.flag (LPx_ACT_ALARM_STATE_DRIFT x) = false ∧
      c.deadline (.line x .proveTo) = some (s.chip.now + max 100 (s.chip.f (LPx_ACT_TMR1_PROVE_TO x)) * msCcy) ∧
      Chip.Only (LPx_ACT_STATUS x :: LPx_PROVE_STATUS x :: LPx_EQD_ACC x :: keyedRegs x) (heardCtrs x) (stateTimers x) [.line x] s.chip c) ∧
  (∀ (x : Line) (m : Msg) (nonce : List Byte) (s : State), s.chip.HearsOpen x m → (m.tid ≠ 0x3FF ∨ s.chip.f (LPx_IDENT_TID x) = 0x3FF) →
    s.chip.actState x = stProving → s.chip.trust.nextLeaf < 2 ^ 20 →
    Does (.nonce x m nonce) s fun c =>
      c.f (LPx_PROVE_STATUS_STEP x) = 1 ∧ (c.line x).proof.map (·.nonce) = some (slice nonce 0 32) ∧
      (c.line x).proof.map (·.signed) = some false ∧ (c.line x).bulkOut = (s.chip.line x).bulkOut.filter (fun b => !b.attest) ∧
      Chip.Only (LPx_PROVE_STATUS x :: keyedRegs x) (heardCtrs x) [] [.line x] s.chip c)

/-- R73, R74, R93, R98, R99, R110, R111, R346, Table 3.5: what the messages under the key do to a line in Working.
Where the rules leave a choice it follows the model's (assumption log entries 70 and 90). -/
def Obligations.MessagesUnderTheKey : Prop :=
  (∀ (x : Line) (m : Msg) (delta : BitVec 32) (fn : Nat) (s : State),
    s.chip.HearsKeyed x m 0x04 (beBytes 4 delta.toNat ++ beBytes 6 fn) → s.chip.actState x = stWorking →
    Does (.eqdAdjust x m delta fn) s fun c =>
      let at_ := max (fn % 2 ^ 48) (m.fn + 2)
      let v : Int := (s.chip.eqdFor x at_ : Int) + delta.toInt
      (if 0 ≤ v ∧ v ≤ 4194303 then
        (c.line x).eqds = addEqd (s.chip.line x).eqds ⟨at_, delta.toInt, true⟩ ∧
        c.ctr (N_LPx_EQD_REFUSED x) = s.chip.ctr (N_LPx_EQD_REFUSED x) ∧
        signed 24 (c.f (LPx_EQD_ACC_ACC x)) = clampInt (-8388608) 8388607 (signed 24 (s.chip.f (LPx_EQD_ACC_ACC x)) + delta.toInt) ∧
        c.flag (LPx_ACT_ALARM_STATE_DRIFT x) = (if s.chip.flag (LPx_ACT_ALARM_STATE_DRIFT x) then
            decide (s.chip.f (LPx_DRIFT_CFG_THR x) / 2 < (signed 24 (c.f (LPx_EQD_ACC_ACC x))).natAbs)
          else decide (s.chip.f (LPx_DRIFT_CFG_THR x) < (signed 24 (c.f (LPx_EQD_ACC_ACC x))).natAbs))
      else (c.line x).eqds = (s.chip.line x).eqds ∧ c.ctr (N_LPx_EQD_REFUSED x) = s.chip.ctr (N_LPx_EQD_REFUSED x) + 1 ∧
        c.reg (LPx_EQD_ACC x) = s.chip.reg (LPx_EQD_ACC x)) ∧
      (c.line x).lastSeq = some m.seq ∧
      Chip.Only (LPx_EQD_ACC x :: keyedRegs x) (N_LPx_EQD_REFUSED x :: heardCtrs x) [.line x .lom] [.line x] s.chip c) ∧
  (∀ (x : Line) (m : Msg) (e : AllocEntry) (s : State),
    s.chip.HearsKeyed x m 0x05 (allocContent 1 [e]) → s.chip.actState x = stWorking →
    e.port < 64 → 0x400 ≤ e.alloc → e.alloc ≤ 0x3FFE → bitOf e.flags 0 = true →
    Does (.allocAssign x m 1 [e]) s fun c =>
      c.flag (LPx_ALLOC_VALID x e.port) = true ∧ c.f (LPx_ALLOC_ALLOC x e.port) = e.alloc ∧
      (∀ n < 64, n ≠ e.port → c.flag (LPx_ALLOC_VALID x n) = true → c.f (LPx_ALLOC_ALLOC x n) ≠ e.alloc) ∧
      Chip.Only (keyedRegs x ++ (List.range 64).map fun n => LPx_ALLOC x n) (heardCtrs x) [.line x .lom] [.line x] s.chip c) ∧
  (∀ (x : Line) (m : Msg) (first last gen fn : Nat) (s : State),
    s.chip.HearsKeyed x m 0x08 (beBytes 2 first ++ beBytes 2 last ++ beBytes 1 gen ++ beBytes 6 fn) → s.chip.actState x = stWorking →
    first ≤ last → last ≤ 0xFFE →
    ((List.range (last + 1 - first)).all fun i => ((s.chip.line x).rolled (first + i) + 1) % 2 == gen % 2) = true →
    ((s.chip.line x).rolls.any fun r => decide (r.first ≤ last) && decide (first ≤ r.last)) = false →
    Does (.keyRoll x m first last gen fn) s fun c =>
      (c.line x).rolls = (s.chip.line x).rolls ++ [{ first := first, last := last, fn := max (fn % 2 ^ 48) (m.fn + 2) }] ∧
      c.f (LPx_KEY_ROLL_STATUS_FIRST x) = first ∧ c.f (LPx_KEY_ROLL_STATUS_LAST x) = last ∧
      c.f (LPx_KEY_ROLL_STATUS_GEN x) = gen % 2 ∧ c.flag (LPx_KEY_ROLL_STATUS_OVERLAP x) = true ∧
      c.reg (LPx_KEY_ROLL_FN x) = BitVec.ofNat 32 (max (fn % 2 ^ 48) (m.fn + 2)) ∧
      c.ctr (N_LPx_KEY_ROLL_OK x) = s.chip.ctr (N_LPx_KEY_ROLL_OK x) + 1 ∧
      Chip.Only (LPx_KEY_ROLL_STATUS x :: LPx_KEY_ROLL_FN x :: keyedRegs x) (N_LPx_KEY_ROLL_OK x :: heardCtrs x) [.line x .lom] [.line x] s.chip c) ∧
  (∀ (x : Line) (m : Msg) (mode start wake : Nat) (s : State),
    s.chip.HearsKeyed x m 0x09 (beBytes 1 mode ++ beBytes 6 start ++ beBytes 6 wake) → s.chip.actState x = stWorking →
    (mode = 1 ∧ s.chip.flag (LPx_SLEEP_CFG_DOZE_EN x) = true ∧ wake ≤ max start (m.fn + 2) + 268435455 ∨
      mode = 2 ∧ s.chip.flag (LPx_SLEEP_CFG_DEEP_EN x) = true ∧ wake ≤ max start (m.fn + 2) + 65535) →
    start < 2 ^ 48 → wake < 2 ^ 48 → max start (m.fn + 2) < wake →
    Does (.sleepGrant x m mode start wake) s fun c =>
      (c.line x).sleep = some { mode := mode, start := max start (m.fn + 2), wake := wake } ∧
      c.pair (LPx_SLEEP_WAKE_LO x) = wake ∧
      Chip.Only (LPx_SLEEP_WAKE_LO x :: LPx_SLEEP_WAKE_HI x :: keyedRegs x) (heardCtrs x) [.line x .lom] [.line x] s.chip c) ∧
  (∀ (x : Line) (m : Msg) (serial : Nat) (s : State),
    s.chip.HearsKeyed x m 0x12 (beBytes 8 serial) → s.chip.actState x = stWorking → serial = s.otp.serial → serial < 2 ^ 64 →
    s.chip.flag (LPx_ACT_STATUS_DISABLED x) = false →
    Does (.deactivate x m serial) s fun c =>
      c.Anonymous x ∧ c.actState x = stListening ∧ (c.line x).holdoff = true ∧
      c.deadline (.line x .holdoff) = some (s.chip.now + s.chip.f (LPx_ACT_TMR2_ANN_HOLDOFF x) * msCcy) ∧
      Chip.Only (identityRegs x ++ keyedRegs x) (heardCtrs x ++ identityCtrs x) (.line x .holdoff :: identityTimers x) (identityPieces x) s.chip c) ∧
  (∀ (x : Line) (m : Msg) (n : Nat) (es : List RegEntry) (s : State),
    s.chip.HearsKeyed x m 0x13 (regContent n es) → s.chip.actState x = stWorking → 1 ≤ n → n ≤ 4 → (s.chip.line x).regQueue.length < 16 →
    Does (.regAccess x m n es) s fun c =>
      (c.line x).regQueue = (s.chip.line x).regQueue ++ [{ seq := m.seq, entries := (List.range n).map fun k => es.getD k {} }] ∧
      Chip.Only (keyedRegs x) (heardCtrs x) [.line x .lom] [.line x] s.chip c)

/-- R106, R107, R108: how a line is silenced and how a release ends the silence.
Where the rules leave a choice it follows the model's (assumption log entries 4, 90 and 114). -/
def Obligations.StopAndRelease : Prop :=
  (∀ (x : Line) (m : Msg) (serial : Nat) (written : Bool) (s : State), s.chip.Hears x m 0x10 (beBytes 8 serial) →
    serial = s.otp.serial → serial < 2 ^ 64 → 1 ≤ s.chip.actState x → s.chip.actState x ≤ 5 →
    Does (.emergencyStop x m serial written) s fun c =>
      if s.chip.flag (LNx_TX_STATUS_IN_BURST x) = true then
        (c.line x).stopSrc = some 0 ∧ c.actState x = s.chip.actState x ∧
        Chip.Only (keyedRegs x) (heardCtrs x) [.line x .lom] [.line x] s.chip c
      else
        c.Anonymous x ∧ c.actState x = stSilenced ∧ c.f (LPx_SILENCE_SRC x) = 0 ∧
        c.f (LPx_SIL_COUNT_COUNT x) = (s.chip.f (LPx_SIL_COUNT_COUNT x) + 1) % 2 ^ 32 ∧
        c.ctr (N_LPx_ESTOP x) = s.chip.ctr (N_LPx_ESTOP x) + 1 ∧
        (if written = true then
          c.trust = s.chip.trust.silenced x true ((s.chip.f (LPx_SIL_COUNT_COUNT x) + 1) % 2 ^ 32) ∧ c.flag (LPx_SILENCE_SIL_NVM x) = true
        else c.trust = s.chip.trust ∧ c.deadline (.line x .silRetry) = some (s.chip.now + 100 * msCcy)) ∧
        Chip.Only (LPx_SIL_COUNT x :: LPx_SILENCE x :: (identityRegs x ++ keyedRegs x)) (N_LPx_ESTOP x :: (heardCtrs x ++ identityCtrs x))
          (.line x .silRetry :: identityTimers x) (.trust :: identityPieces x) s.chip c) ∧
  (∀ (x : Line) (written : Bool) (src : Nat) (s : State), (s.chip.line x).stopSrc = some src → (s.chip.line x).burstEnd = none → src < 4 →
    Does (.silenceEntry x written) s fun c =>
      c.Anonymous x ∧ c.actState x = stSilenced ∧ (c.line x).stopSrc = none ∧ c.f (LPx_SILENCE_SRC x) = src ∧
      c.f (LPx_SIL_COUNT_COUNT x) = (s.chip.f (LPx_SIL_COUNT_COUNT x) + 1) % 2 ^ 32 ∧
      Chip.Only (LPx_SIL_COUNT x :: LPx_SILENCE x :: identityRegs x) (N_LPx_ESTOP x :: identityCtrs x)
        (.line x .silRetry :: identityTimers x) (.trust :: identityPieces x) s.chip c) ∧
  (∀ (x : Line) (written : Bool) (d : Nat) (s : State), s.chip.deadline (.line x .silRetry) = some d →
    Does (.silenceRecordRetry x written) s fun c =>
      (if written = true then
        c.trust = s.chip.trust.silenced x true (s.chip.f (LPx_SIL_COUNT_COUNT x)) ∧ c.flag (LPx_SILENCE_SIL_NVM x) = true ∧
        c.deadline (.line x .silRetry) = none
      else
        c.trust = s.chip.trust ∧ (c.line x).silTries = (s.chip.line x).silTries + 1 ∧
        (if 8 ≤ (s.chip.line x).silTries + 1 then
          c.flag (LPx_ACT_ALARM_SIL_NVM_ERR x) = true ∧ c.deadline (.line x .silRetry) = none
        else c.deadline (.line x .silRetry) = some (max d s.chip.now + 100 * msCcy))) ∧
      Chip.Only [LPx_SILENCE x] [] [.line x .silRetry] [.line x, .trust] (s.chip.elapse (d - s.chip.now)) c) ∧
  (∀ (x : Line) (m : Msg) (serial size : Nat) (s : State), s.chip.HearsOpen x m → serial = s.otp.serial → serial < 2 ^ 64 →
    s.chip.actState x = stSilenced →
    Does (.silenceRelease x m serial size) s fun c =>
      (if size % 2 ^ 32 = 3240 then
        c.deadline (.line x .release) = some (s.chip.now + 800 * frameCcy) ∧ (c.line x).bulkIn = some { type := 3, size := 3240, hash := [] }
      else
        c.ctr (N_LPx_SIL_REL_FAIL x) = s.chip.ctr (N_LPx_SIL_REL_FAIL x) + 1 ∧ (c.line x).bulkIn = (s.chip.line x).bulkIn) ∧
      c.actState x = stSilenced ∧
      Chip.Only (keyedRegs x) (N_LPx_SIL_REL_FAIL x :: heardCtrs x) [.line x .release] [.line x] s.chip c) ∧
  (∀ (x : Line) (ob : BulkObj) (s : State), (s.chip.line x).bulkDone = some ob → ob.type = 3 → s.chip.actState x = stSilenced →
    Does (.silenceReleaseObject x) s fun c =>
      (c.line x).bulkDone = none ∧ c.deadline (.line x .release) = none ∧
      (if checkRelease s.otp x (s.chip.f (LPx_SIL_COUNT_COUNT x)) ob.data = true then
        c.trust = s.chip.trust.silenced x false (s.chip.f (LPx_SIL_COUNT_COUNT x)) ∧ c.flag (LPx_SILENCE_SIL_NVM x) = false ∧
        c.actState x = (if s.chip.inSync x && !s.chip.flag (LPx_ACT_STATUS_DISABLED x) then stListening else stDark)
      else
        c.actState x = stSilenced ∧ c.trust = s.chip.trust ∧ c.ctr (N_LPx_SIL_REL_FAIL x) = s.chip.ctr (N_LPx_SIL_REL_FAIL x) + 1) ∧
      Chip.Only [LPx_SILENCE x, LPx_ACT_STATUS x] [N_LPx_SIL_REL_FAIL x] (.line x .release :: .line x .silRetry :: stateTimers x)
        [.line x, .trust] s.chip c) ∧
  (∀ (x : Line) (d : Nat) (s : State), s.chip.deadline (.line x .release) = some d →
    Does (.silenceReleaseTimeout x) s fun c =>
      (c.line x).bulkIn = none ∧ c.deadline (.line x .release) = none ∧
      c.ctr (N_LPx_SIL_REL_FAIL x) = s.chip.ctr (N_LPx_SIL_REL_FAIL x) + 1 ∧
      Chip.Only [] [N_LPx_SIL_REL_FAIL x] [.line x .release] [.line x] (s.chip.elapse (d - s.chip.now)) c)

/-- R93, R96, R101, R109, Table 4.2: what the ends of the activation timers do. Each clause is about the timer's deadline `d`, up to
which time passes.
Where the rules leave a choice it follows the model's (assumption log entry 13). -/
def Obligations.ActivationTimersEnd : Prop :=
  (∀ (x : Line) (d : Nat) (s : State), s.chip.deadline (.line x .annWait) = some d → s.chip.actState x = stAnnouncing →
    Does (.annWaitExpiry x) s fun c =>
      c.f (LPx_ACT_STATUS_BACKOFF x) = min (s.chip.f (LPx_ACT_STATUS_BACKOFF x) + 1) (min 7 (s.chip.f (LPx_ACT_TMR0_BACKOFF_MAX x))) ∧
      (c.line x).skip < 2 ^ c.f (LPx_ACT_STATUS_BACKOFF x) ∧ c.actState x = stAnnouncing ∧
      c.ctr (N_LPx_ANN_NO_RESP x) = s.chip.ctr (N_LPx_ANN_NO_RESP x) + 1 ∧
      Chip.Only [LPx_ACT_STATUS x] [N_LPx_ANN_NO_RESP x] [.line x .annWait] [.line x, .free] (s.chip.elapse (d - s.chip.now)) c) ∧
  (∀ (x : Line) (d : Nat) (s : State), s.chip.deadline (.line x .rangeTo) = some d → s.chip.actState x = stRanging →
    Does (.rangeToExpiry x) s fun c =>
      c.Anonymous x ∧ c.actState x = (if s.chip.inSync x && !s.chip.flag (LPx_ACT_STATUS_DISABLED x) then stListening else stDark) ∧
      c.ctr (N_LPx_RNG_TIMEOUT x) = s.chip.ctr (N_LPx_RNG_TIMEOUT x) + 1 ∧
      Chip.Only (identityRegs x) (N_LPx_RNG_TIMEOUT x :: identityCtrs x) (identityTimers x) (identityPieces x) (s.chip.elapse (d - s.chip.now)) c) ∧
  (∀ (x : Line) (d : Nat) (s : State), s.chip.deadline (.line x .proveTo) = some d → s.chip.actState x = stProving →
    Does (.proveToExpiry x) s fun c =>
      c.Anonymous x ∧ c.actState x = (if s.chip.inSync x && !s.chip.flag (LPx_ACT_STATUS_DISABLED x) then stListening else stDark) ∧
      c.f (LPx_PROVE_STATUS_RESULT x) = 8 ∧ c.ctr (N_LPx_PROVE_FAIL x) = s.chip.ctr (N_LPx_PROVE_FAIL x) + 1 ∧
      c.flag (LPx_ACT_ALARM_PROVE_FAIL x) = true ∧ (c.line x).holdoff = true ∧
      Chip.Only (LPx_PROVE_STATUS x :: identityRegs x) (N_LPx_PROVE_FAIL x :: identityCtrs x) (.line x .holdoff :: identityTimers x)
        (identityPieces x) (s.chip.elapse (d - s.chip.now)) c) ∧
  (∀ (x : Line) (d : Nat) (s : State), s.chip.deadline (.line x .hold) = some d → s.chip.actState x = stHolding →
    Does (.holdExpiry x) s fun c =>
      c.Anonymous x ∧ c.actState x = (if s.chip.inSync x && !s.chip.flag (LPx_ACT_STATUS_DISABLED x) then stListening else stDark) ∧
      c.ctr (N_LPx_HOLD_EXP x) = s.chip.ctr (N_LPx_HOLD_EXP x) + 1 ∧ c.flag (LPx_ACT_ALARM_HOLD_EXP x) = true ∧
      Chip.Only (identityRegs x) (N_LPx_HOLD_EXP x :: identityCtrs x) (identityTimers x) (identityPieces x) (s.chip.elapse (d - s.chip.now)) c) ∧
  (∀ (x : Line) (d : Nat) (s : State), s.chip.deadline (.line x .holdoff) = some d →
    Does (.announceHoldoffEnd x) s fun c =>
      (c.line x).holdoff = false ∧ c.deadline (.line x .holdoff) = none ∧
      c.actState x = (if s.chip.actState x = stListening ∧ max 1 (s.chip.f (LPx_ACT_TMR0_LISTEN_MIN x)) ≤ (s.chip.line x).usableRun ∧
        s.chip.flag (LPx_ACT_CFG_ANN_EN x) = true ∧ s.chip.flag (ITM_PTR_STATUS_HELD x) = false then stAnnouncing else s.chip.actState x) ∧
      Chip.Only [LPx_ACT_STATUS x] [] (.line x .holdoff :: stateTimers x) [.line x] (s.chip.elapse (d - s.chip.now)) c) ∧
  (∀ (x : Line) (d : Nat) (key : List Byte) (s : State), s.chip.deadline (.line x .lom) = some d → (s.chip.line x).micKey = some key →
    s.chip.flag (LPx_ACT_ALARM_STATE_LOM x) = false →
    Does (.lomTimeout x) s fun c =>
      c.flag (LPx_ACT_ALARM_LOM x) = true ∧ c.flag (LPx_ACT_ALARM_STATE_LOM x) = true ∧
      c.ctr (N_LPx_LOM_EVT x) = s.chip.ctr (N_LPx_LOM_EVT x) + 1 ∧
      (if s.chip.actState x = stWorking ∧ s.chip.flag (LPx_ACT_CFG_LOM_DEACT x) = true then
        c.Anonymous x ∧ (c.line x).holdoff = true ∧
        Chip.Only (identityRegs x ++ keyedRegs x) (N_LPx_LOM_EVT x :: identityCtrs x) (.line x .holdoff :: identityTimers x)
          (identityPieces x) (s.chip.elapse (d - s.chip.now)) c
      else
        c.actState x = s.chip.actState x ∧
        Chip.Only (keyedRegs x) [N_LPx_LOM_EVT x] [.line x .lom] [] (s.chip.elapse (d - s.chip.now)) c))

/-- R78, R98, R110, R112: what comes due on a line at its FN. Each clause is about the instant of that FN.
Where the rules leave a choice it follows the model's (assumption log entries 13 and 70). -/
def Obligations.DueLineEvents : Prop :=
  (∀ (x : Line) (e : EqdChange) (rest : List EqdChange) (s : State), (s.chip.line x).eqds = e :: rest →
    Does (.eqdTakeEffect x) s fun c =>
      c.f (LPx_IDENT_EQD x) = s.chip.eqdFor x e.fn % 2 ^ 22 ∧ (c.line x).eqds = rest.filter (fun k => decide (e.fn < k.fn)) ∧
      c.ctr (N_LPx_EQD_CHG x) = s.chip.ctr (N_LPx_EQD_CHG x) + 1 ∧
      Chip.Only [LPx_IDENT x] [N_LPx_EQD_CHG x] [] [.line x] (s.chip.toInstant { fn := e.fn, cif := 0 }) c) ∧
  (∀ (x : Line) (r : KeyRoll) (rest : List KeyRoll) (s : State), (s.chip.line x).rolls = r :: rest →
    Does (.keyRollOverlapEnd x) s fun c =>
      (c.line x).rolls = rest ∧
      (∀ f : Nat, (c.line x).rolled f = (s.chip.line x).rolled f + (if r.first ≤ f ∧ f ≤ r.last then 1 else 0)) ∧
      c.flag (LPx_KEY_ROLL_STATUS_OVERLAP x) = (rest != [] && s.chip.flag (LPx_KEY_ROLL_STATUS_OVERLAP x)) ∧
      Chip.Only [LPx_KEY_ROLL_STATUS x] [] [] [.line x] (s.chip.toInstant { fn := r.fn + 16, cif := 0 }) c) ∧
  (∀ (x : Line) (p : SleepPlan) (s : State), (s.chip.line x).sleep = some p → s.chip.actState x = stWorking →
    s.chip.f (LPx_ACT_STATUS_SLEEP x) = 0 → p.mode < 4 → s.chip.power.jobs = [] → s.chip.power.queued = [] →
    Does (.sleepStart x) s fun c =>
      c.f (LPx_ACT_STATUS_SLEEP x) = p.mode ∧ c.ctr (N_LPx_SLEEP_ENTRY x) = s.chip.ctr (N_LPx_SLEEP_ENTRY x) + 1 ∧
      (c.line x).saved = (if p.mode = 2 then s.chip.savedLine x else (s.chip.line x).saved) ∧
      Chip.Within (fun a => a == LPx_ACT_STATUS x || powerReg a) (fun a => a == N_LPx_SLEEP_ENTRY x || powerCtr a) powerTimer
        [.line x, .power] (s.chip.toInstant { fn := p.start, cif := 0 }) c) ∧
  (∀ (x : Line) (p : SleepPlan) (s : State), (s.chip.line x).sleep = some p → p.mode = 1 → s.chip.f (LPx_ACT_STATUS_SLEEP x) = 1 →
    s.chip.power.jobs = [] → s.chip.power.queued = [] →
    Does (.dozeWake x) s fun c =>
      c.f (LPx_ACT_STATUS_SLEEP x) = 0 ∧ (c.line x).sleep = none ∧
      Chip.Within (fun a => a == LPx_ACT_STATUS x || powerReg a) powerCtr powerTimer
        [.line x, .power] (s.chip.toInstant { fn := p.wake, cif := 0 }) c)

/-- R100, R101, R102, R104, R105, R151: how the proof of identity goes on and ends, and how a bulk object is announced.
Where the rules leave a choice it follows the model's (assumption log entries 11, 21 and 69). -/
def Obligations.ProofOfIdentity : Prop :=
  (∀ (x : Line) (p : Proof) (s : State), (s.chip.line x).proof = some p → p.signed = false → s.chip.actState x = stProving →
    s.chip.trust.nextLeaf < 2 ^ 20 →
    Does (.attestSigned x true) s fun c =>
      c.trust = s.chip.trust.useLeaf s.chip.trust.nextLeaf ∧
      c.f (LPx_LMS_STATUS_NEXT_LEAF .a) = s.chip.trust.nextLeaf + 1 ∧ c.f (LPx_LMS_STATUS_NEXT_LEAF .b) = s.chip.trust.nextLeaf + 1 ∧
      (c.line x).proof = some { p with signed := true } ∧
      (c.line x).bulkOut.map (fun b => (b.type, b.message, b.bytes)) = (s.chip.line x).bulkOut.map (fun b => (b.type, b.message, b.bytes)) ++
        [(2, false, Config.identityRecord ++ attestation s.otp x p s.chip.trust.nextLeaf)] ∧
      Chip.Only [LPx_LMS_STATUS .a, LPx_LMS_STATUS .b] [] [] [.line x, .trust] s.chip c) ∧
  (∀ (x : Line) (p : Proof) (s : State), (s.chip.line x).proof = some p → p.signed = false → s.chip.actState x = stProving →
    s.chip.trust.nextLeaf < 2 ^ 20 →
    Does (.attestSigned x false) s fun c =>
      c.Anonymous x ∧ c.f (LPx_PROVE_STATUS_RESULT x) = 11 ∧ c.trust = s.chip.trust.skipBlock ∧
      c.ctr (N_LPx_PROVE_FAIL x) = s.chip.ctr (N_LPx_PROVE_FAIL x) + 1 ∧ (c.line x).holdoff = true ∧
      Chip.Only (LPx_LMS_STATUS .a :: LPx_LMS_STATUS .b :: LPx_PROVE_STATUS x :: identityRegs x) (N_LPx_PROVE_FAIL x :: identityCtrs x)
        (.line x .holdoff :: identityTimers x) (.trust :: identityPieces x) s.chip c) ∧
  (∀ (x : Line) (p : Proof) (ob : BulkObj) (s : State), (s.chip.line x).proof = some p → (s.chip.line x).bulkDone = some ob → ob.type = 1 →
    s.chip.actState x = stProving →
    Does (.headEndProof x) s fun c =>
      let r := checkProof s.otp x p (s.chip.f (LPx_HDR_STATUS_HE_ID x)) ob.data
      let prk := Config.hkdfExtract (slice p.nonce 0 32) (Config.ecdhX p.key (slice ob.data 3520 96))
      (c.line x).bulkDone = none ∧ c.f (LPx_PROVE_STATUS_RESULT x) = r ∧
      (if r = 1 then
        c.actState x = stProving ∧ c.flag (LPx_ACT_STATUS_KEYED x) = true ∧ (c.line x).proof = none ∧
        (c.line x).lineKey = some (Config.hkdfExpand prk (ascii "OAL-LMK" ++ keyContext s.otp x p.heId p.tid) 48) ∧
        (c.line x).micKey = some (Config.hkdfExpand prk (ascii "OAL-MIC" ++ keyContext s.otp x p.heId p.tid) 32) ∧
        (c.line x).bulkOut.length = (s.chip.line x).bulkOut.length + 1 ∧
        Chip.Only [LPx_ACT_STATUS x, LPx_PROVE_STATUS x] [] [.line x .lom] [.line x] s.chip c
      else
        c.Anonymous x ∧ c.ctr (N_LPx_PROVE_FAIL x) = s.chip.ctr (N_LPx_PROVE_FAIL x) + 1 ∧ (c.line x).holdoff = true ∧
        Chip.Only (LPx_PROVE_STATUS x :: identityRegs x) (N_LPx_PROVE_FAIL x :: identityCtrs x) (.line x .holdoff :: identityTimers x)
          (identityPieces x) s.chip c)) ∧
  (∀ (x : Line) (m : Msg) (type size : Nat) (hash : List Byte) (s : State),
    s.chip.Hears x m 0x07 (beBytes 4 (type * 2 ^ 24) ++ beBytes 4 size ++ slice hash 0 32) →
    (m.tid ≠ 0x3FF ∨ s.chip.f (LPx_IDENT_TID x) = 0x3FF) →
    (s.chip.actState x = stProving ∨ s.chip.actState x = stWorking ∨ s.chip.actState x = stSilenced) → type < 256 → size < 2 ^ 32 →
    Does (.bulkAnnounce x m type size hash) s fun c =>
      (if (type = 1 ∨ 0x10 ≤ type ∧ type ≤ 0x13) ∧ size ≤ 8388608 then
        (c.line x).bulkIn = some { type := type, size := size, hash := slice hash 0 32, ack := if 0x10 ≤ type ∧ m.ackreq = true then some m.seq else none } ∧
        (c.line x).bulkDone = none
      else (c.line x).bulkIn = (s.chip.line x).bulkIn ∧ (c.line x).bulkDone = (s.chip.line x).bulkDone) ∧
      c.actState x = s.chip.actState x ∧
      Chip.Only (keyedRegs x) (heardCtrs x) [.line x .lom] [.line x] s.chip c)

/-- R71, R72, R109: a line message that is not for the line changes nothing; an errored one, one without the key or with a wrong MIC,
and a replayed one change their counts alone, while the run of refusals stays below LOM_MIC_LIM.
Where the rules leave a choice it follows the model's (assumption log entry 11). -/
def Obligations.MessagesRefused : Prop :=
  ∀ (i : Instr) (x : Line) (m : Msg) (type : Nat) (content : List Byte) (s : State), lineMessage i = some (x, m, type, content) →
    ((s.chip.hearsMessages x = false ∨ m.tid ≠ s.chip.f (LPx_IDENT_TID x) ∧ m.tid ≠ 0x3FF) → Does i s fun c => Chip.Only [] [] [] [] s.chip c) ∧
    (s.chip.hearsMessages x = true → (m.tid = s.chip.f (LPx_IDENT_TID x) ∨ m.tid = 0x3FF) → m.errored = true → Does i s fun c =>
      c.ctr (N_LPx_MSG_ERRD x) = s.chip.ctr (N_LPx_MSG_ERRD x) + 1 ∧ Chip.Only [] [N_LPx_MSG_ERRD x] [] [] s.chip c) ∧
    (s.chip.hearsMessages x = true → (m.tid = s.chip.f (LPx_IDENT_TID x) ∨ m.tid = 0x3FF) → m.errored = false → (s.chip.line x).micKey = none →
      m.mic ≠ List.replicate m.mic.length 0 → Does i s fun c =>
      c.ctr (N_LPx_MSG_MIC x) = s.chip.ctr (N_LPx_MSG_MIC x) + 1 ∧ c.flag (LPx_FRM_ALARM_MSG_MIC x) = true ∧
      Chip.Only [LPx_FRM_ALARM x] [N_LPx_MSG_MIC x] [] [] s.chip c) ∧
    (∀ key, s.chip.hearsMessages x = true → m.tid = s.chip.f (LPx_IDENT_TID x) → m.tid ≠ 0x3FF → m.errored = false → (s.chip.line x).micKey = some key →
      (s.chip.line x).micRun + 1 < max 1 (s.chip.f (LPx_ACT_CFG_LOM_MIC_LIM x)) →
      (micOf key m.fn false x (msgBytes m.tid type m.ackreq m.seq content) ≠ m.mic → Does i s fun c =>
        c.ctr (N_LPx_MSG_MIC x) = s.chip.ctr (N_LPx_MSG_MIC x) + 1 ∧ (c.line x).micRun = (s.chip.line x).micRun + 1 ∧
        Chip.Only [LPx_FRM_ALARM x] [N_LPx_MSG_MIC x] [] [.line x] s.chip c) ∧
      (micOf key m.fn false x (msgBytes m.tid type m.ackreq m.seq content) = m.mic → (s.chip.line x).lastSeq.any (fun q => decide (m.seq ≤ q)) = true →
        Does i s fun c =>
        c.ctr (N_LPx_MSG_REPLAY x) = s.chip.ctr (N_LPx_MSG_REPLAY x) + 1 ∧ (c.line x).micRun = (s.chip.line x).micRun + 1 ∧
        Chip.Only [LPx_FRM_ALARM x] [N_LPx_MSG_REPLAY x] [] [.line x] s.chip c))

/-! ## The line receiver -/

/-- R31 to R35, R48, Tables 2.2 and 4.2: how a line loses and regains its signal; a figure of merit that enters LNx_FOM moves the two alarms by
PERSIST and HYST, and the end of an error-rate window clears its alarm when its errors are a tenth of the threshold or fewer.
Where the rules leave a choice it follows the model's (assumption log entries 10 and 13). -/
def Obligations.SignalOfALine : Prop :=
  (∀ (x : Line) (bySd : Bool) (s : State), s.chip.flag (LNx_RX_STATUS_LOS x) = false → s.chip.isOn (protoDom x) = true →
    s.chip.f (LPx_ACT_STATUS_SLEEP x) ≠ 2 → (bySd = true → s.chip.flag (LNx_RX_CTRL_SD_USE x) = true) →
    Does (.losRise x bySd) s fun c =>
      c.flag (LNx_RX_STATUS_LOS x) = true ∧ bitOf (c.f (LNx_ALARM_STATE_LEVEL x)) 0 = true ∧ c.flag (LNx_ALARM_LOS x) = true ∧
      c.flag (LNx_RX_STATUS_RX_READY x) = false ∧ c.flag (LNx_RX_STATUS_FN_VALID x) = false ∧ c.f (LNx_RX_STATUS_FRAME_STATE x) = 0 ∧
      (c.line x).cands = [] ∧ (c.line x).grants = [] ∧ c.actState x = afterLoss (s.chip.actState x) (s.chip.f (LPx_ACT_STATUS_SLEEP x)) ∧
      Chip.Only (LNx_FOM x :: lossRegs x) (lossCtrs x) (lossTimers x) (identityPieces x) s.chip c) ∧
  (∀ (x : Line) (sd : Bool) (s : State), s.chip.rxWorks x = true → s.chip.flag (LNx_RX_STATUS_LOS x) = true →
    (s.chip.flag (LNx_RX_CTRL_SD_USE x) = true → sd = !s.chip.flag (LNx_RX_CTRL_SD_POL x)) →
    Does (.losClear x sd) s fun c =>
      c.flag (LNx_RX_STATUS_LOS x) = false ∧ bitOf (c.f (LNx_ALARM_STATE_LEVEL x)) 0 = false ∧
      c.deadline (.line x .acquire) = some (s.chip.now + 1500 * usCcy) ∧
      (c.line x).rdiUntil = s.chip.now + 16 * max 1 (s.chip.f (LPx_FRAME_CFG_RDI_HOLD x)) * frameCcy ∧
      Chip.Only [LNx_RX_STATUS x, LNx_ALARM_STATE x] [] [.line x .acquire] [.line x] s.chip c) ∧
  (∀ (x : Line) (foms taps : List (BitVec 8)) (s : State), s.chip.rxWorks x = true → s.chip.flag (LNx_RX_STATUS_LOS x) = false →
    s.chip.flag (LNx_RX_STATUS_RX_READY x) = false → s.chip.flag (LNx_RX_CTRL_ADAPT_FREEZE x) = false →
    s.chip.flag (LNx_EQ_CTRL_CTLE_OVR x) = false → s.chip.flag (LNx_EQ_CTRL_DFE_OVR x) = false → s.chip.flag (LNx_EQ_CTRL_FFE_OVR x) = false →
    Does (.acquisition x foms taps) s fun c =>
      c.flag (LNx_RX_STATUS_CDR_LOCK x) = true ∧ c.flag (LNx_RX_STATUS_RX_READY x) = true ∧ c.f (LNx_RX_STATUS_FRAME_STATE x) = 0 ∧
      c.f (LNx_FOM_FOM x) = (foms.getD (c.f (LNx_EQ_CTRL_CTLE x)) 0).toNat ∧ c.f (LNx_FOM_FOM_MIN x) = c.f (LNx_FOM_FOM x) ∧
      (∀ k < 16, (foms.getD k 0).toNat ≤ c.f (LNx_FOM_FOM x) ∧ (k < c.f (LNx_EQ_CTRL_CTLE x) → (foms.getD k 0).toNat < c.f (LNx_FOM_FOM x))) ∧
      (∀ k < 15, c.f ⟨eqAddr x (k + 1), 0, 8⟩ = (taps.getD k 0).toNat) ∧
      c.deadline (.line x .lofAcq) = some (s.chip.now + 4 * frameCcy) ∧ c.deadline (.line x .acquire) = none ∧
      Chip.Only (LNx_RX_STATUS x :: LNx_FOM x :: equaliserRegs x) [] [.line x .acquire, .line x .lofAcq] [] s.chip c) ∧
  (∀ (x : Line) (d : Nat) (s : State), s.chip.deadline (.line x .acquire) = some d → s.chip.flag (LNx_RX_STATUS_RX_READY x) = false →
    Does (.acquisitionRestart x) s fun c =>
      c.flag (LNx_RX_STATUS_CDR_LOCK x) = false ∧ c.deadline (.line x .acquire) = some (max d s.chip.now + 1500 * usCcy) ∧
      Chip.Only [LNx_RX_STATUS x] [] [.line x .acquire] [] (s.chip.elapse (d - s.chip.now)) c) ∧
  (∀ (x : Line) (d : Nat) (s : State), s.chip.deadline (.line x .lofAcq) = some d → s.chip.inSync x = false →
    s.chip.flag (LNx_RX_STATUS_RX_READY x) = true →
    Does (.lofReacquire x) s fun c =>
      c.flag (LNx_RX_STATUS_RX_READY x) = false ∧ c.flag (LNx_RX_STATUS_CDR_LOCK x) = false ∧ c.f (LNx_RX_STATUS_FRAME_STATE x) = 0 ∧
      c.f (LNx_FOM_FOM x) = 0 ∧ (c.line x).cands = [] ∧ c.reg (LNx_HUNT_STATUS x) = 0 ∧ c.deadline (.line x .lofAcq) = none ∧
      c.deadline (.line x .acquire) = some (max d s.chip.now + 1500 * usCcy) ∧
      Chip.Only [LNx_RX_STATUS x, LNx_FOM x, LNx_HUNT_STATUS x] [] [.line x .acquire, .line x .lofAcq] [.line x] (s.chip.elapse (d - s.chip.now)) c) ∧
  (∀ (x : Line) (fom : BitVec 8) (s : State), s.chip.flag (LNx_RX_STATUS_RX_READY x) = true →
    Does (.fomUpdate x fom) s fun c =>
      let thr := s.chip.f (LNx_FOM_THR_WARN x)
      let persist := max 1 (s.chip.f (LNx_FOM_THR_PERSIST x))
      c.f (LNx_FOM_FOM x) = fom.toNat ∧ c.f (LNx_FOM_FOM_Q x) = fom.toNat / 16 ∧
      c.f (LNx_FOM_FOM_MIN x) = min fom.toNat (s.chip.f (LNx_FOM_FOM_MIN x)) ∧
      (c.line x).warnLow = (if fom.toNat < thr then (s.chip.line x).warnLow + 1 else 0) ∧
      (c.line x).warnHigh = (if thr + s.chip.f (LNx_FOM_THR_HYST x) ≤ fom.toNat then (s.chip.line x).warnHigh + 1 else 0) ∧
      bitOf (c.f (LNx_ALARM_STATE_LEVEL x)) 4 = (if bitOf (s.chip.f (LNx_ALARM_STATE_LEVEL x)) 4 then !decide (persist ≤ (c.line x).warnHigh)
        else decide (persist ≤ (c.line x).warnLow)) ∧
      (bitOf (c.f (LNx_ALARM_STATE_LEVEL x)) 4 = true → bitOf (s.chip.f (LNx_ALARM_STATE_LEVEL x)) 4 = false → c.flag (LNx_ALARM_FOM_WARN x) = true) ∧
      Chip.Only [LNx_FOM x, LNx_ALARM x, LNx_ALARM_STATE x] [] [] [.line x] s.chip c) ∧
  (∀ (x : Line) (sf : Bool) (s : State), s.chip.inSync x = true →
    (if sf then (s.chip.sfParams x).2 else (s.chip.sdParams x).2) ≤ (if sf then (s.chip.line x).sfFrames else (s.chip.line x).sdFrames) →
    Does (.berWindowEnd x sf) s fun c =>
      let bits := if sf then (s.chip.line x).sfBits else (s.chip.line x).sdBits
      let par := if sf then s.chip.sfParams x else s.chip.sdParams x
      (if sf = true then (c.line x).sfBits = 0 ∧ (c.line x).sfFrames = 0 else (c.line x).sdBits = 0 ∧ (c.line x).sdFrames = 0) ∧
      bitOf (c.f (LNx_ALARM_STATE_LEVEL x)) (if sf then 3 else 2) =
        (bitOf (s.chip.f (LNx_ALARM_STATE_LEVEL x)) (if sf then 3 else 2) && decide (par.2 * 11989760 / 10 ^ par.1 / 10 < bits)) ∧
      Chip.Only [LNx_ALARM_STATE x] [] [] [.line x] s.chip c)

/-- R41, R42, R43, R46, Tables 2.4 and 4.2: the frame hunt. A candidate opens on a sync field, a valid header one frame later
confirms it, the next one that continues it declares Sync, and in Sync the fourth bad sync field in a row is LOF.
Where the rules leave a choice it follows the model's (assumption log entries 12 and 61). -/
def Obligations.FrameHunt : Prop :=
  (∀ (x : Line) (pos : Nat) (inv : Bool) (errors : BitVec 7) (hdr : List Byte) (cif : Nat) (s : State),
    s.chip.flag (LNx_RX_STATUS_RX_READY x) = true → s.chip.isOn (protoDom x) = true → s.chip.inSync x = false →
    (s.chip.line x).cands.find? (fun k => k.pos + 6000000 == pos) = none → errors.toNat ≤ 4 →
    Does (.syncField x pos inv errors hdr cif) s fun c =>
      let base := s.chip.reachCif cif
      if (s.chip.line x).cands.length < 4 then
        (c.line x).cands = (s.chip.line x).cands ++ [⟨pos, base.now, inv, 0, headerFn hdr⟩] ∧ c.f (LNx_RX_STATUS_FRAME_STATE x) = 1 ∧
        c.f (LNx_HUNT_STATUS_CAND_CNT x) = (s.chip.line x).cands.length + 1 ∧ c.deadline (.line x .lofAcq) = some (base.now + 4 * frameCcy) ∧
        Chip.Only [LNx_RX_STATUS x, LNx_HUNT_STATUS x] [] [.line x .lofAcq] [.line x] base c
      else c.ctr (N_LNx_CAND_FULL x) = s.chip.ctr (N_LNx_CAND_FULL x) + 1 ∧ Chip.Only [] [N_LNx_CAND_FULL x] [] [] base c) ∧
  (∀ (x : Line) (k : Cand) (inv : Bool) (errors : BitVec 7) (hdr : List Byte) (cif : Nat) (s : State),
    s.chip.flag (LNx_RX_STATUS_RX_READY x) = true → s.chip.isOn (protoDom x) = true → s.chip.inSync x = false →
    (s.chip.line x).cands.find? (fun q => q.pos + 6000000 == k.pos + 6000000) = some k → cif < 187500 →
    Does (.syncField x (k.pos + 6000000) inv errors hdr cif) s fun c =>
      let base := (s.chip.elapse (k.found + 93750 - s.chip.now)).reachCif cif
      if checkPasses k inv errors.toNat hdr = true then
        if k.checks = 0 then
          (c.line x).cands = (s.chip.line x).cands.map (fun q => if q = k then ⟨k.pos + 6000000, base.now, k.inv, 1, headerFn hdr⟩ else q) ∧
          Chip.Only [LNx_HUNT_STATUS x] [] [] [.line x] base c
        else
          c.inSync x = true ∧ c.flag (LNx_RX_STATUS_PINV x) = inv ∧ c.flag (LNx_RX_STATUS_FN_VALID x) = true ∧ (c.line x).cands = [] ∧
          ((c.line x).fn + 1) % 2 ^ 48 = headerFn hdr ∧ c.f (LNx_SYNC_CIF_CIF x) = cif ∧ bitOf (c.f (LNx_ALARM_STATE_LEVEL x)) 1 = false ∧
          c.actState x = (if s.chip.actState x = stDark ∧ s.chip.flag (LPx_ACT_STATUS_DISABLED x) = false then stListening
            else if s.chip.actState x = stHolding then stWorking else s.chip.actState x) ∧
          Chip.Only [LNx_RX_STATUS x, LNx_ALARM x, LNx_HUNT_STATUS x, LNx_ALARM_STATE x, LNx_SYNC_CIF x, LPx_ACT_STATUS x] []
            (.line x .lofAcq :: stateTimers x) [.line x] base c
      else
        (c.line x).cands = (s.chip.line x).cands.filter (· != k) ∧ c.ctr (N_LNx_CAND_DROP x) = s.chip.ctr (N_LNx_CAND_DROP x) + 1 ∧
        c.f (LNx_RX_STATUS_FRAME_STATE x) = (if (s.chip.line x).cands.filter (· != k) = [] then 0 else 1) ∧
        Chip.Only [LNx_RX_STATUS x, LNx_HUNT_STATUS x] [N_LNx_CAND_DROP x] [] [.line x] base c) ∧
  (∀ (x : Line) (pos : Nat) (inv : Bool) (errors : BitVec 7) (hdr : List Byte) (cif : Nat) (s : State),
    s.chip.flag (LNx_RX_STATUS_RX_READY x) = true → s.chip.isOn (protoDom x) = true → s.chip.inSync x = true → cif < 187500 →
    Does (.syncField x pos inv errors hdr cif) s fun c =>
      let base := s.chip.toCif (2 + x.idx) cif
      c.f (LNx_SYNC_CIF_CIF x) = cif ∧
      (if errors.toNat ≤ 4 ∧ inv = s.chip.flag (LNx_RX_STATUS_PINV x) then
        (c.line x).badRun = 0 ∧ c.inSync x = true ∧ Chip.Only [LNx_SYNC_CIF x] [] [] [.line x] base c
      else
        c.ctr (N_LNx_BAD_SYNC x) = s.chip.ctr (N_LNx_BAD_SYNC x) + 1 ∧
        (if (s.chip.line x).badRun + 1 < 4 then
          (c.line x).badRun = (s.chip.line x).badRun + 1 ∧ c.inSync x = true ∧
          Chip.Only [LNx_SYNC_CIF x] [N_LNx_BAD_SYNC x] [] [.line x] base c
        else
          c.f (LNx_RX_STATUS_FRAME_STATE x) = 0 ∧ bitOf (c.f (LNx_ALARM_STATE_LEVEL x)) 1 = true ∧ c.flag (LNx_RX_STATUS_FN_VALID x) = false ∧
          c.deadline (.line x .lofAcq) = some (base.now + 4 * frameCcy) ∧
          c.actState x = afterLoss (s.chip.actState x) (s.chip.f (LPx_ACT_STATUS_SLEEP x)) ∧
          Chip.Only (LNx_SYNC_CIF x :: lossRegs x) (N_LNx_BAD_SYNC x :: lossCtrs x) (lossTimers x) (identityPieces x) base c))) ∧
  (∀ (x : Line) (p : SleepPlan) (e0 e1 : BitVec 7) (h0 h1 : List Byte) (s : State), (s.chip.line x).sleep = some p → p.mode = 2 →
    s.chip.isOn (rxDom x) = true → s.chip.isOn (protoDom x) = true → ((s.chip.line x).saved.eq.map (·.1)).Nodup →
    (∀ e ∈ (s.chip.line x).saved.eq, e.1 ∈ equaliserRegs x) →
    Does (.directedReacq x e0 h0 e1 h1) s fun c =>
      let base := s.chip.toInstant { fn := p.wake, cif := (s.chip.line x).saved.cif }
      let ok0 := decide (e0.toNat ≤ 4) && headerCrcOk h0 && headerFn h0 == p.wake % 2 ^ 48
      let ok1 := decide (e1.toNat ≤ 4) && headerCrcOk h1 && headerFn h1 == (p.wake + 1) % 2 ^ 48
      (∀ e ∈ (s.chip.line x).saved.eq, c.reg e.1 = e.2) ∧ (c.line x).sleep = none ∧ c.f (LPx_ACT_STATUS_SLEEP x) = 0 ∧
      (if ok0 = true then
        c.inSync x = true ∧ c.flag (LNx_RX_STATUS_RX_READY x) = true ∧ c.flag (LNx_RX_STATUS_PINV x) = (s.chip.line x).saved.pinv ∧
        ((c.line x).fn + 1) % 2 ^ 48 = p.wake % 2 ^ 48 ∧
        Chip.Only (LNx_RX_STATUS x :: LNx_ALARM x :: LNx_HUNT_STATUS x :: LNx_ALARM_STATE x :: LPx_ACT_STATUS x :: equaliserRegs x) []
          (.line x .lofAcq :: stateTimers x) [.line x] base c
      else if ok1 = true then c.inSync x = true ∧ ((c.line x).fn + 1) % 2 ^ 48 = (p.wake + 1) % 2 ^ 48
      else
        c.flag (LNx_ALARM_REACQ_FAIL x) = true ∧ c.f (LNx_RX_STATUS_FRAME_STATE x) = 0 ∧ c.flag (LNx_RX_STATUS_RX_READY x) = false ∧
        (c.deadline (.line x .acquire)).isSome = true ∧ c.actState x = afterLoss (s.chip.actState x) 0))

/-- R45, R56, R57, R60, R61, R64, R65, R69, R140: what a downstream frame does: with a bad header FN counts on and its packet area is
lost; with a usable one its counts enter the status registers and its packet area opens; a grant addressed to the line is taken; with
ESA the pending grants go.
Where the rules leave a choice it follows the model's (assumption log entries 12, 80 and 145). -/
def Obligations.DownstreamFrames : Prop :=
  (∀ (x : Line) (f : FrameBody) (s : State), s.chip.inSync x = true → s.chip.isOn (protoDom x) = true →
    headerCrcOk (slice f.payload 0 32) = false →
    Does (.downstreamFrame x (.decoded f)) s fun c =>
      (c.line x).fn = ((s.chip.line x).fn + 1) % 2 ^ 48 ∧ (c.line x).area = none ∧
      c.ctr (N_LNx_HDR_ERR x) = s.chip.ctr (N_LNx_HDR_ERR x) + 1 ∧ c.ctr (N_LPx_PKT_AREA_LOST x) = s.chip.ctr (N_LPx_PKT_AREA_LOST x) + 1 ∧
      c.ctr (N_LNx_CORR_BITS x) = s.chip.ctr (N_LNx_CORR_BITS x) + BitVec.ofNat 64 f.corrBits ∧
      (c.line x).grants = (s.chip.line x).grants ∧ c.actState x = s.chip.actState x ∧
      Chip.Within (onPages [8 + 2 * x.idx, 9 + 2 * x.idx, 5, 28, 30]) (onPages [8 + 2 * x.idx, 9 + 2 * x.idx, 5, 28, 31]) (fun _ => false)
        [.line x, .conts, .tribs]
        (s.chip.toCif (4 + x.idx) (s.chip.f (LNx_SYNC_CIF_CIF x))) c) ∧
  (∀ (x : Line) (f : FrameBody) (s : State), s.chip.inSync x = true → s.chip.isOn (protoDom x) = true →
    headerCrcOk (slice f.payload 0 32) = true → f.bad = [] → f.complete = 2204 → headerFn f.payload = ((s.chip.line x).fn + 1) % 2 ^ 48 →
    byteAt f.payload 9 / 16 = 1 → beAt f.payload 10 2 % 1024 ≤ 512 → byteAt f.payload 12 % 128 ≤ 64 → beAt f.payload 13 2 % 8192 ≤ 4096 →
    s.chip.flag (LPx_FRAME_CFG_LINE_ID_CHK x) = false → s.chip.flag (LPx_FRAME_CFG_HE_ID_CHK x) = false →
    Does (.downstreamFrame x (.decoded f)) s fun c =>
      let nb := beAt f.payload 10 2 % 1024
      let nm := byteAt f.payload 12 % 128
      let nc := beAt f.payload 13 2 % 8192
      (c.line x).fn = headerFn f.payload ∧ (c.line x).area = some (32 + 16 * nb + 64 * nm + 40 * nc) ∧
      c.f (LPx_HDR_STATUS_HE_ID x) = beAt f.payload 6 2 ∧ c.f (LPx_HDR_STATUS_VER x) = 1 ∧
      c.flag (LPx_HDR_STATUS_TM x) = bitOf (byteAt f.payload 8) 6 ∧ c.flag (LPx_HDR_STATUS_TODV x) = bitOf (byteAt f.payload 8) 5 ∧
      c.f (LPx_AREA_STATUS_BWMAP_CNT x) = nb ∧ c.f (LPx_AREA_STATUS_MSG_CNT x) = nm ∧ c.f (LPx_AREA_STATUS_CONT_CNT x) = nc ∧
      (bitOf (byteAt f.payload 8) 4 = true → (c.line x).grants = [] ∧ c.f (LPx_GRANT_STATUS_ACCEPTED x) = 0 ∧
        (c.line x).esaRun = (s.chip.line x).esaRun + 1 ∧
        c.ctr (N_LPx_GRANT_LOST x) = s.chip.ctr (N_LPx_GRANT_LOST x) + BitVec.ofNat 64 (s.chip.line x).grants.length) ∧
      (bitOf (byteAt f.payload 8) 4 = false → nb = 1 → (s.chip.line x).grants = [] → s.chip.f (LPx_ACT_STATUS_SLEEP x) = 0 →
        s.chip.actState x = stWorking → s.chip.flag ITM_SAFE_ACTIVE = false →
        ∀ k, s.chip.addressed x (parseEntry (slice f.payload 32 16)).alloc = some k → (parseEntry (slice f.payload 32 16)).ecrcOk = true →
          s.chip.entryInRange x k (parseEntry (slice f.payload 32 16)) = true →
          (c.line x).grants.map (fun g => (g.kind, g.start, g.len, g.fn)) =
            [(k, (parseEntry (slice f.payload 32 16)).start, (parseEntry (slice f.payload 32 16)).len, headerFn f.payload)] ∧
          c.f (LPx_GRANT_STATUS_ACCEPTED x) = 1 ∧ c.f (LPx_GRANT_STATUS_PENDING x) = 1) ∧
      Chip.Within (onPages [8 + 2 * x.idx, 9 + 2 * x.idx, 5, 28, 30]) (onPages [8 + 2 * x.idx, 9 + 2 * x.idx, 5, 28, 31]) (fun k => k ∈ stateTimers x)
        [.line x, .conts, .tribs, .time, .cooper, .drover] (s.chip.toCif (4 + x.idx) (s.chip.f (LNx_SYNC_CIF_CIF x))) c)

/-! ## The two lines and network time -/

/-- R117, R118, R120, R121, R122, R127: the active line, the merge's judgement of a packet by its sequence, and what the merge and the
line queues let go of in time.
Where the rules leave a choice it follows the model's (assumption log entry 13). -/
def Obligations.ActiveLineAndMerge : Prop :=
  (∀ s : State, s.chip.isOn 7 = true → s.chip.mode ≠ 0 →
    Does .activeLineSwitch s fun c =>
      let x := s.chip.activeLine
      let due := (s.chip.twoEnded.prefDue || s.chip.twoEnded.revertDue) && x != s.chip.preferred && s.chip.fit s.chip.preferred
      c.activeLine = (if s.chip.fit x = false ∧ s.chip.fit x.other = true then x.other else if due = true then s.chip.preferred else x) ∧
      c.ctr N_TWE_ACT_SWITCH = s.chip.ctr N_TWE_ACT_SWITCH +
        (if s.chip.fit x = false ∧ s.chip.fit x.other = true ∨ due = true then 1 else 0) ∧
      c.twoEnded.revertDue = false ∧ c.twoEnded.prefDue = false ∧
      Chip.Only [TWE_ALARM] [N_TWE_ACT_SWITCH] [] [.twoEnded] (s.chip.nextFrame 8) c) ∧
  (∀ (d : Nat) (s : State), s.chip.deadline .actWtr = some d →
    Does .actWtrExpiry s fun c =>
      c.twoEnded.revertDue = true ∧ c.deadline .actWtr = none ∧ Chip.Only [] [] [] [.twoEnded] (s.chip.elapse (d - s.chip.now)) c) ∧
  (∀ (p : MergePkt) (s : State), s.chip.isOn 7 = true → nextMerge s.chip.twoEnded.waiting = some p →
    Does .mergePacket s fun c =>
      let m := Map.get {} s.chip.twoEnded.flows p.flow
      let d := (p.seq + 2 ^ 24 - m.h % 2 ^ 24) % 2 ^ 24
      let taken := c.sorter.input = s.chip.sorter.input ++ [{ ingress := 24 + p.line.idx, tag := p.cls, bytes := p.bytes, banks := p.banks, express := p.express }]
      c.twoEnded.waiting = s.chip.twoEnded.waiting.erase p ∧
      (if s.chip.flowMode p.flow = 1 ∨ s.chip.flowMode p.flow = 2 then
        if p.line.idx + 1 = s.chip.flowMode p.flow then taken
        else c.sorter = s.chip.sorter ∧ c.ctr N_TWE_WRONG_LINE = s.chip.ctr N_TWE_WRONG_LINE + 1
      else if m.seen = false then
        taken ∧ (Map.get {} c.twoEnded.flows p.flow).h = p.seq ∧ (Map.get {} c.twoEnded.flows p.flow).seen = true ∧
        c.ctr N_TWE_FLOW_RESYNC = s.chip.ctr N_TWE_FLOW_RESYNC + 1
      else if 1 ≤ d ∧ d ≤ 2 ^ 23 - 1 then
        taken ∧ (Map.get {} c.twoEnded.flows p.flow).h = p.seq ∧
        (d = 1 → m.gaps.length ≤ 4 → (Map.get {} c.twoEnded.flows p.flow).gaps = m.gaps) ∧
        (1 < d → m.gaps.length < 4 → (Map.get {} c.twoEnded.flows p.flow).gaps = m.gaps ++ [⟨(m.h + 1) % 2 ^ 24, d - 1, s.chip.now⟩])
      else if (m.gaps.any fun g => g.holds p.seq) = true then
        taken ∧ (Map.get {} c.twoEnded.flows p.flow).h = m.h ∧ c.ctr N_TWE_GAP_FILL = s.chip.ctr N_TWE_GAP_FILL + 1
      else
        c.sorter = s.chip.sorter ∧ Map.get {} c.twoEnded.flows p.flow = m ∧
        c.ctr (N_TWE_DUP_DISC_A + 8 * p.line.idx) = s.chip.ctr (N_TWE_DUP_DISC_A + 8 * p.line.idx) + 1) ∧
      Chip.Only [TWE_ALARM] [N_TWE_WRONG_LINE, N_TWE_FLOW_RESYNC, N_TWE_GAP_FILL, N_TWE_GAP_OVF, N_TWE_DUP_DISC_A + 8 * p.line.idx] []
        [.twoEnded, .sorter, .cooper] s.chip c) ∧
  (∀ (flow : Nat) (g : Gap) (r : List Gap) (s : State), (Map.get {} s.chip.twoEnded.flows flow).gaps = g :: r →
    Does (.gapExpiry flow) s fun c =>
      let t := r.foldl (fun a k => min a k.opened) g.opened
      let base := s.chip.elapse (t + 3000000 - s.chip.now)
      (Map.get {} c.twoEnded.flows flow).gaps = (g :: r).filter (fun k => decide (base.now < k.opened + 3000000)) ∧
      (Map.get {} c.twoEnded.flows flow).h = (Map.get {} s.chip.twoEnded.flows flow).h ∧
      c.ctr N_TWE_GAP_EXP = s.chip.ctr N_TWE_GAP_EXP + BitVec.ofNat 64 ((g :: r).filter (fun k => decide (k.opened + 3000000 ≤ base.now))).length ∧
      Chip.Only [TWE_ALARM] [N_TWE_GAP_EXP] [] [.twoEnded] base c) ∧
  (∀ (flow : Nat) (s : State), (Map.get {} s.chip.twoEnded.flows flow).seen = true →
    Does (.flowIdleExpiry flow) s fun c =>
      let m := Map.get {} s.chip.twoEnded.flows flow
      Map.get {} c.twoEnded.flows flow = { m with seen := false } ∧
      Chip.Only [] [] [] [.twoEnded] (s.chip.elapse (m.last + max 10 (min 1000 (s.chip.f TWE_FLOW_IDLE_MS)) * msCcy - s.chip.now)) c) ∧
  (∀ (q : Nat) (x : Line) (s : State), s.chip.isOn 24 = true → s.chip.queueLine q = some x →
    Does .referenceAgeing s fun c =>
      (∀ r ∈ (c.queue q).head?, (s.chip.nextFrame 9).now - r.enq ≤ max 1 (min 40 (s.chip.f TWE_CFG_AGE_LIMIT)) * 750000) ∧
      Chip.Only [TWE_ALARM] [N_TWE_UP_AGED_A, N_TWE_UP_AGED_A + 8, N_COP_FRAMES_OUT] [] [.cooper] (s.chip.nextFrame 9) c)

/-- R129, R130, R131, R133: the offset and frequency of the other line, the change of time master, and the switch of a container
pair.
Where the rules leave a choice it follows the model's (assumption log entries 18, 40 and 104). -/
def Obligations.TimeMasterAndPairs : Prop :=
  (∀ (d ppb : Int) (paired : Bool) (s : State), s.chip.isOn 7 = true → s.chip.flag TWE_STATUS_NO_MASTER = false →
    Does (.trackUpdate d ppb paired) s fun c =>
      let skew := paired = false ∨ 768000000 ≤ d.natAbs
      let freq := 500 < ppb.natAbs
      c.reg TWE_TRACK_OFS = signedWord d ∧
      (skew → c.flag TWE_ALARM_STATE_SKEW = true ∧ c.twoEnded.skewClear = 0) ∧
      (¬skew → c.flag TWE_ALARM_STATE_SKEW = (s.chip.flag TWE_ALARM_STATE_SKEW && decide (s.chip.twoEnded.skewClear + 1 < 64)) ∧
        c.twoEnded.skewClear = s.chip.twoEnded.skewClear + 1) ∧
      (freq → c.flag TWE_ALARM_STATE_FREQ = true ∧ c.twoEnded.freqClear = 0) ∧
      (¬freq → c.flag TWE_ALARM_STATE_FREQ = (s.chip.flag TWE_ALARM_STATE_FREQ && decide (s.chip.twoEnded.freqClear + 1 < 64)) ∧
        c.twoEnded.freqClear = s.chip.twoEnded.freqClear + 1) ∧
      Chip.Only [TWE_TRACK_OFS, TWE_TRACK_FREQ, TWE_ALARM_STATE, TWE_ALARM] [] [] [.twoEnded] s.chip c) ∧
  (∀ (d ppb : Int) (paired : Bool) (s : State), s.chip.isOn 7 = true → s.chip.flag TWE_STATUS_NO_MASTER = true →
    Does (.trackUpdate d ppb paired) s fun c =>
      c.flag TWE_ALARM_STATE_SKEW = (s.chip.flag TWE_ALARM_STATE_SKEW && decide (s.chip.twoEnded.skewClear + 1 < 64)) ∧
      c.flag TWE_ALARM_STATE_FREQ = (s.chip.flag TWE_ALARM_STATE_FREQ && decide (s.chip.twoEnded.freqClear + 1 < 64)) ∧
      c.twoEnded.skewClear = s.chip.twoEnded.skewClear + 1 ∧ c.twoEnded.freqClear = s.chip.twoEnded.freqClear + 1 ∧
      Chip.Only [TWE_ALARM_STATE] [] [] [.twoEnded] s.chip c) ∧
  (∀ s : State, s.chip.isOn 7 = true → s.chip.flag TWE_STATUS_NO_MASTER = false → s.chip.lineLost s.chip.master = true →
    (s.chip.timeState = 1 ∨ s.chip.timeState = 2) →
    Does .tmSwitch s fun c =>
      (if s.chip.qualifies s.chip.master.other = true then
        c.master = s.chip.master.other ∧ c.flag TWE_STATUS_NO_MASTER = false ∧ c.timeState = s.chip.timeState ∧
        c.reg TWE_TM_OFS = signedWord (signed 32 (s.chip.reg TWE_TM_OFS).toNat - signed 32 (s.chip.reg TWE_TRACK_OFS).toNat) ∧
        c.ctr N_TWE_TM_SWITCH = s.chip.ctr N_TWE_TM_SWITCH + 1 ∧ c.nt = s.chip.nt
      else
        c.timeState = 3 ∧ c.flag TWE_STATUS_NO_MASTER = true ∧ c.ctr N_NTU_HO_ENTRY = s.chip.ctr N_NTU_HO_ENTRY + 1 ∧ c.nt = s.chip.nt) ∧
      Chip.Only [TWE_TM_OFS, TWE_ALARM_STATE, TWE_ALARM, NTU_ALARM] [N_TWE_TM_SWITCH, N_NTU_HO_ENTRY] [.hoAged] [.time] s.chip c) ∧
  (∀ (d : Nat) (s : State), s.chip.deadline .tmRevert = some d → s.chip.flag TWE_STATUS_NO_MASTER = false →
    lineOf (s.chip.f TWE_CFG_TM_LINE) ≠ s.chip.master → s.chip.qualifies (lineOf (s.chip.f TWE_CFG_TM_LINE)) = true →
    s.chip.flag TWE_CFG_TM_REVERT = true →
    Does .tmRevert s fun c =>
      c.master = lineOf (s.chip.f TWE_CFG_TM_LINE) ∧
      c.reg TWE_TM_OFS = signedWord (signed 32 (s.chip.reg TWE_TM_OFS).toNat - signed 32 (s.chip.reg TWE_TRACK_OFS).toNat) ∧
      c.ctr N_TWE_TM_SWITCH = s.chip.ctr N_TWE_TM_SWITCH + 1 ∧
      Chip.Only [TWE_TM_OFS, TWE_ALARM_STATE, TWE_ALARM] [N_TWE_TM_SWITCH] [] [] (s.chip.elapse (d - s.chip.now)) c) ∧
  (∀ (k d : Nat) (s : State), k < 32 → s.chip.isOn 7 = true → s.chip.flag (TWE_SEL_VALID k) = true →
    (s.chip.deadline (.selHold k) = some d ∨ s.chip.deadline (.selHold k) = none ∧ s.chip.deadline (.selWtr k) = some d) →
    Does (.selSwitch k) s fun c =>
      let b := s.chip.elapse (d - s.chip.now)
      c.selected k = (s.chip.selected k).other ∧ c.ctr N_TWE_SEL_SWITCH = s.chip.ctr N_TWE_SEL_SWITCH + 1 ∧
      Chip.Only [TWE_ALARM] [N_TWE_SEL_SWITCH] [] [] (if b.nt.cif = 0 then b else b.elapse (187500 - b.nt.cif)) c)

/-- R266, R267, R268, R270, R271, Table 11.1: the time states and what each change of state does to NT.
Where the rules leave a choice it follows the model's (assumption log entries 40, 73 and 104). -/
def Obligations.NetworkTime : Prop :=
  (∀ (x : Line) (s : State), s.chip.qualifies x = true → s.chip.timeState = 0 →
    Does (.ntSet x) s fun c =>
      c.nt = { fn := ((s.chip.line x).fn + 1) % 2 ^ 48, cif := 0 } ∧ c.timeState = 1 ∧ c.ntValid = true ∧ c.master = x ∧
      c.flag TWE_STATUS_NO_MASTER = false ∧ c.reg TWE_TM_OFS = 0 ∧
      (∀ e ∈ c.time.slots, e.2.state = 1 → NetTime.before e.2.instant c.nt = false) ∧
      Chip.Within (fun a => a == LNx_SYNC_CIF x || onPages [1, 5, 12] a) (onPages [1, 5]) (fun _ => false) [.clock, .time, .cfg]
        (s.chip.elapse (if s.chip.nt.cif < s.chip.f (LNx_SYNC_CIF_CIF x) then s.chip.f (LNx_SYNC_CIF_CIF x) - s.chip.nt.cif
          else 187500 - s.chip.nt.cif + s.chip.f (LNx_SYNC_CIF_CIF x))) c) ∧
  (∀ s : State, s.chip.timeState = 1 → Does .ntLock s fun c =>
      c.timeState = 2 ∧ c.time.locked = 0 ∧ c.nt = s.chip.nt ∧ Chip.Only [] [] [] [.time] s.chip c) ∧
  (∀ s : State, s.chip.timeState = 1 ∨ s.chip.timeState = 2 → s.chip.qualifies .a = false → s.chip.qualifies .b = false →
    Does .holdoverEntry s fun c =>
      c.timeState = 3 ∧ c.flag TWE_STATUS_NO_MASTER = true ∧ c.nt = s.chip.nt ∧ c.ctr N_NTU_HO_ENTRY = s.chip.ctr N_NTU_HO_ENTRY + 1 ∧
      c.flag NTU_STATUS_HO_UNLEARNT = (s.chip.flag NTU_STATUS_HO_UNLEARNT || !s.chip.flag NTU_STATUS_HO_READY) ∧
      c.deadline .hoAged = some (s.chip.now + max 1 (s.chip.f NTU_HO_CFG_HO_LIMIT) * secCcy) ∧
      Chip.Only [NTU_ALARM, TWE_ALARM_STATE, TWE_ALARM] [N_NTU_HO_ENTRY] [.hoAged] [.time] s.chip c) ∧
  (∀ (d : Nat) (s : State), s.chip.deadline .hoAged = some d → s.chip.timeState = 3 →
    Does .holdoverAged s fun c =>
      c.flag NTU_STATUS_HO_AGED = true ∧ c.flag NTU_ALARM_HO_AGED = true ∧ c.timeState = 3 ∧ c.deadline .hoAged = none ∧
      Chip.Only [NTU_ALARM] [] [.hoAged] [] (s.chip.elapse (d - s.chip.now)) c) ∧
  (∀ (x : Line) (e : Int) (s : State), s.chip.timeState = 3 → s.chip.qualifies x = true →
    Does (.holdoverExit x e) s fun c =>
      c.timeState = 1 ∧ c.master = x ∧ c.flag TWE_STATUS_NO_MASTER = false ∧ c.flag NTU_STATUS_HO_AGED = false ∧ c.deadline .hoAged = none ∧
      (if e.natAbs * 2 ≤ s.chip.f NTU_TIME_CFG_STEP_THR * 768 then
        c.nt = s.chip.nt ∧ c.reg TWE_TM_OFS = signedWord e ∧ Chip.Only [TWE_TM_OFS, TWE_ALARM_STATE] [] [.hoAged] [] s.chip c
      else
        c.nt = { fn := ((s.chip.line x).fn + 1) % 2 ^ 48, cif := 0 } ∧ c.reg TWE_TM_OFS = 0 ∧
        c.ctr N_NTU_NT_STEP = s.chip.ctr N_NTU_NT_STEP + 1 ∧ c.flag NTU_ALARM_NT_STEP = true)) ∧
  (∀ (measured : BitVec 32) (s : State), s.chip.timeState = 2 →
    Does (.hoWindowEnd measured) s fun c =>
      let tc := max 1 (min 1024 (s.chip.f NTU_HO_CFG_HO_TC))
      c.time.window = some measured ∧ c.time.locked = s.chip.time.locked + 1 ∧
      c.reg NTU_HO_FREQ = Config.averagedOffset (s.chip.reg NTU_HO_FREQ) measured tc ∧
      c.flag NTU_STATUS_HO_READY = (s.chip.flag NTU_STATUS_HO_READY || decide (tc ≤ s.chip.time.locked + 1)) ∧
      Chip.Only [NTU_HO_FREQ] [] [] [.time] s.chip c)

/-- R272, R273, R274, R275, R277, R290: what a TOD message does to ToD, when 1PPS_OUT rises, what a 1PPS_IN edge records, and when a
port's bound is lost.
Where the rules leave a choice it follows the model's (assumption log entries 40, 93 and 95). -/
def Obligations.TimeOfDay : Prop :=
  (∀ (x : Line) (m : Msg) (fn sec ns : Nat) (s : State),
    s.chip.HearsKeyed x m 0x0A (beBytes 6 fn ++ beBytes 6 sec ++ beBytes 4 ns) → s.chip.actState x = stWorking →
    fn < 2 ^ 48 → sec < 2 ^ 48 → ns < 2 ^ 32 →
    Does (.tod x m fn sec ns) s fun c =>
      let good := s.chip.flag (LPx_HDR_STATUS_TODV x) = true ∧ ns < 1000000000 ∧ fn ≤ s.chip.nt.fn + 80000 ∧ s.chip.nt.fn ≤ fn + 80000
      let v := s.chip.todOfMessage x fn sec ns (signed 32 (s.chip.reg TWE_TM_OFS).toNat)
      (if good ∧ s.chip.flag TWE_STATUS_NO_MASTER = false then
        c.ctr N_NTU_TOD_IGN = s.chip.ctr N_NTU_TOD_IGN ∧
        (if x = s.chip.master then
          c.ctr N_NTU_TOD_OK = s.chip.ctr N_NTU_TOD_OK + 1 ∧
          (s.chip.time.tod = none → c.time.tod = some (v - 2 * (s.chip.now : Int)) ∧ c.flag NTU_STATUS_TOD_VALID = true) ∧
          (∀ cur, s.chip.tod3 = some cur →
            (if (nearestNs (v - cur)).natAbs ≤ s.chip.f NTU_TIME_CFG_TOD_SLEW_THR then
              c.time.slew = nearestNs (v - cur) ∧ c.time.step = none ∧ c.ctr N_NTU_TOD_STEP = s.chip.ctr N_NTU_TOD_STEP
            else
              c.time.step = some (s.chip.now + (187500 - s.chip.nt.cif), v - cur) ∧ c.ctr N_NTU_TOD_STEP = s.chip.ctr N_NTU_TOD_STEP + 1))
        else c.time = s.chip.time)
      else c.ctr N_NTU_TOD_IGN = s.chip.ctr N_NTU_TOD_IGN + 1 ∧ c.time = s.chip.time) ∧
      Chip.Only (NTU_TOD_ERR :: NTU_TOD_XERR :: NTU_ALARM :: keyedRegs x) (N_NTU_TOD_OK :: N_NTU_TOD_IGN :: N_NTU_TOD_STEP :: heardCtrs x)
        [.line x .lom] [.line x, .time] s.chip c) ∧
  (∀ (v : Int) (s : State), s.chip.flag NTU_PPS_CFG_PPS_EN = true → s.chip.ntValid = true → s.chip.time.tod = some v →
    Does .ppsOutPulse s fun c =>
      let base := s.chip.elapse (s.chip.toWholeSecond v)
      if (s.chip.time.stepped && s.chip.time.ppsOut.any fun t => decide (base.now < t + 750000000)) = true then
        c.sent = s.chip.sent ∧ c.ctr N_NTU_PPS_SUPP = s.chip.ctr N_NTU_PPS_SUPP + 1 ∧ Chip.Only [] [N_NTU_PPS_SUPP] [] [] base c
      else
        c.sent = .pps (max 1 (min 999 (s.chip.f NTU_PPS_CFG_WIDTH))) :: s.chip.sent ∧ c.time.ppsOut = some base.now ∧ c.time.stepped = false ∧
        Chip.Only [] [] [] [.time, .sent] base c) ∧
  (∀ (frac : Nat) (s : State), frac < 256 →
    Does (.ppsInEdge frac) s fun c =>
      let near := s.chip.time.ppsIn.any fun p => decide (secCcy - 15000 ≤ s.chip.now - p) && decide (s.chip.now - p ≤ secCcy + 15000)
      c.time.ppsIn = some s.chip.now ∧ c.time.ppsRun = (if near then s.chip.time.ppsRun + 1 else 1) ∧
      c.reg NTU_PPSIN_FN = BitVec.ofNat 32 s.chip.nt.fn ∧ c.reg NTU_PPSIN_CIF = BitVec.ofNat 32 (s.chip.nt.cif * 256 + frac) ∧
      c.flag NTU_STATUS_PPSIN_OK = (s.chip.flag NTU_STATUS_PPSIN_OK || decide (3 ≤ c.time.ppsRun)) ∧
      c.deadline .ppsIn = some (s.chip.now + 2250000000) ∧
      Chip.Only [NTU_PPSIN_FN, NTU_PPSIN_CIF, NTU_PPSIN_ERR, NTU_ALARM] [] [.ppsIn] [.time] s.chip c) ∧
  (∀ (d : Nat) (s : State), s.chip.deadline .ppsIn = some d →
    Does .ppsInLoss s fun c =>
      c.flag NTU_STATUS_PPSIN_OK = false ∧ c.flag NTU_ALARM_PPSIN_LOS = true ∧ c.deadline .ppsIn = none ∧
      Chip.Only [NTU_ALARM] [] [.ppsIn] [] (s.chip.elapse (d - s.chip.now)) c) ∧
  (∀ (n : Nat) (s : State), n < 4 →
    Does (.boundLost n) s fun c =>
      bitOf (c.f NTU_BND_LOST_PORTS) n = s.chip.boundLost n ∧
      (s.chip.boundLost n = true → bitOf (s.chip.f NTU_BND_LOST_PORTS) n = false → c.flag NTU_ALARM_BOUND_LOST = true) ∧
      Chip.Only [NTU_BND_LOST, NTU_ALARM] [] [] [] s.chip c)

/-- R235, R278, R279, R280, Tables 11.2 and 11.3: the messages of the PTP master.
Where the rules leave a choice it follows the model's (assumption log entry 126). -/
def Obligations.PtpMaster : Prop :=
  (∀ (n : Nat) (s : State), n < 20 → s.chip.ptpSends n = true →
    Does (.ptpSync n) s fun c =>
      let m := { s.chip.ptpBase 0 (Map.get 0 s.chip.time.ptpSeq (8 * n)) with logInterval := logWithin (-7) 1 (s.chip.f NTU_PTP_CFG_SYNC_LOG) }
      let t := s.chip.tod3.map fun v => 10 * v + 3 * ((s.chip.miiDelays n).2 : Int)
      c.sent = (if n < 4 ∧ s.chip.flag NTU_PTP_CFG_TWO_STEP = false then [.ptp n { m with time := t, oneStep := true }]
        else [.ptp n { m with type := 2, time := t }, .ptp n m]) ++ s.chip.sent ∧
      Map.get 0 c.time.ptpSeq (8 * n) = (Map.get 0 s.chip.time.ptpSeq (8 * n) + 1) % 65536 ∧ bitOf (c.f MBX_PTP_STATUS_SENDING) n = true ∧
      Chip.Only [MBX_PTP_STATUS] [] [] [.time, .sent] s.chip c) ∧
  (∀ (n : Nat) (s : State), n < 20 → s.chip.ptpSends n = true →
    Does (.ptpAnnounce n) s fun c =>
      let q := if s.chip.flag NTU_STATUS_HO_AGED then (248, false, false, 0xA0)
        else if s.chip.timeState = 3 then (if s.chip.flag NTU_STATUS_TRACEABLE then (7, true, true, 0xA0) else (187, false, false, 0xA0))
        else if s.chip.flag NTU_STATUS_TRACEABLE then (6, true, true, 0x50) else (52, false, true, 0x50)
      c.sent = .ptp n { s.chip.ptpBase 1 (Map.get 0 s.chip.time.ptpSeq (8 * n + 1)) with
        logInterval := logWithin (-3) 3 (s.chip.f NTU_PTP_CFG_ANN_LOG), clockClass := q.1, timeTraceable := q.2.1
        freqTraceable := q.2.2.1, timeSource := q.2.2.2, utcOffset := s.chip.f NTU_PTP_CFG_UTC_OFS } :: s.chip.sent ∧
      Map.get 0 c.time.ptpSeq (8 * n + 1) = (Map.get 0 s.chip.time.ptpSeq (8 * n + 1) + 1) % 65536 ∧
      Chip.Only [MBX_PTP_STATUS] [] [] [.time, .sent] s.chip c) ∧
  (∀ (n : Nat) (peer : Bool) (seq : Nat) (s : State), s.chip.isOn 46 = true → bitOf (s.chip.f NTU_PTP_PORTS_EN) n = true →
    s.chip.flag (ETH_STATUS_LINK n) = true → peer = s.chip.flag NTU_PTP_CFG_P2P → seq < 65536 →
    Does (.ptpDelayReq n peer seq) s fun c =>
      c.sent = .ptp n { s.chip.ptpBase (if peer then 4 else 3) seq with
        logInterval := logWithin (-7) 5 (s.chip.f NTU_PTP_CFG_DREQ_LOG)
        time := s.chip.tod3.map fun v => 10 * v - 3 * ((s.chip.miiDelays n).1 : Int) } :: s.chip.sent ∧
      Chip.Only [] [] [] [.sent] s.chip c)

/-! ## Carriage and bursts -/

/-- R139, R140, R141, R143, R144, R147, R148, R149, R150, R151: what the next carriage frame of a packet area does, when the contexts of a
line are given up, and what a bulk packet does.
Where the rules leave a choice it follows the model's (assumption log entry 64). -/
def Obligations.DownstreamCarriage : Prop :=
  (∀ (x : Line) (hdr : List Byte) (hdrErrored : Bool) (body : List Byte) (bodyErrored : Bool) (pos : Nat) (s : State),
    (s.chip.line x).area = some pos → s.chip.isOn 8 = true →
    (hdrErrored = true ∨ correctHeader (s.chip.flag CAR_CFG_HEC_CORR) hdr = none) →
    Does (.carriageFrame x hdr hdrErrored body bodyErrored) s fun c =>
      (c.line x).area = none ∧ c.ctr (N_CAR_HEC_UNC x) = s.chip.ctr (N_CAR_HEC_UNC x) + 1 ∧
      c.ctr (N_CAR_AREA_ABANDON x) = s.chip.ctr (N_CAR_AREA_ABANDON x) + 1 ∧
      Chip.Only [CAR_ALARM] [N_CAR_HEC_UNC x, N_CAR_AREA_ABANDON x] [] [.line x] s.chip c) ∧
  (∀ (x : Line) (hdr hb : List Byte) (fixed : Bool) (body : List Byte) (bodyErrored : Bool) (pos : Nat) (s : State),
    (s.chip.line x).area = some pos → s.chip.isOn 8 = true → correctHeader (s.chip.flag CAR_CFG_HEC_CORR) hdr = some (hb, fixed) →
    Does (.carriageFrame x hdr false body bodyErrored) s fun c =>
      let h := parseHeader hb
      let tag := s.chip.tagged x h.flow
      let size := 10 + h.len + (if tag then 16 else 0)
      let whole := fun (plain : List Byte) => if h.flow = 0xFFE then
          (c.line x).bulkRx = (s.chip.line x).bulkRx ++ [plain] ∧ c.twoEnded = s.chip.twoEnded
        else if (s.chip.takeTransit (cellsOf plain.length)).isSome = true then
          c.ctr (N_CAR_PKTS x) = s.chip.ctr (N_CAR_PKTS x) + 1 ∧
          c.twoEnded.waiting = s.chip.twoEnded.waiting ++ [⟨x, h.flow, h.seq, h.express, natBits (s.chip.tab 0 h.flow) 0 16, plain,
            ((s.chip.takeTransit (cellsOf plain.length)).map (·.2)).getD [], s.chip.now⟩]
        else c.ctr N_COP_NOCELL = s.chip.ctr N_COP_NOCELL + 1 ∧ c.twoEnded = s.chip.twoEnded
      (if packetAreaEnd < pos + size then
        (c.line x).area = none ∧ c.ctr (N_CAR_AREA_ABANDON x) = s.chip.ctr (N_CAR_AREA_ABANDON x) + 1 ∧ c.twoEnded = s.chip.twoEnded
      else
        (c.line x).area = (if pos + size + 10 ≤ packetAreaEnd then some (pos + size) else none) ∧
        (if (h.express = true ∧ ¬(h.first = true ∧ h.last = true)) ∨ (h.first = true ∧ h.fidx ≠ 0) ∨ (h.len = 0 ∧ h.flow ≠ 0xFFF) then
          c.ctr (N_CAR_HDR_BAD x) = s.chip.ctr (N_CAR_HDR_BAD x) + 1 ∧ c.twoEnded = s.chip.twoEnded
        else if h.flow = 0xFFF then c.twoEnded = s.chip.twoEnded ∧ (c.line x).bulkRx = (s.chip.line x).bulkRx
        else if natBits (s.chip.tab 0 h.flow) (31 - x.idx) 1 = 0 then
          c.ctr (N_CAR_FLOW_OFF x) = s.chip.ctr (N_CAR_FLOW_OFF x) + 1 ∧ c.twoEnded = s.chip.twoEnded
        else if bodyErrored = true then c.ctr (N_CAR_ERRD x) = s.chip.ctr (N_CAR_ERRD x) + 1 ∧ c.twoEnded = s.chip.twoEnded
        else if tag = false then (h.first = true → h.last = true → whole (slice body 0 h.len))
        else if (s.chip.carriageKeyAt x h.flow h.kg).isNone = true then
          c.ctr (N_CAR_KEY_MISS x) = s.chip.ctr (N_CAR_KEY_MISS x) + 1 ∧ c.twoEnded = s.chip.twoEnded
        else
          let plain := Config.gcmDecrypt ((s.chip.carriageKeyAt x h.flow h.kg).getD []) (carriageIv x false (s.chip.line x).fn h.flow h.seq h.fidx)
            (slice hb 0 8) (slice body 0 h.len) (slice body h.len 16)
          (if plain.isNone = true then c.ctr (N_CAR_TAG_FAIL x) = s.chip.ctr (N_CAR_TAG_FAIL x) + 1 ∧ c.twoEnded = s.chip.twoEnded
          else c.ctr (N_CAR_FRAMES x) = s.chip.ctr (N_CAR_FRAMES x) + 1 ∧ (h.first = true → h.last = true → whole (plain.getD []))))) ∧
      c.ctr (N_CAR_HEC_CORR x) = s.chip.ctr (N_CAR_HEC_CORR x) + (if fixed = true then 1 else 0) ∧
      Chip.InPages [13, 20] [] [.line x, .cooper, .twoEnded] s.chip c) ∧
  (∀ (x : Line) (k : Reasm) (r : List Reasm) (s : State), (s.chip.line x).contexts = k :: r →
    Does (.reasmTimeout x) s fun c =>
      let base := s.chip.elapse (r.foldl (fun a j => min a j.expires) k.expires - s.chip.now)
      (∀ j ∈ (c.line x).contexts, base.now < j.expires) ∧
      c.ctr (N_CAR_REASM_TO x) = base.ctr (N_CAR_REASM_TO x) + BitVec.ofNat 64 ((k :: r).filter fun j => decide (j.expires ≤ base.now)).length ∧
      c.flag (carAlarm x 5) = true ∧ Chip.InPages [13, 20] [] [.line x, .cooper] base c) ∧
  (∀ (x : Line) (p : List Byte) (r : List (List Byte)) (b : BulkIn) (s : State),
    (s.chip.line x).bulkRx = p :: r → (s.chip.line x).bulkIn = some b → byteAt p 0 ≠ 1 →
    Does (.bulkSegment x) s fun c =>
      let off := beAt p 8 4
      let seg := p.drop 12
      let all := { b with parts := b.parts ++ [(off, seg)] }
      (c.line x).bulkRx = r ∧
      (if byteAt p 0 = 2 ∧ byteAt p 1 = b.type ∧ beAt p 4 4 = b.size ∧ off + seg.length ≤ b.size ∧ b.fresh off seg.length = true ∧
        (s.chip.flag (LPx_ACT_STATUS_KEYED x) = true ∨ b.type = 1 ∨ b.type = 3) then
        c.ctr (N_CAR_BULK_BAD x) = s.chip.ctr (N_CAR_BULK_BAD x) ∧
        (if all.received = b.size then
          (c.line x).bulkIn = none ∧ (b.type ≠ 1 → (c.line x).bulkDone = some ⟨b.type, b.hash, b.ack, all.assemble⟩)
        else (c.line x).bulkIn = some all)
      else c.ctr (N_CAR_BULK_BAD x) = s.chip.ctr (N_CAR_BULK_BAD x) + 1 ∧ (c.line x).bulkIn = some b) ∧
      Chip.Only [LPx_PROVE_STATUS x] [N_CAR_BULK_BAD x, N_LPx_ACT_IGN x] [] [.line x] s.chip c)

/-- R77, R79, R95, R96, R97, R153, R154, R155, R156: which codeword commits and what that fixes; what the assembler places first in the open
bytes of a grant, a bulk packet in a default grant, an express frame in a port's grant; and the bursts a line sends: the announcement at a
random delay in its window, the answer to a ranging grant, and the burst of a grant whose codewords are committed.
Where the rules leave a choice it follows the model's (assumption log entries 9, 10, 82 and 83). -/
def Obligations.BurstsOfALine : Prop :=
  (∀ (x : Line) (g : Grant) (s : State), s.chip.isOn (txDom x) = true → s.chip.nextCommit x = some g →
    Does (.codewordCommit x) s fun c =>
      let h := (c.line x).grants.find? fun h => grantInstant h == grantInstant g
      h.map (·.committed) = some (g.committed + 1) ∧ (g.committed = 0 → (h.bind (·.hdr)).isSome = true) ∧
      (h.all fun h => h.placed.all fun p => p.fixed || decide (codewordBytes g.len (g.committed + 1) ≤ p.start)) = true ∧
      (c.line x).grants.length = (s.chip.line x).grants.length ∧
      Chip.InPages ([13, 20, 21] ++ linePages x) [] [.line x, .cooper, .drover] (s.chip.elapse (s.chip.commitAt x g - s.chip.nt.ccy)) c) ∧
  (∀ (x : Line) (k : CellCheck) (g : Grant) (b : BulkItem) (s : State), s.chip.firstGrant x (s.chip.uncommitted x) = some g →
    g.kind = .default → g.placed = [] → s.chip.isOn 8 = true → (s.chip.line x).bulkOut.find? (fun b => !b.taken) = some b → b.sent = 0 →
    b.afterFn = none → s.chip.sendable x 0xFFE g.fn = true →
    (s.chip.bulkPacket x g b).length + s.chip.frameCost x 0xFFE ≤ burstCapacity g.len - s.chip.regionLength x g →
    Does (.codewordRebuild x k) s fun c =>
      (((c.line x).grants.find? fun h => grantInstant h == grantInstant g).bind (·.placed.head?)).map
        (fun p => (p.queue, p.frame, p.start, p.len, p.last)) =
          some (none, b.id, s.chip.regionLength x g, (s.chip.bulkPacket x g b).length, true) ∧
      Chip.InPages [13] [] [.line x] s.chip c) ∧
  (∀ (x : Line) (p q : Nat) (g : Grant) (r : QRef) (f : Frame) (s : State), s.chip.expressQueues (allocPort x p) none ≠ [] →
    s.chip.firstGrant x (fun h => h.kind == .port p && h.e && s.chip.uncommitted x h) = some g → g.placed = [] → g.deferred = false →
    s.chip.canAssemble g = true → (s.chip.selectExpress (allocPort x p) (some g.fn)).map (·.2.1) = some q → s.chip.headRef q = some r →
    s.chip.frame? r.frame = some f → s.chip.readable f = true → s.chip.flowUp x f.uflow = true → s.chip.sendable x f.uflow g.fn = true →
    f.bytes.length + 26 ≤ burstCapacity g.len - s.chip.regionLength x g →
    Does (.expressStage x p) s fun c =>
      (((c.line x).grants.find? fun h => grantInstant h == grantInstant g).bind (·.placed.head?)).map
        (fun p => (p.queue, p.frame, p.start, p.len, p.last)) = some (some q, r.frame, s.chip.regionLength x g, f.bytes.length, true) ∧
      Chip.InPages ([13, 20, 21] ++ linePages x) [] [.line x, .cooper, .drover] s.chip c) ∧
  (∀ (x : Line) (g : Grant) (s : State), s.chip.firstGrant x (fun g => g.kind == .announce) = some g → s.chip.actState x = stAnnouncing →
    (s.chip.line x).skip = 0 → 26 ≤ g.len → s.chip.isOn (txDom x) = true → s.chip.ldoff x = false →
    Does (.announce x) s fun c =>
      let d := Config.freeNat s.chip.freeCtr % (if g.len < 72026 then g.len - 25 else 72001)
      (c.sent.head?.bind Output.burstAt) = some (x, g.fn, g.start + d) ∧ c.sent.drop 1 = s.chip.sent ∧
      c.ctr (N_LPx_ANN_SENT x) = s.chip.ctr (N_LPx_ANN_SENT x) + 1 ∧ c.ctr (N_LPx_BURSTS x) = s.chip.ctr (N_LPx_BURSTS x) + 1 ∧
      (c.deadline (.line x .annWait)).isSome = true ∧ c.actState x = stAnnouncing ∧
      Chip.InPages (13 :: linePages x) [.line x .annWait] [.line x, .free, .sent]
        (s.chip.elapse (s.chip.grantAt x g + d - 2 - g.plen - s.chip.f (LNx_TX_CTRL_BEN_LEAD x) - s.chip.nt.ccy)) c) ∧
  (∀ (x : Line) (g : Grant) (s : State), s.chip.firstGrant x (fun g => g.kind == .announce) = some g → s.chip.actState x = stAnnouncing →
    0 < (s.chip.line x).skip →
    Does (.announce x) s fun c =>
      (c.line x).skip = (s.chip.line x).skip - 1 ∧ c.sent = s.chip.sent ∧ Chip.Only [LPx_GRANT_STATUS x] [] [] [.line x] s.chip c) ∧
  (∀ (x : Line) (g : Grant) (s : State), s.chip.firstGrant x (fun g => g.kind == .default) = some g → s.chip.actState x = stRanging →
    26 ≤ g.len → s.chip.isOn (txDom x) = true → s.chip.ldoff x = false →
    Does (.rangingResp x) s fun c =>
      (c.sent.head?.bind Output.burstAt) = some (x, g.fn, g.start) ∧ c.sent.drop 1 = s.chip.sent ∧
      c.ctr (N_LPx_RNG_RESP x) = s.chip.ctr (N_LPx_RNG_RESP x) + 1 ∧ c.actState x = stRanging ∧
      Chip.InPages (13 :: linePages x) [] [.line x, .sent]
        (s.chip.elapse (s.chip.grantAt x g - 2 - g.plen - s.chip.f (LNx_TX_CTRL_BEN_LEAD x) - s.chip.nt.ccy)) c) ∧
  (∀ (x : Line) (g : Grant) (s : State), s.chip.firstGrant x (s.chip.assembled x) = some g →
    Does (.upstreamBurst x) s fun c =>
      ((c.line x).grants.all fun h => grantInstant h != grantInstant g) = true ∧
      (if s.chip.isOn (txDom x) = true ∧ s.chip.ldoff x = false then
        (c.sent.head?.bind Output.burstAt) = some (x, g.fn, g.start) ∧ c.sent.drop 1 = s.chip.sent ∧
        c.ctr (N_LPx_BURSTS x) = s.chip.ctr (N_LPx_BURSTS x) + 1 ∧ c.flag (LNx_TX_STATUS_IN_BURST x) = true ∧
        c.flag (LNx_TX_STATUS_BEN x) = true
      else c.sent = s.chip.sent ∧ c.ctr (N_LPx_GRANT_LOST x) = s.chip.ctr (N_LPx_GRANT_LOST x) + 1) ∧
      Chip.InPages ([13, 20, 21] ++ linePages x) [] [.line x, .cooper, .drover, .sent]
        (s.chip.elapse (s.chip.grantAt x g - 2 - g.plen - s.chip.f (LNx_TX_CTRL_BEN_LEAD x) - s.chip.nt.ccy)) c)


/-! ## The classifier, the meters, admission and the scheduler -/

/-- R161, R162, R164, R172, R173, R174, R175, R176, R177, R180: what the classifier does with the next packet at its input, and when a fragment
entry ends.
Where the rules leave a choice it follows the model's (assumption log entries 62, 66 and 67). -/
def Obligations.ClassifierActions : Prop :=
  (∀ (ecc : Bool) (p : Packet) (s : State), s.chip.isOn 11 = true → s.chip.isOn 24 = true → (s.chip.elapse 1).nextPacket = some p → p.pass = 0 →
    Does (.classify ecc) s fun c =>
      let base := s.chip.elapse 1
      let ps := s.chip.parse p.bytes
      let p' := { p with epoch := s.chip.f SRT_EPOCH_STATUS_ACTIVE }
      let forward := p'.acted p.bytes (s.chip.f (SRT_PORT_CFG_DEF_QID p.ingress))
      let trap := fun (code : Nat) => { p'.acted p.bytes (s.chip.f SRT_QCFG0_TRAP_QID) with trap := some code }
      let entry := s.chip.lookup (s.chip.key ps p.ingress 0 p.tag 0 false) p'.epoch
      let a := ruleAction (ruleAt s.chip.sorter.rules (entry.getD 0))
      let queue := natBits a 111 13
      let edited := (decap ps (natBits a 43 4)).map (vlanOp (natBits a 64 2) (natBits a 63 1) (natBits a 47 16))
      let full : Acted :=
        { p'.acted (edited.getD []) (if natBits a 124 1 = 1 then queue / 8 * 8 + priority ps p.tag (natBits a 109 2) else queue) with
          qmode := natBits a 124 1 == 1, meter := if natBits a 108 1 = 1 then some (natBits a 95 13) else none, metered := natBits a 108 1 == 0
          pre := if natBits a 93 2 = 3 then 0 else natBits a 93 2, uflow := natBits a 81 12, lmode := natBits a 79 2 }
      c.sorter.input = s.chip.sorter.input.erase p ∧
      (if ps.err ≠ 0 then
        c.ctr N_SRT_PARSE_ERR = s.chip.ctr N_SRT_PARSE_ERR + 1 ∧ c.f SRT_PARSE_LAST_INGRESS = p.ingress % 2 ^ SRT_PARSE_LAST_INGRESS.width ∧
        c.f SRT_PARSE_LAST_REASON = ps.err % 2 ^ SRT_PARSE_LAST_REASON.width ∧
        c.sorter.acted = s.chip.sorter.acted ++ (if s.chip.f (SRT_PORT_CFG_MALF_ACT p.ingress) = 1 then [forward]
          else if s.chip.f (SRT_PORT_CFG_MALF_ACT p.ingress) = 2 then [trap 0xFE] else [])
      else if ps.frag ≠ 0 then True
      else if entry.isNone = true then
        c.ctr N_SRT_MISS = s.chip.ctr N_SRT_MISS + 1 ∧ c.ctr N_SRT_LOOKUPS = s.chip.ctr N_SRT_LOOKUPS + 1 ∧
        c.sorter.acted = s.chip.sorter.acted ++ (if s.chip.f (SRT_PORT_CFG_DEF_DISP p.ingress) = 0 then [forward]
          else if s.chip.f (SRT_PORT_CFG_DEF_DISP p.ingress) = 2 then [trap 0xFF] else [])
      else
        c.ctr N_SRT_HITS = s.chip.ctr N_SRT_HITS + 1 ∧ c.ctr N_SRT_LOOKUPS = s.chip.ctr N_SRT_LOOKUPS + 1 ∧
        (if ecc = true then c.ctr N_SRT_ECC_DROP = s.chip.ctr N_SRT_ECC_DROP + 1 ∧ c.sorter.acted = s.chip.sorter.acted
        else if natBits a 125 3 = 1 then c.sorter.acted = s.chip.sorter.acted
        else if 5 ≤ natBits a 125 3 ∨ edited.isNone = true then c.flag SRT_ALARM_BAD_ACTION = true ∧ c.sorter.acted = s.chip.sorter.acted
        else if natBits a 125 3 = 2 then c.sorter.acted = s.chip.sorter.acted ++
          [{ full with queue := s.chip.f SRT_QCFG0_TRAP_QID, qmode := false, trap := some (min 0xEF (natBits a 35 8)) }]
        else if natBits a 125 3 = 4 then c.ctr N_SRT_RECIRC = s.chip.ctr N_SRT_RECIRC + 1 ∧ c.sorter.acted = s.chip.sorter.acted ++
          [{ p'.acted (edited.getD []) (s.chip.f SRT_QCFG0_RECIRC_QID) with recirc := true }]
        else if s.chip.servesLine full.queue = true ∧ 0xFFE ≤ full.uflow then
          c.flag SRT_ALARM_BAD_ACTION = true ∧ (natBits a 125 3 = 0 → c.sorter.acted = s.chip.sorter.acted)
        else c.sorter.acted = s.chip.sorter.acted ++ [full] ++ (if natBits a 125 3 = 3 then
          [{ p'.acted (edited.getD []) (s.chip.f SRT_QCFG1_MIRROR_QID) with banks := [] }] else []))) ∧
      Chip.InPages [16] [] [.sorter, .cooper] base c) ∧
  (∀ (ecc : Bool) (p : Packet) (s : State), s.chip.isOn 11 = true → s.chip.isOn 24 = true → (s.chip.elapse 1).nextPacket = some p → p.pass = 1 →
    p.epoch ≠ s.chip.f SRT_EPOCH_STATUS_ACTIVE → s.chip.sorter.swapAt + 2975 < s.chip.now + 1 →
    Does (.classify ecc) s fun c =>
      c.ctr N_SRT_EPOCH_STALE = s.chip.ctr N_SRT_EPOCH_STALE + 1 ∧ c.flag SRT_ALARM_EPOCH_STALE = true ∧
      c.sorter.acted = s.chip.sorter.acted ∧ c.sorter.input = s.chip.sorter.input.erase p ∧
      Chip.InPages [16] [] [.sorter, .cooper] (s.chip.elapse 1) c) ∧
  (∀ (e : FragEntry) (r : List FragEntry) (s : State), s.chip.sorter.frags = e :: r →
    Does .fragEntryAged s fun c =>
      let base := s.chip.elapse (r.foldl (fun a f => min a f.expires) e.expires - s.chip.now)
      (∀ f ∈ c.sorter.frags, base.now < f.expires) ∧ (∀ f ∈ e :: r, base.now < f.expires → f ∈ c.sorter.frags) ∧
      c.ctr N_SRT_FRAG_AGED = base.ctr N_SRT_FRAG_AGED + BitVec.ofNat 64 ((e :: r).filter fun f => decide (f.expires ≤ base.now)).length ∧
      Chip.Only [] [N_SRT_FRAG_AGED] [] [.sorter] base c)

/-- R183, R187, R191, R192, R193, R194, R199, R200: how a meter colours a frame and what its colour does, when a queue admits a green frame, and what
a selection takes.
Where the rules leave a choice it follows the model's (assumption log entries 19, 33 and 63). -/
def Obligations.MeteringAndAdmission : Prop :=
  (∀ (a : Acted) (i : Nat) (s : State), s.chip.sorter.acted.find? (fun a => !a.metered) = some a → a.meter = some i → s.chip.isOn 26 = true →
    Does .meterUpdate s fun c =>
      let e := s.chip.tab 2 i
      let m := s.chip.meterNow i
      let b := a.inLen * 2 ^ 24
      let pre := if bitOf e 29 = true then a.pre else 0
      let colour := if natBits e 30 1 = 0 then (if pre = 0 ∧ b ≤ m.c then 0 else if pre ≤ 1 ∧ b ≤ m.e then 1 else 2)
        else (if pre = 2 ∨ m.e < b then 2 else if pre = 1 ∨ m.c < b then 1 else 0)
      let remarked := if a.qmode = true then a.queue / 8 * 8 + natBits e (24 - 4 * colour) 3 else a.queue
      (if entryValid e = true then
        c.ctr (N_TOL_GREEN + 8 * colour) = s.chip.ctr (N_TOL_GREEN + 8 * colour) + 1 ∧
        (Map.get {} c.meters i).c = (if colour = 0 then m.c - b else m.c) ∧
        (Map.get {} c.meters i).e = (if colour = 1 ∨ (colour = 0 ∧ natBits e 30 1 = 1) then m.e - b else m.e) ∧
        (Map.get {} c.meters i).green = (if colour = 0 then m.green + BitVec.ofNat 64 a.inLen else m.green) ∧
        c.sorter.acted = replaceUnmetered (if natBits e (2 * colour) 2 = 0 then [{ a with metered := true, colour := colour }]
          else if natBits e (2 * colour) 2 = 1 then [{ a with metered := true, colour := colour, queue := remarked }] else []) s.chip.sorter.acted
      else
        c.ctr N_TOL_NO_METER = s.chip.ctr N_TOL_NO_METER + 1 ∧ c.meters = s.chip.meters ∧
        c.sorter.acted = replaceUnmetered [{ a with metered := true, meter := none }] s.chip.sorter.acted) ∧
      Chip.InPages [22] [] [.meters, .sorter, .cooper] s.chip c) ∧
  (∀ (a : Acted) (r : List Acted) (p : Nat) (s : State), s.chip.sorter.acted = a :: r → a.metered = true → s.chip.isOn 24 = true →
    s.chip.portOf a.queue = some p → p < 20 → s.chip.isExpress a.queue = false → a.colour = 0 →
    Does .admission s fun c =>
      let e := s.chip.tab 1 a.queue
      let n := cellsOf a.bytes.length
      let o := s.chip.queueCells a.queue
      let more := o + n - natBits e 0 18
      let inc := more - (o - natBits e 0 18)
      c.sorter.acted = r ∧
      (if (natBits e 32 18 = 0 ∨ o + n ≤ natBits e 32 18) ∧ more ≤ alphaShare (natBits e 27 3) s.chip.freeShared ∧ inc ≤ s.chip.freeShared then
        c.queue a.queue = s.chip.queue a.queue ++ [{ frame := s.chip.cooper.nextId, enq := s.chip.now }] ∧
        c.cooper.nextId = s.chip.cooper.nextId + 1 ∧ c.ctr N_COP_FRAMES_IN = s.chip.ctr N_COP_FRAMES_IN + 1 ∧
        (c.cooper.frames.getLast?).map (fun f => (f.id, f.bytes, f.shared)) = some (s.chip.cooper.nextId, a.bytes, inc)
      else
        c.cooper.queues = s.chip.cooper.queues ∧ c.cooper.frames = s.chip.cooper.frames ∧
        c.ctr N_COP_ADM_DROP_G = s.chip.ctr N_COP_ADM_DROP_G + 1 ∧
        Map.get 0 c.cooper.drops a.queue = min (2 ^ 32 - 1) (Map.get 0 s.chip.cooper.drops a.queue + 1)) ∧
      Chip.InPages [20] [] [.sorter, .cooper] s.chip c) ∧
  (∀ (a : Acted) (r : List Acted) (s : State), s.chip.sorter.acted = a :: r → a.metered = true → s.chip.isOn 24 = true →
    s.chip.portOf a.queue = none →
    Does .admission s fun c =>
      c.sorter.acted = r ∧ c.cooper.queues = s.chip.cooper.queues ∧ c.ctr N_COP_INVALID_Q = s.chip.ctr N_COP_INVALID_Q + 1 ∧
      Chip.InPages [20] [] [.sorter, .cooper] s.chip c) ∧
  (∀ (p q : Nat) (r : QRef) (f : Frame) (s : State), p < 20 → s.chip.schedulerWorks = true → s.chip.asks p = true →
    (s.chip.drover.chosen.any fun e => e.1 == p) = false → (s.chip.select p none).map (·.2.1) = some q → s.chip.headRef q = some r →
    s.chip.frame? r.frame = some f → s.chip.readable f = true →
    Does (.schedulerSelect p) s fun c =>
      c.drover.chosen = s.chip.drover.chosen ++ [(p, { f with qid := q })] ∧ ((c.queue q).all fun k => k.frame != r.frame) = true ∧
      (∀ k < 8192, k ≠ q → c.queue k = s.chip.queue k) ∧ c.ctr N_DRV_SEL = s.chip.ctr N_DRV_SEL + 1 ∧
      Chip.InPages [20, 21] [] [.cooper, .drover] s.chip c)

/-! ## Ethernet ports -/

/-- R216, R217, R218, R222, R223, R226, R228, R234, Table 9.3: what becomes of what arrives at a port that works and has its link up.
Where the rules leave a choice it follows the model's (assumption log entries 20, 121 and 122). -/
def Obligations.EthernetReceive : Prop :=
  (∀ (n : Nat) (r : RxFrame) (s : State), n < 20 → s.chip.portWorks n = true → s.chip.flag (ETH_STATUS_LINK n) = true → r.part = .whole →
    Does (.ethRxFrame n r) s fun c =>
      let bs := r.bytes
      let body := bs.take (bs.length - 4)
      let one := fun (a : Nat) => c.ctr a = s.chip.ctr a + 1 ∧ c.sorter.input = s.chip.sorter.input
      let pause := beAt bs 16 2
      (if r.cutOff = true then one (N_ETHP_RX_ABORT n)
      else if r.code = true then one (N_ETHP_RX_CODE_ERR n)
      else if bs.length < 64 then one (N_ETHP_RX_RUNT n)
      else if max 64 (min 16000 (s.chip.f (ETH_RXF_MAX_FRAME n))) < bs.length then one (N_ETHP_RX_OVERSIZE n)
      else if leNat (bs.drop (bs.length - 4)) ≠ fcs32 body then one (N_ETHP_RX_FCS_ERR n)
      else if beAt bs 12 2 = 0x8808 then
        (if beAt bs 14 2 = 1 ∧ (beAt bs 0 6 = 0x0180C2000001 ∨ beAt bs 0 6 = s.chip.portAddr n) then
          one (N_ETHP_RX_PAUSE n) ∧
          (s.chip.flag (ETH_PAUSE_OBEY n) = true → c.flag (ETH_STATUS_PAUSED n) = decide (pause ≠ 0) ∧
            c.deadline (.pause n) = (if pause = 0 then none else some (s.chip.now + s.chip.byteCcy n (64 * pause)))) ∧
          (s.chip.flag (ETH_PAUSE_OBEY n) = false → c.flag (ETH_STATUS_PAUSED n) = s.chip.flag (ETH_STATUS_PAUSED n))
        else one (N_ETHP_RX_MACCTL_OTHER n))
      else if s.chip.filter n bs = false then one (N_ETHP_RX_FILT_DROP n)
      else if 65536 < s.chip.fifoBytes n + bs.length then one (N_ETHP_RX_OVF_FRAMES n) ∧ c.flag (ETH_ALARM_RX_OVF n) = true
      else
        c.ctr (N_ETHP_RX_FRAMES n) = s.chip.ctr (N_ETHP_RX_FRAMES n) + 1 ∧
        c.ctr (N_ETHP_RX_BYTES n) = s.chip.ctr (N_ETHP_RX_BYTES n) + BitVec.ofNat 64 body.length ∧
        c.sorter.input = s.chip.sorter.input ++ [{ ingress := n, tag := s.chip.f (SRT_PORT_TAG_TAG n), bytes := body, ride := {
          stamp := if s.chip.flag (ETH_TS_CFG_TS_EN_RX n) && (s.chip.ptpEvent body).isSome then
            some (s.chip.nt.fn % 2 ^ 30, s.chip.nt.cif, r.frac % 256) else none } }]) ∧
      c.ctr (N_ETHP_FEC_CORR_CW n) = s.chip.ctr (N_ETHP_FEC_CORR_CW n) + BitVec.ofNat 64 r.fecCorr ∧
      c.ctr (N_ETHP_FEC_UNC_CW n) = s.chip.ctr (N_ETHP_FEC_UNC_CW n) + BitVec.ofNat 64 r.fecUnc ∧
      Chip.Within [ETH_STATUS n, ETH_ALARM n].contains (onPages [24, 25]) [TimerKey.pause n].contains [.sorter] s.chip c) ∧
  (∀ (n k : Nat) (more : Bool) (r : RxFrame) (s : State), n < 4 → s.chip.portWorks n = true → s.chip.flag (ETH_STATUS_LINK n) = true →
    (r.part = .initial ∨ r.part = .continuation k more) →
    Does (.ethRxFrame n r) s fun c =>
      (r.part = .initial → (c.port n).rebuild = some (r.bytes, 0) ∧ c.sorter = s.chip.sorter) ∧
      (r.part = .continuation k more →
        if (s.chip.port n).rebuild.map (·.2) = some (k % 4) then
          (c.port n).rebuild = (if more = true then (s.chip.port n).rebuild.map fun b => (b.1 ++ r.bytes, (k % 4 + 1) % 4) else none) ∧
          (more = true → c.sorter = s.chip.sorter)
        else (c.port n).rebuild = none ∧ c.ctr (N_ETHP_RX_MM_ASSY_ERR n) = s.chip.ctr (N_ETHP_RX_MM_ASSY_ERR n) + 1 ∧ c.sorter = s.chip.sorter) ∧
      c.ctr (N_ETHP_RX_MM_FRAGS n) = s.chip.ctr (N_ETHP_RX_MM_FRAGS n) + 1 ∧
      Chip.Within [ETH_STATUS n, ETH_ALARM n].contains (onPages [24, 25]) [TimerKey.pause n].contains [.sorter, .ports] s.chip c) ∧
  (∀ (n : Nat) (r : RxFrame) (s : State), n < 4 → s.chip.portWorks n = true → s.chip.flag (ETH_STATUS_LINK n) = true →
    (r.part = .verify ∨ r.part = .respond) →
    Does (.ethRxFrame n r) s fun c =>
      (r.part = .verify → c.sent = (if s.chip.flag (ETH_MM_PREEMPT_EN n) then [.mPacket n true] else []) ++ s.chip.sent) ∧
      (r.part = .respond → s.chip.f (ETH_STATUS_MM_VERIFY n) = 1 →
        c.f (ETH_STATUS_MM_VERIFY n) = 2 ∧ c.flag (ETH_STATUS_MM_ACTIVE n) = true ∧ c.deadline (.verify n) = none) ∧
      c.sorter = s.chip.sorter ∧ Chip.Within portPage (onPages [24, 25]) [TimerKey.verify n].contains [.sent] s.chip c)

/-- R219, R220, R226, R227, R235: what a port sends at the end of the previous frame, how an express frame cuts a preemptable one, and how preemption
is verified.
Where the rules leave a choice it follows the model's (assumption log entries 20, 123 and 124). -/
def Obligations.EthernetTransmit : Prop :=
  (∀ (n frac : Nat) (k : CellCheck) (f : Frame) (s : State), n < 20 → s.chip.asks n = true → s.chip.flag (ETH_STATUS_LINK n) = true →
    (s.chip.port n).parked = none → s.chip.drover.chosen.find? (fun e => e.1 == n) = some (n, f) → f.ride.request = 0 →
    k.uncorrectable = false → k.crc = false →
    Does (.ethTxFrame n k frac) s fun c =>
      let base := s.chip.elapse ((s.chip.port n).ready - s.chip.now)
      let bs := withFcs f.bytes false
      c.sent = .frame n bs :: s.chip.sent ∧
      (c.port n).tx = some ⟨bs.length, 0, base.now, s.chip.expressFrame n f, false, false⟩ ∧
      (c.port n).ready = base.now + s.chip.byteCcy n (8 + bs.length) + s.chip.byteCcy n 12 ∧
      c.drover.chosen = s.chip.drover.chosen.filter (fun e => e.1 != n) ∧
      Chip.Only [] [N_COP_ECC_CORR] [] [.ports, .drover, .sent] base c) ∧
  (∀ (n frac : Nat) (k : CellCheck) (f : Frame) (s : State), n < 20 → s.chip.asks n = true → s.chip.flag (ETH_STATUS_LINK n) = false →
    s.chip.drover.chosen.find? (fun e => e.1 == n) = some (n, f) →
    Does (.ethTxFrame n k frac) s fun c =>
      let base := s.chip.elapse ((s.chip.port n).ready - s.chip.now)
      c.ctr (N_ETHP_TX_LINKDOWN_DROP n) = base.ctr (N_ETHP_TX_LINKDOWN_DROP n) + 1 ∧ c.sent = s.chip.sent ∧
      c.drover.chosen = s.chip.drover.chosen.filter (fun e => e.1 != n) ∧
      Chip.Only [] [N_ETHP_TX_LINKDOWN_DROP n] [] [.ports, .drover] base c) ∧
  (∀ (n frac : Nat) (k : CellCheck) (t : TxFrame) (s : State), n < 20 → s.chip.asks n = true → s.chip.flag (ETH_STATUS_LINK n) = true →
    (s.chip.port n).parked = some t → (s.chip.flag (ETH_STATUS_MM_ACTIVE n) = false ∨ s.chip.expressQueues n none = []) →
    Does (.ethTxFrame n k frac) s fun c =>
      let base := s.chip.elapse ((s.chip.port n).ready - s.chip.now)
      (c.port n).tx = some { t with start := base.now } ∧ (c.port n).parked = none ∧ c.sent = s.chip.sent ∧ Chip.Only [] [] [] [.ports] base c) ∧
  (∀ (n frac at_ : Nat) (t : TxFrame) (s : State), n < 4 → s.chip.flag (ETH_STATUS_MM_ACTIVE n) = true → s.chip.asks n = true →
    s.chip.expressQueues n none ≠ [] → (s.chip.port n).tx = some t → t.express = false →
    cutPoint t (s.chip.f (ETH_MM_ADD_FRAG_SIZE n)) (t.base + (ceilDiv ((s.chip.now - t.start) * s.chip.ethRate n) 12000 - 8)) = some at_ →
    Does (.preemption n {} frac) s fun c =>
      (c.port n).parked = some { t with base := at_, cut := true } ∧
      64 * (1 + s.chip.f (ETH_MM_ADD_FRAG_SIZE n)) ≤ at_ - t.base ∧ at_ + 64 ≤ t.total ∧
      c.ctr (N_ETHP_TX_PREEMPTED n) = s.chip.ctr (N_ETHP_TX_PREEMPTED n) + (if t.cut = true then 0 else 1) ∧
      c.ctr (N_ETHP_TX_MM_FRAGS n) = s.chip.ctr (N_ETHP_TX_MM_FRAGS n) + (if t.cut = true then 1 else 2) ∧
      Chip.InPages [20, 21, 24, 25] [] [.ports, .drover, .cooper, .free, .sent]
        (s.chip.elapse (t.start + s.chip.byteCcy n (8 + at_ - t.base + 16) - s.chip.now)) c) ∧
  (∀ (n : Nat) (s : State), n < 4 → s.chip.f (ETH_STATUS_MM_VERIFY n) = 1 →
    Does (.mmVerify n true) s fun c =>
      c.f (ETH_STATUS_MM_VERIFY n) = 2 ∧ c.flag (ETH_STATUS_MM_ACTIVE n) = true ∧ c.deadline (.verify n) = none ∧
      Chip.Within portPage (fun _ => false) [TimerKey.verify n].contains [] s.chip c) ∧
  (∀ (n d : Nat) (s : State), n < 4 → s.chip.deadline (.verify n) = some d →
    Does (.mmVerify n false) s fun c =>
      let base := s.chip.elapse (d - s.chip.now)
      (if (s.chip.port n).tries < 3 then
        c.sent = .mPacket n false :: s.chip.sent ∧ (c.port n).tries = (s.chip.port n).tries + 1 ∧
        c.deadline (.verify n) = some (base.now + max 1 (min 128 (s.chip.f (ETH_MM_VERIFY_TIME n))) * msCcy)
      else
        c.f (ETH_STATUS_MM_VERIFY n) = 3 ∧ c.flag (ETH_ALARM_PREEMPT_FAIL n) = true ∧ c.flag (ETH_STATUS_MM_ACTIVE n) = false ∧
        c.sent = s.chip.sent ∧ c.deadline (.verify n) = none) ∧
      Chip.Within portPage (fun _ => false) [TimerKey.verify n].contains [.ports, .sent] base c)

/-- R213, R214, R215, R223, R225: how PAUSED ends, when pause frames are sent, when LINK rises and falls, and how lanes find their polarity and
their order.
Where the rules leave a choice it follows the model's (assumption log entry 125). -/
def Obligations.PauseAndLink : Prop :=
  (∀ (n d : Nat) (s : State), s.chip.deadline (.pause n) = some d →
    Does (.pauseTimerExpiry n) s fun c =>
      c.flag (ETH_STATUS_PAUSED n) = false ∧ c.deadline (.pause n) = none ∧
      Chip.Only [ETH_STATUS n] [] [.pause n] [] (s.chip.elapse (d - s.chip.now)) c) ∧
  (∀ (n : Nat) (s : State), n < 20 → s.chip.portWorks n = true →
    Does (.xoffChange n) s fun c =>
      let x := max 1 (s.chip.f (ETH_PAUSE_THR_XOFF_FIFO n))
      let y := s.chip.f (ETH_PAUSE_THR_XON_FIFO n)
      let k := s.chip.f (ETH_PAUSE_THR_F_XOFF n)
      let gen := s.chip.flag (ETH_PAUSE_GEN_EN n)
      let enters := gen = true ∧ (1024 * x ≤ s.chip.fifoBytes n ∨ (k ≠ 0 ∧ s.chip.freeShared < 1024 * k))
      let leaves := gen = false ∨ (s.chip.fifoBytes n ≤ 1024 * (if x ≤ y then x - 1 else y) ∧ (k = 0 ∨ 1024 * k + 1024 ≤ s.chip.freeShared))
      let pausing := s.chip.flag (ETH_STATUS_PAUSING n)
      let pauseOf := fun (q : Nat) => Output.frame n (withFcs (beBytes 6 0x0180C2000001 ++ beBytes 6 (s.chip.portAddr n) ++ beBytes 2 0x8808 ++
        beBytes 2 1 ++ beBytes 2 q) false)
      (if pausing = true ∧ leaves then
        c.flag (ETH_STATUS_PAUSING n) = false ∧ c.deadline (.xoff n) = none ∧
        c.sent = (if s.chip.flag (ETH_STATUS_LINK n) then [pauseOf 0] else []) ++ s.chip.sent
      else if pausing = false ∧ enters then
        c.flag (ETH_STATUS_PAUSING n) = true ∧
        c.deadline (.xoff n) = some (s.chip.now + s.chip.byteCcy n (32 * s.chip.f (ETH_PAUSE_QUANTA n))) ∧
        c.sent = (if s.chip.flag (ETH_STATUS_LINK n) then [pauseOf (s.chip.f (ETH_PAUSE_QUANTA n))] else []) ++ s.chip.sent
      else c.flag (ETH_STATUS_PAUSING n) = pausing ∧ c.sent = s.chip.sent) ∧
      Chip.Only [ETH_STATUS n] [N_ETHP_TX_PAUSE n] [.xoff n] [.sent] s.chip c) ∧
  (∀ (n d : Nat) (s : State), s.chip.deadline (.xoff n) = some d → s.chip.flag (ETH_STATUS_PAUSING n) = true → s.chip.flag (ETH_STATUS_LINK n) = true →
    Does (.xoffRefresh n) s fun c =>
      let base := s.chip.elapse (d - s.chip.now)
      c.sent = .frame n (withFcs (beBytes 6 0x0180C2000001 ++ beBytes 6 (s.chip.portAddr n) ++ beBytes 2 0x8808 ++
        beBytes 2 1 ++ beBytes 2 (s.chip.f (ETH_PAUSE_QUANTA n))) false) :: s.chip.sent ∧
      c.deadline (.xoff n) = some (base.now + s.chip.byteCcy n (32 * s.chip.f (ETH_PAUSE_QUANTA n))) ∧
      Chip.Only [] [N_ETHP_TX_PAUSE n] [.xoff n] [.sent] base c) ∧
  (∀ (n : Nat) (r : LinkReport) (s : State), n < 20 → s.chip.portWorks n = true →
    Does (.linkChange n r) s fun c =>
      let m := s.chip.f (ETH_MODE_MODE n)
      let an := s.chip.flag (ETH_MODE_AN_EN n)
      let up := s.chip.flag ITM_SAFE_ACTIVE = false ∧ r.sync = true ∧ (2 < m ∨ an = false ∨ r.an = true) ∧
        (m < 4 ∨ (r.localFault = false ∧ r.remoteFault = false))
      c.flag (ETH_STATUS_LINK n) = decide up ∧
      (up → s.chip.flag (ETH_STATUS_LINK n) = false → c.flag (ETH_ALARM_LINK_UP n) = true) ∧
      (¬up → s.chip.flag (ETH_STATUS_LINK n) = true → c.flag (ETH_ALARM_LINK_DOWN n) = true ∧ (c.port n).tx = none ∧ (c.port n).parked = none) ∧
      c.flag (ETH_STATUS_LOCAL_FAULT n) = (decide (4 ≤ m) && r.localFault) ∧ c.flag (ETH_STATUS_REMOTE_FAULT n) = (decide (4 ≤ m) && r.remoteFault) ∧
      c.flag (ETH_STATUS_AN_DONE n) = (decide (m = 1 ∨ m = 2) && an && r.an) ∧
      Chip.Within portPage (onPages [24, 25]) portTimer [.ports, .sent] s.chip c) ∧
  (∀ (l d : Nat) (s : State), l < 24 → s.chip.deadline (.polarity l) = some d →
    Does (.polarityTryExpiry l) s fun c =>
      c.flag (SDS_LANE_STATUS_RX_INV l) = !s.chip.flag (SDS_LANE_STATUS_RX_INV l) ∧
      c.f (SDS_LANE_STATUS_POL_TRIES l) = min (2 ^ 16 - 1) (s.chip.f (SDS_LANE_STATUS_POL_TRIES l) + 1) ∧
      c.flag (SDS_LANE_ALARM_POL_CHG l) = true ∧
      c.deadline (.polarity l) = some (max d s.chip.now + 2 * msCcy) ∧
      Chip.Within portPage (fun _ => false) [TimerKey.polarity l].contains [] (s.chip.elapse (d - s.chip.now)) c) ∧
  (∀ (map : Nat) (s : State), s.chip.portWorks 0 = true → s.chip.f (ETH_MODE_MODE 0) = 6 →
    Does (.laneAlignmentLock map) s fun c =>
      c.flag ETH_LANESTAT_ALIGNED = true ∧ c.f ETH_LANESTAT_RX_MAP = map % 256 ∧ c.flag ETH_LANESTAT_RX_REV = decide (map % 256 = 0x1B) ∧
      (map % 256 ≠ 0x1B → map % 256 ≠ 0xE4 → c.flag (ETH_ALARM_LANE_PERM 0) = true) ∧
      c.flag ETH_LANESTAT_TXREV_ACT = (if s.chip.flag ETH_LANEMAP_AUTO_TXREV then decide (map % 256 = 0x1B) else s.chip.flag ETH_LANEMAP_TX_LANE_REV) ∧
      Chip.Only [ETH_LANESTAT, ETH_ALARM 0] [] [] [] s.chip c)

/-! ## Tributaries, containers and the time-slot interchange -/

/-- R241, R243, R244, R245, R246, R255: what 256 received bits do to a tributary, what the loss of its clock and the ends of its searches do, and
what an E1 frame sent holds.
Where the rules leave a choice it follows the model's (assumption log entries 30, 71 and 75). -/
def Obligations.Tributaries : Prop :=
  (∀ (n : Nat) (row : List Byte) (s : State), n < 32 → s.chip.tribOn n = true → row.length = 32 →
    Does (.tribE1Frame n row) s fun c =>
      let t := s.chip.trib n
      let bits := (t.prev ++ row).flatMap fun b => (List.range 8).map fun k => b.toNat.testBit (7 - k)
      let los := (losScan (max 10 (s.chip.f (TDM_CFG_LOS_N n))) bits (8 * t.prev.length) t.zeros (s.chip.flag (TDM_STATUS_LOS n))).2
      let errs := popcount 7 ((byteAt row 0 % 128) ^^^ 0x1B)
      let zeros := zerosOf row
      let low := decide ((t.aisHalf.getD 0) + zeros < 3)
      c.flag (TDM_STATUS_RXC_OK n) = true ∧ c.flag (TDM_STATUS_LOS n) = los ∧
      (los = true → s.chip.flag (TDM_STATUS_LOS n) = false →
        c.flag (TDM_ALARM_LOS n) = true ∧ c.ctr (N_TDM_LOS_EVT n) = s.chip.ctr (N_TDM_LOS_EVT n) + 1) ∧
      (los = true → min 2 (s.chip.f (TDM_CFG_MODE n)) ≠ 2 → c.flag (TDM_STATUS_LOF n) = true ∧ (c.trib n).at_ = none) ∧
      (2 ≤ s.chip.f (TDM_CFG_MODE n) → c.flag (TDM_STATUS_LOF n) = false) ∧
      (t.aisHalf = none → (c.trib n).aisHalf = some zeros ∧ c.flag (TDM_STATUS_AIS n) = s.chip.flag (TDM_STATUS_AIS n)) ∧
      (t.aisHalf.isSome = true → t.aisLow = some low → c.flag (TDM_STATUS_AIS n) = low) ∧
      (los = false → s.chip.f (TDM_CFG_MODE n) = 0 → t.at_ = some 0 → t.fas = true →
        c.ctr (N_TDM_FAS_ERR n) = s.chip.ctr (N_TDM_FAS_ERR n) + BitVec.ofNat 64 errs ∧
        (errs ≠ 0 → 2 ≤ t.badFas → c.flag (TDM_STATUS_LOF n) = true ∧ (c.trib n).at_ = none) ∧
        (errs = 0 → (c.trib n).badFas = 0 ∧ (c.trib n).at_ = some 0 ∧ (c.trib n).fas = false ∧
          (s.chip.tribDirect n = false → (c.trib n).fifo = (if 2 ≤ t.fifo.length then t.fifo.drop 1 else t.fifo) ++ [row]))) ∧
      Chip.Within (onPages [28]) (onPages [28]) [TimerKey.mfSearch n].contains [.tribs] s.chip c) ∧
  (∀ (n : Nat) (s : State), n < 32 → s.chip.tribOn n = true →
    Does (.tribClockLoss n) s fun c =>
      c.flag (TDM_STATUS_RXC_OK n) = false ∧ c.flag (TDM_STATUS_LOS n) = true ∧
      (s.chip.f (TDM_CFG_MODE n) < 2 → c.flag (TDM_STATUS_LOF n) = true) ∧
      Chip.Within (onPages [28]) (onPages [28]) [TimerKey.mfSearch n].contains [.tribs] s.chip c) ∧
  (∀ (n d p : Nat) (s : State), n < 32 → s.chip.deadline (.mfSearch n) = some d → s.chip.f (TDM_CFG_MODE n) = 1 →
    s.chip.flag (TDM_STATUS_MF_ALIGN n) = false → s.chip.flag (TDM_STATUS_INTWK n) = false → (s.chip.trib n).at_ = some p →
    Does (.mfSearchExpiry n) s fun c =>
      (c.trib n).at_ = none ∧ (c.trib n).barred.head? = some (p, 3) ∧ c.flag (TDM_STATUS_LOF n) = true ∧
      c.ctr (N_TDM_BARRED n) = s.chip.ctr (N_TDM_BARRED n) + 1 ∧ c.deadline (.mfSearch n) = none ∧
      Chip.Within (onPages [28]) (onPages [28]) [TimerKey.mfSearch n].contains [.tribs] (s.chip.elapse (d - s.chip.now)) c) ∧
  (∀ (n a : Nat) (s : State), n < 32 → (s.chip.trib n).heldFrom = some a → s.chip.f (TDM_CFG_MODE n) = 1 → s.chip.flag (TDM_CFG_INTWK_EN n) = true →
    s.chip.flag (TDM_STATUS_MF_ALIGN n) = false → s.chip.flag (TDM_STATUS_INTWK n) = false → s.chip.tribOn n = true →
    Does (.intwkDeclare n) s fun c =>
      c.flag (TDM_STATUS_INTWK n) = true ∧ c.flag (TDM_ALARM_INTWK n) = true ∧ c.deadline (.mfSearch n) = none ∧
      Chip.Within (onPages [28]) (onPages [28]) [TimerKey.mfSearch n].contains [.tribs]
        (s.chip.elapse (400 * msCcy - ((s.chip.trib n).held + (s.chip.now - a)))) c) ∧
  (∀ (n : Nat) (s : State), n < 32 → s.chip.tribOn n = true →
    Does (.tribTxE1Frame n) s fun c =>
      let t := s.chip.trib n
      let ais := s.chip.sendsAis n
      let a := s.chip.flag (TDM_CTRL_FORCE_RAI n) || s.chip.flag (TDM_STATUS_LOS n) || s.chip.flag (TDM_STATUS_LOF n) || s.chip.flag (TDM_STATUS_AIS n)
      c.sent.drop 1 = s.chip.sent ∧ c.flag (TDM_STATUS_TX_AIS n) = ais ∧ (c.trib n).txIdx = (t.txIdx + 1) % 16 ∧
      (s.chip.flag (TDM_CTRL_FORCE_AIS n) = true ∨ s.chip.flag ITM_SAFE_ACTIVE = true ∨ s.chip.boot.recovery = true ∨ s.chip.isOn 44 = false → ais = true) ∧
      (ais = true → c.sent.head? = some (.e1 n (List.replicate 32 0xFF))) ∧
      (ais = false → s.chip.flag (TDM_CFG_TX_SRC n) = true → c.sent.head? = some (.e1 n (s.chip.readTx n).2)) ∧
      (ais = false → s.chip.flag (TDM_CFG_TX_SRC n) = false → s.chip.f (TDM_CFG_MODE n) = 0 →
        c.sent.head? = some (.e1 n (BitVec.ofNat 8 ((if t.txIdx % 2 = 0 then 0x1B else 0x5F + b2n a * 0x20) + 128) ::
          (List.range 31).map fun k => BitVec.ofNat 8 (Map.get 0xFF s.chip.tsi.outputs (32 * n + 1 + k))))) ∧
      Chip.Within (onPages [28]) (onPages [28]) (fun _ => false) [.tribs, .sent, .free] s.chip c)

/-- R251, R253, R254, R258, R260, R261, R262: what enters the input channels at a container's output instant, what an upstream container holds, what each
output channel sends, and how a copy of the active page ends.
Where the rules leave a choice it follows the model's (assumption log entries 76, 77, 78, 79 and 81). -/
def Obligations.ContainersAndInterchange : Prop :=
  (∀ (k : Nat) (out : Option (List Byte)) (bad : Bool) (s : State), k < 64 → s.chip.isOn 44 = true → s.chip.isOn 7 = false →
    s.chip.flag (TCM_DS_SLOT_VALID k) = true →
    ((s.chip.slot k).frames.find? fun e => e.1 == ((s.chip.nextFrame 10).nt.fn + 2 ^ 48 - s.chip.deliveryDelay (lineOf (k / 32))) % 2 ^ 48).map (·.2) =
      some (out, bad) →
    Does .containerDelivery s fun c =>
      (∀ j < 32, Map.get 0xFF c.tsi.inputs (1024 + 32 * k + j) = ((out.getD (List.replicate 32 0xFF)).getD j 0xFF).toNat) ∧
      c.tsi.inFn = (s.chip.nextFrame 10).nt.fn ∧
      Chip.InPages [12, 28, 30, 31] [] [.conts, .tribs, .tsi, .twoEnded] (s.chip.nextFrame 10) c) ∧
  (∀ (k : Nat) (s : State), k < 64 → s.chip.isOn 44 = true → s.chip.flag (TCM_US_SLOT_VALID k) = true →
    Does .usContainerBuild s fun c =>
      let fn := (s.chip.nextFrame 12).nt.fn
      let trib := s.chip.f (TCM_US_SLOT_TRIB k)
      let r := s.chip.slot k
      let rei := if s.chip.flag (TCM_DS_SLOT_VALID k) = true then r.rei else 0
      let hdr := b2n r.rdiNext * 128 + rei * 8 + b2n (s.chip.flag (TDM_STATUS_AIS trib)) * 4 + s.chip.tribMode trib
      (c.tsi.built.any fun e => e.1 == fn && e.2.1 == k && e.2.2.length == 40) = true ∧
      (s.chip.flag (TCM_US_SLOT_SRC k) = false → (c.tsi.built.contains (fn, k, containerBytes (26 * 1024) hdr
        ((List.range 32).map fun j => BitVec.ofNat 8 (Map.get 0xFF s.chip.tsi.outputs (1024 + 32 * k + j))) r.bip)) = true) ∧
      (s.chip.flag (TCM_US_SLOT_SRC k) = true →
        s.chip.flag (TDM_STATUS_LOS trib) = true ∨ (s.chip.tribMode trib ≠ 2 ∧ s.chip.flag (TDM_STATUS_LOF trib) = true) →
        (c.tsi.built.contains (fn, k, List.replicate 40 0xFF)) = true) ∧
      Chip.InPages [30, 31] [] [.conts, .tribs, .tsi, .free] (s.chip.nextFrame 12) c) ∧
  (∀ (ecc : List (Nat × Bool)) (ch : Nat) (s : State), ch < 4096 → s.chip.isOn 44 = true →
    Does (.tsiFrame ecc) s fun c =>
      let base := s.chip.nextFrame 11
      let e := s.chip.tsi.entry s.chip.tsi.active ch
      let src := natBits e 16 12
      Map.get 0xFF c.tsi.outputs ch = (if (ch, true) ∈ ecc then 0xFF
        else if natBits e 30 2 = 0 then (if s.chip.channelExists src = true then (s.chip.tsi.toFrame base.nt.fn).carried src else 0xFF)
        else if natBits e 30 2 = 1 then natBits e 0 8
        else if natBits e 30 2 = 2 then 0xFF
        else if 3072 ≤ ch ∧ ch < 3584 then 256 else 0) ∧
      c.tsi.pages = s.chip.tsi.pages ∧ c.tsi.active = s.chip.tsi.active ∧
      Chip.InPages [28, 29] [] [.tsi, .tribs, .host] base c) ∧
  (∀ (d ch : Nat) (s : State), s.chip.deadline .cmCopy = some d → s.chip.tsi.active ≤ 1 → ch < 4096 →
    Does .cmCopyDone s fun c =>
      c.flag TSI_STATUS_COPY_BUSY = false ∧ c.tsi.entry (1 - s.chip.tsi.active) ch = s.chip.tsi.entry s.chip.tsi.active ch ∧
      c.tsi.entry s.chip.tsi.active ch = s.chip.tsi.entry s.chip.tsi.active ch ∧ c.tsi.copy = c.tsi.pages ∧
      Chip.Only [TSI_STATUS] [] [.cmCopy] [.tsi] (s.chip.elapse (d - s.chip.now)) c)

/-! ## The host interface and the cipher service -/

/-- R294, R295, R296, R298, R299, R300, R303: how configuration requests are answered, what losing the link and a function-level reset leave, and what
doorbells and vectors do.
Where the rules leave a choice it follows the model's (assumption log entries 44, 45, 128, 129 and 134). -/
def Obligations.HostEndpoint : Prop :=
  (∀ (r : ConfigRequest) (s : State), s.chip.isOn 41 = true →
    Does (.configRequest r) s fun c =>
      (if s.chip.boot.started = true ∧ s.chip.boot.recovery = false then
        (r.write = true → c.sent = .completion r.reg (some 0) :: s.chip.sent ∧ (r.reg = 4 → c.host.busMaster = (wordBits r.data 2 1 == 1))) ∧
        (r.write = false → r.reg = 0 → c.sent = .completion 0 (some (BitVec.ofNat 32 (0x96400000 + s.otp.vendorId % 65536))) :: s.chip.sent)
      else c.sent = .completion r.reg none :: s.chip.sent ∧ c.host.busMaster = s.chip.host.busMaster) ∧
      Chip.Only [] [] [] [.sent, .free, .host] s.chip c) ∧
  (∀ (how : LinkLoss) (s : State), s.chip.isOn 41 = true →
    Does (.hostLinkDown how) s fun c =>
      (∀ p < 48, c.ringRuns p = false) ∧ c.flag HST_LINK_DL_UP = false ∧ c.host.busMaster = false ∧ c.flag HST_ALARM_LINK_DOWN = true ∧
      c.ctr N_HST_LINK_DOWN = s.chip.ctr N_HST_LINK_DOWN + 1 ∧
      Chip.Within (onPages [32, 34]) [N_HST_LINK_DOWN].contains (fun _ => false) [.host] s.chip c) ∧
  (∀ s : State, s.chip.isOn 41 = true →
    Does .flr s fun c =>
      (∀ p < 48, c.ringRuns p = false) ∧ c.reg HST_LINK = s.chip.reg HST_LINK ∧ c.host.busMaster = false ∧ c.flag HST_ALARM_FLR = true ∧
      Chip.Within (onPages [32, 34]) (fun _ => false) (fun _ => false) [.host] s.chip c) ∧
  (∀ s : State, Does .busMasterDisable s fun c =>
      c.host.busMaster = false ∧ c.dma = false ∧ c.host.rings = s.chip.host.rings ∧ Chip.Only [] [] [] [.host] s.chip c) ∧
  (∀ (speed width : Nat) (rev : Bool) (s : State), s.chip.isOn 40 = true → s.chip.isOn 41 = true → s.chip.boot.recovery = false →
    s.chip.flag CLK_STATUS_PCIE_REFCLK_OK = true →
    Does (.hostLinkUp speed width rev) s fun c =>
      c.flag HST_LINK_DL_UP = true ∧ c.f HST_LINK_SPEED = speed % 2 ^ HST_LINK_SPEED.width ∧ c.f HST_LINK_WIDTH = width % 2 ^ HST_LINK_WIDTH.width ∧
      c.flag HST_LINK_REV = rev ∧ Chip.Only [HST_LINK] [] [] [] s.chip c) ∧
  (∀ (p : Nat) (v : Word) (s : State), p < 48 → s.chip.isOn 41 = true → s.chip.flag HST_LINK_DL_UP = true →
    (p < 32 ∨ (s.otp.hcs = false ∧ s.chip.isOn 10 = true)) →
    Does (.doorbellWrite (4096 * p) v) s fun c =>
      (if v.toNat < s.chip.ringSize p then
        (c.ring p).prod = v.toNat ∧ (∀ q < 48, q ≠ p → c.ring q = s.chip.ring q) ∧ Chip.Only [] [] [] [.host] s.chip c
      else
        c.host = { s.chip.host with pba := c.host.pba } ∧ (s.chip.ringRuns p = true → c.f (ringErr p) = 3) ∧ c.ringRuns p = false ∧
        Chip.Only [ringStatus p, HST_ALARM, CPH_ALARM] [N_HST_TX_DESC_ERR] [] [.host] s.chip c)) ∧
  (∀ (i : Nat) (v : Word) (s : State), i < 256 → s.chip.isOn 41 = true → s.chip.flag HST_LINK_DL_UP = true →
    Does (.doorbellWrite (0x30000 + 4 * i) v) s fun c =>
      c.host.vectorWord i = v ∧ (∀ j < 256, j ≠ i → c.host.vectorWord j = s.chip.host.vectorWord j) ∧ Chip.Only [] [] [] [.host] s.chip c) ∧
  (∀ (p : Nat) (s : State), (s.chip.ring p).waits = true →
    Does (.msixSend p) s fun c =>
      let base := s.chip.elapse (((s.chip.ring p).last.getD 0) + s.chip.ringSpacing p - s.chip.now)
      (c.ring p).waits = false ∧ (c.ring p).last = some base.now ∧ Chip.Only [] [] [] [.host] base c) ∧
  (∀ (v : Nat) (s : State), v < 64 → s.chip.isOn 41 = true → s.chip.flag HST_LINK_DL_UP = true →
    Does (.msixUnmask v) s fun c =>
      c.host.masked v = false ∧ Chip.Only [] [] [] [.host] s.chip c)

/-- R161, R229, R230, R302, R303, R304, R305, R306: what a large send, a transmit ring, a receive ring and the host channels do with what the host and
the scheduler hand over.
Where the rules leave a choice it follows the model's (assumption log entries 78, 130 and 131). -/
def Obligations.HostPackets : Prop :=
  (∀ (hd payload : List Byte) (mss tag : Nat) (s : State), s.chip.isOn 41 = true →
    Does (.largeSend hd payload mss tag) s fun c =>
      let t := (template hd).filter fun t => t.len == hd.length
      let k := ceilDiv payload.length mss
      (if payload.length ≤ 262144 ∧ 64 ≤ mss ∧ mss + hd.length + 4 ≤ 16000 ∧ t.isSome = true then
        c.ctr N_ETH_LSO_SEGS = s.chip.ctr N_ETH_LSO_SEGS + 1 ∧ c.ctr N_ETH_LSO_FRAMES = s.chip.ctr N_ETH_LSO_FRAMES + BitVec.ofNat 64 k ∧
        c.sorter.input = s.chip.sorter.input ++ (List.range k).map fun i =>
          { ingress := 20, tag := tag, bytes := segment (t.getD ⟨0, false, 0, false, 0⟩) hd mss i (i + 1 == k) ((payload.drop (i * mss)).take mss) }
      else
        c.ctr N_ETH_LSO_ERR = s.chip.ctr N_ETH_LSO_ERR + 1 ∧ c.flag ETH_COM_ALARM_LSO_ERR = true ∧ c.sorter = s.chip.sorter) ∧
      Chip.Only [ETH_COM_ALARM] [N_ETH_LSO_SEGS, N_ETH_LSO_FRAMES, N_ETH_LSO_ERR] [] [.sorter] s.chip c) ∧
  (∀ (n : Nat) (d data : List Byte) (r : List (List Byte × List Byte)) (s : State), s.chip.dma = true → s.chip.nextTxRing = some n →
    descFlag d 0 = true → descFlag d 1 = true → descFlag d 2 = false → descLen d ≤ 16000 →
    Does (.txRingFrame ((d, data) :: r) .none) s fun c =>
      let bs := slice data 0 (descLen d)
      c.sorter.input = s.chip.sorter.input ++ [{ ingress := 20, tag := leAt d 14 2, bytes := hostSums (descFlag d 3) (descFlag d 4) bs, ride := {
        request := if descFlag d 5 = false then 0 else if descFlag d 6 = true then 2 else 1 } }] ∧
      c.ctr N_HST_TX_FRAMES = s.chip.ctr N_HST_TX_FRAMES + 1 ∧
      c.ctr N_HST_TX_BYTES = s.chip.ctr N_HST_TX_BYTES + BitVec.ofNat 64 bs.length ∧
      c.f (ringCi n) = (s.chip.f (ringCi n) + 1) % s.chip.ringSize n ∧ c.host.txTurn = (n + 1) % 16 ∧
      c.sent = .dma (s.chip.pair (ringBase n) + 32 * (s.chip.f (ringCi n) % s.chip.ringSize n)) ((splice d 24 [1]).map some) :: s.chip.sent ∧
      Chip.Within [ringStatus n].contains [N_HST_TX_FRAMES, N_HST_TX_BYTES].contains (fun _ => false) [.host, .sorter, .sent] s.chip c) ∧
  (∀ (n : Nat) (descs : List (List Byte × List Byte)) (bad : DmaFault) (s : State), s.chip.dma = true → s.chip.nextTxRing = some n → bad ≠ .none →
    Does (.txRingFrame descs bad) s fun c =>
      c.f (ringErr n) = 2 ∧ c.ringRuns n = false ∧ c.flag HST_ALARM_RING_ERR = true ∧
      c.ctr N_HST_TX_DESC_ERR = s.chip.ctr N_HST_TX_DESC_ERR + 1 ∧ c.sorter = s.chip.sorter ∧ c.sent = s.chip.sent ∧
      Chip.Within [ringStatus n, HST_ALARM].contains [N_HST_TX_DESC_ERR].contains (fun _ => false) [.host] s.chip c) ∧
  (∀ (f : Frame) (d : List Byte) (r : List (List Byte)) (s : State), s.chip.asks 20 = true →
    s.chip.drover.chosen.find? (fun e => e.1 == 20) = some (20, f) → f.bytes ≠ [] → f.bytes.length ≤ leAt d 8 2 →
    Does (.rxRingDeliver (d :: r) .none {}) s fun c =>
      let p := 16 + f.qid % 16
      let ready := s.chip.dma = true ∧ s.chip.ringRuns p = true ∧ s.chip.ringHeld p ≠ 0
      c.drover.chosen = s.chip.drover.chosen.filter (fun e => e.1 != 20) ∧
      (ready →
        c.sent = .dma (s.chip.pair (ringBase p) + 32 * (s.chip.f (ringCi p) % s.chip.ringSize p)) ((writeBack f f.bytes.length true true).map some) ::
          .dma (leAt d 0 8) (f.bytes.map some) :: s.chip.sent ∧
        c.f (ringCi p) = (s.chip.f (ringCi p) + 1) % s.chip.ringSize p ∧ c.ctr N_HST_RX_FRAMES = s.chip.ctr N_HST_RX_FRAMES + 1 ∧
        c.ctr N_HST_RX_BYTES = s.chip.ctr N_HST_RX_BYTES + BitVec.ofNat 64 f.bytes.length) ∧
      (¬ready → c.sent = s.chip.sent ∧ c.ctr N_HST_RX_NOBUF = s.chip.ctr N_HST_RX_NOBUF + 1) ∧
      Chip.Within [ringStatus p].contains [N_HST_RX_FRAMES, N_HST_RX_BYTES, N_HST_RX_NOBUF, N_COP_ECC_CORR].contains (fun _ => false)
        [.host, .drover, .sent] s.chip c) ∧
  (∀ (half : Option (List Byte)) (s : State), s.chip.isOn 41 = true → s.chip.flag HST_TDM_CFG_EN = true →
    Does (.hostTdmRead half) s fun c =>
      (if s.chip.dma = true ∧ half.isSome = true then c.host.tdmIn = half.map fun bs => ((s.chip.nt.fn + 1) % 2 ^ 48, bs)
      else c.ctr N_HST_TDM_LATE = s.chip.ctr N_HST_TDM_LATE + 1 ∧ c.flag HST_ALARM_TDM_LATE = true ∧ c.host.tdmIn = s.chip.host.tdmIn) ∧
      Chip.Only [HST_ALARM] [N_HST_TDM_LATE] [] [.host] s.chip c) ∧
  (∀ (e : Nat × List (Option Byte)) (s : State), s.chip.dma = true → s.chip.flag HST_TDM_CFG_EN = true →
    s.chip.host.tdmOut.find? (fun e => (e.1 + 1) % 2 ^ 48 == s.chip.nt.fn) = some e →
    Does .hostTdmWrite s fun c =>
      c.sent = .dma (s.chip.pair HST_TDM_BASE_LO + 1024 * (e.1 % 2 ^ max 3 (min 10 (s.chip.f HST_TDM_CFG_DEPTH_LOG2))) + 512) e.2 :: s.chip.sent ∧
      c.reg HST_TDM_FN = BitVec.ofNat 32 e.1 ∧ Chip.Only [HST_TDM_FN] [] [] [.sent] s.chip c)

/-- R307, R308, R309, R310, R311: what each operation of the cipher service writes into host memory for a request that passes its checks, and the
completion of one that does not.
Where the rules leave a choice it follows the model's (assumption log entries 11 and 132). -/
def Obligations.CipherService : Prop :=
  let ready := fun (s : State) (q : Nat) (req : List Byte) (op : Nat) =>
    s.otp.hcs = false ∧ s.chip.isOn 10 = true ∧ s.chip.dma = true ∧ s.chip.nextQueue = some q ∧ (parseRequest req).op = op
  let key := fun (s : State) (r : Request) => (s.chip.keySlot r.slot).elim [] fun k => k.key
  let completion := fun (s : State) (q : Nat) (r : Request) (result bytes : Nat) =>
    Output.dma (s.chip.pair (ringBase (32 + q)) + 64 * s.chip.ringSize (32 + q) + 16 * (s.chip.f (ringCi (32 + q)) % s.chip.ringSize (32 + q)))
      ((r.tag ++ leBytes 1 result ++ leBytes 1 (b2n (s.chip.ring (32 + q)).even) ++ leBytes 2 0 ++ leBytes 4 bytes ++ leBytes 4 0).map some)
  let data := fun (r : Request) (out : List Byte) => if out = [] then [] else [Output.dma r.dst (out.map some)]
  let frame := fun (q : Nat) (c d : Chip) =>
    Chip.Within [ringStatus (32 + q), CPH_ALARM].contains [N_CPH_REQ, N_CPH_REQ_ERR, N_CPH_SLOT_DENY, N_CPH_BYTES, N_CPH_GCM_FAIL].contains
      (fun _ => false) [.host, .sent] c d
  let served := fun (s : State) (q : Nat) (c : Chip) =>
    c.f (ringCi (32 + q)) = (s.chip.f (ringCi (32 + q)) + 1) % s.chip.ringSize (32 + q) ∧ c.ctr N_CPH_REQ = s.chip.ctr N_CPH_REQ + 1 ∧ c.keys = s.chip.keys
  (∀ (req bytes : List Byte) (q : Nat) (s : State), ready s q req 1 → s.chip.checkRequest q (parseRequest req) = 0 →
    Does (.xtsEncrypt req bytes .none) s fun c =>
      let r := parseRequest req
      let out := xtsUnits Config.xtsEncrypt (key s r) r.unit (r.len / r.unit + 1) (leNat r.iv) (slice bytes 0 r.len)
      c.sent = completion s q r 0 out.length :: (data r out ++ s.chip.sent) ∧ served s q c ∧ frame q s.chip c) ∧
  (∀ (req bytes : List Byte) (q : Nat) (s : State), ready s q req 2 → s.chip.checkRequest q (parseRequest req) = 0 →
    Does (.xtsDecrypt req bytes .none) s fun c =>
      let r := parseRequest req
      let out := xtsUnits Config.xtsDecrypt (key s r) r.unit (r.len / r.unit + 1) (leNat r.iv) (slice bytes 0 r.len)
      c.sent = completion s q r 0 out.length :: (data r out ++ s.chip.sent) ∧ served s q c ∧ frame q s.chip c) ∧
  (∀ (req bytes aad : List Byte) (q : Nat) (s : State), ready s q req 3 → s.chip.checkRequest q (parseRequest req) = 0 →
    Does (.gcmEncrypt req bytes aad .none) s fun c =>
      let r := parseRequest req
      let e := Config.gcmEncrypt (key s r) (slice r.iv 0 12) (slice aad 0 r.aadLen) (slice bytes 0 r.len)
      let out := slice e.1 0 r.len ++ slice e.2 0 16
      c.sent = completion s q r 0 out.length :: (data r out ++ s.chip.sent) ∧ served s q c ∧ frame q s.chip c) ∧
  (∀ (req bytes aad : List Byte) (q : Nat) (s : State), ready s q req 4 → s.chip.checkRequest q (parseRequest req) = 0 →
    Does (.gcmDecrypt req bytes aad .none) s fun c =>
      let r := parseRequest req
      let p := Config.gcmDecrypt (key s r) (slice r.iv 0 12) (slice aad 0 r.aadLen) (slice bytes 0 r.len) (slice bytes r.len 16)
      (if p.isSome = true then
        let out := slice (p.getD []) 0 r.len
        c.sent = completion s q r 0 out.length :: (data r out ++ s.chip.sent)
      else
        c.sent = completion s q r 1 0 :: s.chip.sent ∧ c.ctr N_CPH_GCM_FAIL = s.chip.ctr N_CPH_GCM_FAIL + 1 ∧ c.flag CPH_ALARM_GCM_FAIL = true) ∧
      served s q c ∧ frame q s.chip c) ∧
  (∀ (req bytes : List Byte) (q : Nat) (s : State), ready s q req 5 → s.chip.checkRequest q (parseRequest req) = 0 →
    Does (.sha384 req bytes .none) s fun c =>
      let r := parseRequest req
      let out := slice (Config.sha384 (slice bytes 0 r.len)) 0 48
      c.sent = completion s q r 0 out.length :: (data r out ++ s.chip.sent) ∧ served s q c ∧ frame q s.chip c) ∧
  (∀ (req bytes aad : List Byte) (op q : Nat) (s : State), ready s q req op →
    s.chip.checkRequest q (parseRequest req) ≠ 0 →
    Does (if op = 1 then .xtsEncrypt req bytes .none else if op = 2 then .xtsDecrypt req bytes .none
        else if op = 3 then .gcmEncrypt req bytes aad .none else if op = 4 then .gcmDecrypt req bytes aad .none
        else .sha384 req bytes .none) s fun c =>
      let result := s.chip.checkRequest q (parseRequest req)
      c.sent = completion s q (parseRequest req) result 0 :: s.chip.sent ∧ 2 ≤ result ∧ c.ctr N_CPH_REQ_ERR = s.chip.ctr N_CPH_REQ_ERR + 1 ∧
      c.ctr N_CPH_SLOT_DENY = s.chip.ctr N_CPH_SLOT_DENY + (if result = 4 then 1 else 0) ∧ served s q c ∧ frame q s.chip c)

/-! ## Register accesses -/

/-- R7, R9, R23, R333, R349, R350, R352, R353: what a write that is let through does to the register it names, to a class C register's shadow, and
to a slow window.
Where the rules leave a choice it follows the model's (assumption log entries 28, 29 and 60). -/
def Obligations.RegisterWrites : Prop :=
  (∀ (m : Master) (a : Nat) (v : Word) (t : Target) (s : State), s.chip.admits m true [a] → target a = some t → t.staged = false →
    t.row.pair = .none → windowOf t.row t.reg = none → plainReg t.reg = true →
    Does (.registerWrite m a v) s fun c =>
      tookWrite t.row (s.chip.reg t.reg) v 0xFFFFFFFF (c.reg t.reg) ∧ Chip.Only [t.reg, MGT_STATUS] [] [] [] s.chip c) ∧
  (∀ (m : Master) (a : Nat) (v : Word) (t : Target) (s : State), s.chip.admits m true [a] → target a = some t → t.staged = false →
    t.row.pair = .none → windowOf t.row t.reg = none → plainReg t.reg = true →
    Does (.w1cWrite m a v) s fun c =>
      tookWrite t.row (s.chip.reg t.reg) v 0xFFFFFFFF (c.reg t.reg) ∧ Chip.Only [t.reg, MGT_STATUS] [] [] [] s.chip c) ∧
  (∀ (m : Master) (a : Nat) (mask data : BitVec 16) (t : Target) (s : State), s.chip.admits m true [a] → target a = some t → t.staged = false →
    t.row.pair = .none → windowOf t.row t.reg = none → plainReg t.reg = true →
    Does (.maskedWrite m a mask data) s fun c =>
      tookWrite t.row (s.chip.reg t.reg) (BitVec.ofNat 32 data.toNat) mask.toNat (c.reg t.reg) ∧
      Chip.Only [t.reg, MGT_STATUS] [] [] [] s.chip c) ∧
  (∀ (m : Master) (a : Nat) (v : Word) (t : Target) (s : State), s.chip.admits m true [a] → target a = some t → t.row.cls = .c →
    Does (.shadowWrite m a v) s fun c =>
      (if t.fixedOn = true then c.shadow t.reg = s.chip.shadow t.reg
      else ∀ i < 32, (c.shadow t.reg).getLsbD i = if bitOf (writable t.reg) i = true then v.getLsbD i else (s.chip.shadow t.reg).getLsbD i) ∧
      Chip.Only [MGT_STATUS] [] [] [.staged] s.chip c) ∧
  (∀ (m : Master) (a : Nat) (v : Word) (t : Target) (w : PostedWindow) (s : State), s.chip.admits m true [a] → target a = some t →
    t.staged = false → t.row.pair = .none → windowOf t.row t.reg = some w →
    Does (.postedWrite m a v) s fun c =>
      (if s.chip.flag w.busy = true then c.flag w.drop = true ∧ c.posted = s.chip.posted
      else c.flag w.busy = true ∧ c.posted = s.chip.posted ++ [⟨w, m, t.reg, v, 0xFFFFFFFF⟩]) ∧
      Chip.Only [w.busy.addr, MGT_STATUS] [] [] [.access] s.chip c) ∧
  (∀ (w : PostedWindow) (p : Posted) (t : Target) (s : State), s.chip.posted.find? (fun p => p.window == w) = some p → target p.addr = some t →
    plainReg p.addr = true → p.addr ≠ w.busy.addr →
    Does (.postedWriteTaken w) s fun c =>
      c.flag w.busy = false ∧ c.posted = s.chip.posted.filter (fun q => q.window != w) ∧
      (if s.chip.isOff t = true then c.reg p.addr = s.chip.reg p.addr else tookWrite t.row (s.chip.reg p.addr) p.data p.bits (c.reg p.addr)) ∧
      Chip.Only [p.addr, w.busy.addr] [] [] [.access] s.chip c)

/-- R351, R363: what reads and writes of the words of a 64-bit pair return, latch, hold and write.
Where the rules leave a choice it follows the model's (assumption log entry 31). -/
def Obligations.RegisterPairs : Prop :=
  (∀ (m : Master) (a : Nat) (t : Target) (s : State), s.chip.admits m false [a] → target a = some t → t.shadow = false → t.row.pair = .lo →
    Does (.pairLoRead m a) s fun c =>
      let v := s.chip.pairSeen s.otp m t
      c.sent = .readData m.code a (BitVec.ofNat 32 v) :: s.chip.sent ∧ Map.get none c.latch (pairKey m t.reg) = some (BitVec.ofNat 32 (v / 2 ^ 32)) ∧
      (t.isCounter = true → s.chip.views m = false → v = (s.chip.ctr t.reg).toNat) ∧
      Chip.Only [MGT_STATUS] [] [] [.access, .sent] s.chip c) ∧
  (∀ (m : Master) (a : Nat) (t : Target) (s : State), s.chip.admits m false [a] → target a = some t → t.shadow = false → t.row.pair = .hi →
    Does (.pairHiRead m a) s fun c =>
      c.sent = .readData m.code a ((Map.get none s.chip.latch (pairKey m t.reg)).getD (BitVec.ofNat 32 (s.chip.pairSeen s.otp m t / 2 ^ 32))) ::
        s.chip.sent ∧
      Chip.Only [MGT_STATUS] [] [] [.sent] s.chip c) ∧
  (∀ (m : Master) (a : Nat) (v : Word) (t : Target) (s : State), s.chip.admits m true [a] → target a = some t → t.staged = false →
    t.row.pair = .lo → t.writablePair = true →
    Does (.pairLoWrite m a v) s fun c =>
      Map.get none c.hold (pairKey m t.reg) = some v ∧ Chip.Only [MGT_STATUS] [] [] [.access] s.chip c) ∧
  (∀ (m : Master) (a : Nat) (v : Word) (t : Target) (s : State), s.chip.admits m true [a] → target a = some t → t.staged = false →
    t.row.pair = .hi → t.writablePair = true → t.reg ≠ CFG_COMMIT_HI →
    Does (.pairHiWrite m a v) s fun c =>
      let held := Map.get none s.chip.hold (pairKey m t.reg)
      Map.get none c.hold (pairKey m t.reg) = none ∧
      (t.isCounter = true → tallyPage t.low = false → (c.ctr t.low).toNat =
        (mergeBits 0 v (t.row.mask fun x => x == .rw)).toNat * 2 ^ 32 + (held.map BitVec.toNat).getD ((s.chip.ctr t.low).toNat % 2 ^ 32)) ∧
      (t.isCounter = false → tallyPage t.low = false →
        let w := (mergeBits 0 v (t.row.mask fun x => x == .rw)).toNat * 2 ^ 32 + (held.map BitVec.toNat).getD (s.chip.pair t.low % 2 ^ 32)
        c.pair t.low = w - w % (baseMask t.low + 1)) ∧
      Chip.Only [t.low, t.low + 4, MGT_STATUS] [t.low] [] [.access] s.chip c)

/-- R348, R356, R357, Table 14.1: a write that a master has no privilege for, that meets a lock, or that finds its block off changes nothing
but the record of it, and a read so refused returns 0.
Where the rules leave a choice it follows the model's (assumption log entries 25 and 26). -/
def Obligations.AccessesRefused : Prop :=
  let accesses := fun (m : Master) (a : Nat) (v : Word) => [Instr.registerWrite m a v, .w1cWrite m a v, .shadowWrite m a v, .pairLoWrite m a v,
    .pairHiWrite m a v, .postedWrite m a v]
  let word := fun (m : Master) (t : Target) (write : Bool) => BitVec.ofNat 32 (m.code * 2 ^ 29 + b2n write * 2 ^ 28 + b2n t.userView * 2 ^ 27 +
    t.row.mark.code * 2 ^ 25 + b2n (t.shadow || (write && t.staged)) * 2 ^ 24 + t.full)
  let more := fun (w : Word) => BitVec.ofNat 32 (min (2 ^ 32 - 1) (w.toNat + 1))
  (∀ (m : Master) (a : Nat) (v : Word) (t : Target) (s : State), s.chip.reaches m = true → (m = .mgt → s.chip.boot.recovery = false) →
    target a = some t → s.chip.violates m t true = true →
    ∀ i ∈ accesses m a v, Does i s fun c =>
      c.reg TOP_ACC_VIOL_ADDR = word m t true ∧ c.reg TOP_ACC_VIOL_COUNT = more (s.chip.reg TOP_ACC_VIOL_COUNT) ∧
      c.flag TOP_ACC_STATUS_ACC_VIOL = true ∧
      Chip.Only [TOP_ACC_VIOL_ADDR, TOP_ACC_VIOL_COUNT, TOP_ACC_STATUS, MGT_STATUS, MGT_ALARM] [] [] [] s.chip c) ∧
  (∀ (m : Master) (a : Nat) (v : Word) (t : Target) (s : State), s.chip.reaches m = true → (m = .mgt → s.chip.boot.recovery = false) →
    target a = some t → s.chip.violates m t true = false → s.chip.barred t = true →
    ∀ i ∈ accesses m a v, Does i s fun c =>
      c.reg TOP_LOCK_VIOL_ADDR = word m t true ∧ c.reg TOP_LOCK_VIOL_COUNT = more (s.chip.reg TOP_LOCK_VIOL_COUNT) ∧
      c.flag TOP_ACC_STATUS_LOCK_VIOL = true ∧
      Chip.Only [TOP_LOCK_VIOL_ADDR, TOP_LOCK_VIOL_COUNT, TOP_ACC_STATUS, MGT_STATUS] [] [] [] s.chip c) ∧
  (∀ (m : Master) (a : Nat) (v : Word) (t : Target) (s : State), s.chip.reaches m = true → (m = .mgt → s.chip.boot.recovery = false) →
    target a = some t → s.chip.violates m t true = false → s.chip.barred t = false → t.shadow = false → t.staged = false → s.chip.isOff t = true →
    ∀ i ∈ accesses m a v, Does i s fun c =>
      c.reg TOP_ACC_OFF_ADDR = word m t true ∧ c.reg TOP_ACC_OFF_COUNT = more (s.chip.reg TOP_ACC_OFF_COUNT) ∧
      c.flag TOP_ACC_STATUS_ACC_OFF = true ∧
      c.sent = (if m = .pair0 ∨ m = .pair1 then [.accessError m.code t.full] else []) ++ s.chip.sent ∧
      Chip.Only [TOP_ACC_OFF_ADDR, TOP_ACC_OFF_COUNT, TOP_ACC_STATUS, MGT_STATUS] [] [] [.sent] s.chip c) ∧
  (∀ (m : Master) (a : Nat) (t : Target) (s : State), s.chip.reaches m = true → (m = .mgt → s.chip.boot.recovery = false) →
    target a = some t → s.chip.violates m t false = true →
    ∀ i ∈ [Instr.pairLoRead m a, .pairHiRead m a], Does i s fun c =>
      c.sent = .readData m.code a 0 :: s.chip.sent ∧ c.reg TOP_ACC_VIOL_ADDR = word m t false ∧
      Chip.Only [TOP_ACC_VIOL_ADDR, TOP_ACC_VIOL_COUNT, TOP_ACC_STATUS, MGT_STATUS, MGT_ALARM] [] [] [.sent] s.chip c)

/-! ## Table windows -/

/-- R120, R143, R171, R178, R179, R181, R182, R207, R358: what reads and writes through the windows of the carriage, the two-ended merge, the
classifier and the buffer manager do.
Where the rules leave a choice it follows the model's (assumption log entries 59 and 65). -/
def Obligations.PacketTables : Prop :=
  let srt := tableData (SRT_TBL_DATA 0) 25
  let cop := tableData (COP_Q_DATA 0) 6
  (∀ (m : Master) (i : BitVec 12) (v : Word) (s : State), s.chip.admits m true [CAR_FT_DATA, CAR_FT_ADDR] →
    Does (.flowTableWrite m i v) s fun c =>
      (if i.toNat < 0xFFE then Chip.Stages (tableKey 0 i.toNat) v.toNat s.chip c else c.tableStaged = s.chip.tableStaged) ∧
      c.flag CAR_FT_ADDR_DONE = true ∧ Chip.Only [CAR_FT_DATA, CAR_FT_ADDR, MGT_STATUS] [] [] [.staged] s.chip c) ∧
  (∀ (m : Master) (i : BitVec 12) (s : State), s.chip.admits m true [CAR_FT_ADDR] →
    Does (.flowTableRead m i) s fun c =>
      c.reg CAR_FT_DATA = BitVec.ofNat 32 (s.chip.tab 0 i.toNat) ∧ c.flag CAR_FT_ADDR_DONE = true ∧
      (∀ k < 4, bitOf (c.reg CAR_FT_KEYS).toNat k =
        (i.toNat != 0xFFF && (s.chip.carriageKeyAt (if k < 2 then .a else .b) i.toNat (k % 2)).isSome)) ∧
      Chip.Only [CAR_FT_DATA, CAR_FT_KEYS, CAR_FT_ADDR, MGT_STATUS] [] [] [] s.chip c) ∧
  (∀ (m : Master) (i : BitVec 12) (s : State), s.chip.admits m true [TWE_FLOW_ADDR] →
    Does (.mergeStateRead m i) s fun c =>
      let e := Map.get {} s.chip.twoEnded.flows i.toNat
      c.reg TWE_FLOW_STATE = BitVec.ofNat 32 (b2n e.seen * 2 ^ 31 + e.gaps.length * 2 ^ 24 + e.h) ∧ c.flag TWE_FLOW_ADDR_DONE = true ∧
      Chip.Only [TWE_FLOW_ADDR, TWE_FLOW_STATE, MGT_STATUS] [] [] [] s.chip c) ∧
  (∀ (m : Master) (i : BitVec 14) (ws : List Word) (s : State), s.chip.admits m true (SRT_TBL_ADDR :: srt) →
    Does (.ruleEntryWrite m i ws) s fun c =>
      let n := i.toNat
      let v := (List.range 25).foldl (fun v k => v * 2 ^ 32 + (ws.getD k 0).toNat) 0
      let err := if 12288 ≤ n ∨ (ruleDw v = true ∧ n % 2 = 1) then 3 else if s.chip.isOn (12 + n / 3072) = false then 2
        else if s.chip.ruleRefused n v = true then 1 else 0
      c.f SRT_TBL_ADDR_ERR = err ∧ c.flag SRT_TBL_ADDR_DONE = true ∧
      (if err = 0 then
        ruleAt c.sorter.rules n = v ∧ ruleAt c.sorter.copy n = v ∧
        (∀ j, j ≠ n → ruleAt c.sorter.rules j = ruleAt s.chip.sorter.rules j ∧ ruleAt c.sorter.copy j = ruleAt s.chip.sorter.copy j) ∧
        c.sorter = { s.chip.sorter with rules := c.sorter.rules, copy := c.sorter.copy }
      else c.sorter = s.chip.sorter) ∧
      (if err = 1 then c.flag SRT_ALARM_EPOCH_WR_REFUSED = true ∧ c.ctr N_SRT_WR_REFUSED = s.chip.ctr N_SRT_WR_REFUSED + 1
      else c.reg SRT_ALARM = s.chip.reg SRT_ALARM ∧ c.ctr N_SRT_WR_REFUSED = s.chip.ctr N_SRT_WR_REFUSED) ∧
      Chip.Only (SRT_TBL_ADDR :: SRT_ALARM :: MGT_STATUS :: srt) [N_SRT_WR_REFUSED] [] [.sorter] s.chip c) ∧
  (∀ (m : Master) (i : BitVec 14) (s : State), s.chip.admits m true [SRT_TBL_ADDR] →
    Does (.ruleEntryRead m i) s fun c =>
      let n := i.toNat
      c.flag SRT_TBL_ADDR_DONE = true ∧ c.f SRT_TBL_ADDR_ERR = (if 12288 ≤ n then 3 else if s.chip.isOn (12 + n / 3072) = true then 0 else 2) ∧
      (if n < 12288 ∧ s.chip.isOn (12 + n / 3072) = true then
        (∀ k < 25, c.reg (SRT_TBL_DATA k) = BitVec.ofNat 32 (natBits (ruleAt s.chip.sorter.rules n) (32 * (24 - k)) 32)) ∧
        Chip.Only (SRT_TBL_ADDR :: MGT_STATUS :: srt) [] [] [] s.chip c
      else Chip.Only [SRT_TBL_ADDR, MGT_STATUS] [] [] [] s.chip c)) ∧
  (∀ (m : Master) (i : BitVec 14) (s : State), s.chip.admits m true [SRT_TBL_ADDR] →
    Does (.fragEntryRead m i) s fun c =>
      c.flag SRT_TBL_ADDR_DONE = true ∧ c.f SRT_TBL_ADDR_ERR = (if i.toNat < 256 then 0 else 3) ∧
      (256 ≤ i.toNat → Chip.Only [SRT_TBL_ADDR, MGT_STATUS] [] [] [] s.chip c) ∧
      (i.toNat < 256 → (s.chip.sorter.frags.find? fun e => e.slot == i.toNat) = none → ∀ k < 14, c.reg (SRT_TBL_DATA k) = 0) ∧
      (∀ e : FragEntry, (s.chip.sorter.frags.find? fun e => e.slot == i.toNat) = some e → i.toNat < 256 → ∀ k < 4,
        c.reg (SRT_TBL_DATA k) = BitVec.ofNat 32 (natBits e.src (32 * (3 - k)) 32) ∧
        c.reg (SRT_TBL_DATA (4 + k)) = BitVec.ofNat 32 (natBits e.dst (32 * (3 - k)) 32) ∧
        c.reg (SRT_TBL_DATA 8) = BitVec.ofNat 32 e.ident ∧
        c.reg (SRT_TBL_DATA 9) =
          BitVec.ofNat 32 (2 ^ 31 + e.ingress * 2 ^ 24 + e.proto % 256 * 2 ^ 16 + min 65535 ((e.expires - s.chip.now) / usCcy)) ∧
        c.reg (SRT_TBL_DATA (10 + k)) = BitVec.ofNat 32 (natBits e.action (32 * (3 - k)) 32)) ∧
      Chip.Only (SRT_TBL_ADDR :: MGT_STATUS :: tableData (SRT_TBL_DATA 0) 14) [] [] [] s.chip c) ∧
  (∀ (m : Master) (i : BitVec 14) (s : State), s.chip.admits m true [SRT_TBL_ADDR] →
    Does (.actionCounterRead m i) s fun c =>
      let p := (Map.get 0 s.chip.sorter.packets i.toNat).toNat
      let b := (Map.get 0 s.chip.sorter.bytes i.toNat).toNat
      c.flag SRT_TBL_ADDR_DONE = true ∧ c.f SRT_TBL_ADDR_ERR = (if i.toNat < 4096 then 0 else 3) ∧
      (if i.toNat < 4096 then
        (c.reg (SRT_TBL_DATA 0)).toNat + (c.reg (SRT_TBL_DATA 1)).toNat * 2 ^ 32 = p ∧
        (c.reg (SRT_TBL_DATA 2)).toNat + (c.reg (SRT_TBL_DATA 3)).toNat * 2 ^ 32 = b ∧
        Chip.Only (SRT_TBL_ADDR :: MGT_STATUS :: tableData (SRT_TBL_DATA 0) 4) [] [] [] s.chip c
      else Chip.Only [SRT_TBL_ADDR, MGT_STATUS] [] [] [] s.chip c)) ∧
  (∀ (m : Master) (i : BitVec 14) (s : State), s.chip.admits m true [SRT_TBL_ADDR] →
    Does (.actionCounterClear m i) s fun c =>
      c.flag SRT_TBL_ADDR_DONE = true ∧ c.f SRT_TBL_ADDR_ERR = (if i.toNat < 4096 then 0 else 3) ∧
      (if i.toNat < 4096 then
        Map.get 0 c.sorter.packets i.toNat = 0 ∧ Map.get 0 c.sorter.bytes i.toNat = 0 ∧
        (∀ j, j ≠ i.toNat → Map.get 0 c.sorter.packets j = Map.get 0 s.chip.sorter.packets j ∧
          Map.get 0 c.sorter.bytes j = Map.get 0 s.chip.sorter.bytes j) ∧
        c.sorter = { s.chip.sorter with packets := c.sorter.packets, bytes := c.sorter.bytes } ∧
        Chip.Only [SRT_TBL_ADDR, MGT_STATUS] [] [] [.sorter] s.chip c
      else Chip.Only [SRT_TBL_ADDR, MGT_STATUS] [] [] [] s.chip c)) ∧
  (∀ (m : Master) (q : BitVec 13) (ws : List Word) (s : State), s.chip.admits m true [COP_Q_DATA 0, COP_Q_DATA 1, COP_Q_ADDR] →
    Does (.queueEntryWrite m q ws) s fun c =>
      Chip.Stages (tableKey 1 q.toNat) ((ws.getD 0 0).toNat + (ws.getD 1 0).toNat * 2 ^ 32) s.chip c ∧ c.flag COP_Q_ADDR_DONE = true ∧
      Chip.Only [COP_Q_DATA 0, COP_Q_DATA 1, COP_Q_ADDR, MGT_STATUS] [] [] [.staged] s.chip c) ∧
  (∀ (m : Master) (q : BitVec 13) (clr : Bool) (s : State), s.chip.admits m true [COP_Q_ADDR] →
    Does (.queueEntryRead m q clr) s fun c =>
      let n := q.toNat
      let ws := [entryWord (s.chip.tab 1 n) 0, entryWord (s.chip.tab 1 n) 1, s.chip.queueCells n, (s.chip.queue n).length,
        Map.get 0 s.chip.cooper.drops n, min (2 ^ 26 - 1) (s.chip.queueBytes n)]
      (∀ k < 6, c.reg (COP_Q_DATA k) = BitVec.ofNat 32 (ws.getD k 0)) ∧ c.flag COP_Q_ADDR_DONE = true ∧
      (if clr = true then
        Map.get 0 c.cooper.drops n = 0 ∧ (∀ j, j ≠ n → Map.get 0 c.cooper.drops j = Map.get 0 s.chip.cooper.drops j) ∧
        c.cooper = { s.chip.cooper with drops := c.cooper.drops }
      else c.cooper = s.chip.cooper) ∧
      Chip.Only (COP_Q_ADDR :: MGT_STATUS :: cop) [] [] [.cooper] s.chip c)

/-- R194, R197, R207, R259, R261, R264: what reads and writes through the windows of the meters, the scheduler and the connection memory do.
Where the rules leave a choice it follows the model's (assumption log entries 41 and 59). -/
def Obligations.TrafficTables : Prop :=
  let tol := tableData (TOL_TBL_DATA 0) 7
  let drv := tableData (DRV_TBL_DATA 0) 8
  let pack := fun (ws : List Word) => (List.range 5).foldl (fun v k => v + (ws.getD k 0).toNat * 2 ^ (32 * k)) 0
  let cm := fun (write : Bool) (t i err : Nat) =>
    (BitVec.ofNat 32 (2 ^ 30 + b2n write * 2 ^ 29 + t * 2 ^ 27 + err * 2 ^ 24 + i) : Word)
  (∀ (m : Master) (i : BitVec 13) (ws : List Word) (s : State), s.chip.admits m true (TOL_TBL_ADDR :: tableData (TOL_TBL_DATA 0) 5) →
    Does (.meterEntryWrite m i ws) s fun c =>
      Chip.Stages (tableKey 2 i.toNat) (pack ws) s.chip c ∧ c.flag TOL_TBL_ADDR_DONE = true ∧
      Chip.Only (TOL_TBL_ADDR :: MGT_STATUS :: tableData (TOL_TBL_DATA 0) 5) [] [] [.staged] s.chip c) ∧
  (∀ (m : Master) (i : BitVec 13) (s : State), s.chip.admits m true [TOL_TBL_ADDR] →
    Does (.meterEntryRead m i) s fun c =>
      (∀ k < 5, c.reg (TOL_TBL_DATA k) = BitVec.ofNat 32 (entryWord (s.chip.tab 2 i.toNat) k)) ∧
      c.reg (TOL_TBL_DATA 5) = BitVec.ofNat 32 ((s.chip.meterNow i.toNat).c / 2 ^ 24) ∧
      c.reg (TOL_TBL_DATA 6) = BitVec.ofNat 32 ((s.chip.meterNow i.toNat).e / 2 ^ 24) ∧ c.flag TOL_TBL_ADDR_DONE = true ∧
      Chip.Only (TOL_TBL_ADDR :: MGT_STATUS :: tol) [] [] [] s.chip c) ∧
  (∀ (m : Master) (i : BitVec 13) (s : State), s.chip.admits m true [TOL_TBL_ADDR] →
    Does (.meterCounterRead m i) s fun c =>
      let e := Map.get {} s.chip.meters i.toNat
      let count := fun (k : Nat) => (c.reg (TOL_TBL_DATA k)).toNat + (c.reg (TOL_TBL_DATA (k + 1))).toNat * 2 ^ 32
      count 0 = e.green.toNat ∧ count 2 = e.yellow.toNat ∧ count 4 = e.red.toNat ∧ c.flag TOL_TBL_ADDR_DONE = true ∧
      Chip.Only (TOL_TBL_ADDR :: MGT_STATUS :: tableData (TOL_TBL_DATA 0) 6) [] [] [] s.chip c) ∧
  (∀ (m : Master) (i : BitVec 13) (s : State), s.chip.admits m true [TOL_TBL_ADDR] →
    Does (.meterCounterClear m i) s fun c =>
      Map.get {} c.meters i.toNat = { Map.get {} s.chip.meters i.toNat with green := 0, yellow := 0, red := 0 } ∧
      (∀ j, j ≠ i.toNat → Map.get {} c.meters j = Map.get {} s.chip.meters j) ∧ c.flag TOL_TBL_ADDR_DONE = true ∧
      Chip.Only [TOL_TBL_ADDR, MGT_STATUS] [] [] [.meters] s.chip c) ∧
  (∀ (m : Master) (t : BitVec 2) (i : BitVec 13) (ws : List Word) (s : State), s.chip.admits m true (DRV_TBL_ADDR :: tableData (DRV_TBL_DATA 0) 5) →
    Does (.schedEntryWrite m t i ws) s fun c =>
      (if i.toNat < drvSize t.toNat then Chip.Stages (tableKey (3 + t.toNat) i.toNat) (pack ws) s.chip c ∧ c.f DRV_TBL_ADDR_ERR = 0
      else c.tableStaged = s.chip.tableStaged ∧ c.f DRV_TBL_ADDR_ERR = 1) ∧ c.flag DRV_TBL_ADDR_DONE = true ∧
      Chip.Only (DRV_TBL_ADDR :: MGT_STATUS :: tableData (DRV_TBL_DATA 0) 5) [] [] [.staged] s.chip c) ∧
  (∀ (m : Master) (t : BitVec 2) (i : BitVec 13) (s : State), s.chip.admits m true [DRV_TBL_ADDR] →
    Does (.schedEntryRead m t i) s fun c =>
      let k := t.toNat
      let sh := s.chip.shaperNow k i.toNat
      c.flag DRV_TBL_ADDR_DONE = true ∧
      (if i.toNat < drvSize k then
        (∀ w < 5, c.reg (DRV_TBL_DATA w) = BitVec.ofNat 32 (entryWord (s.chip.tab (3 + k) i.toNat) w)) ∧
        c.reg (DRV_TBL_DATA 5) = (if k = 1 ∨ k = 2 then BitVec.ofInt 32 (sh.c / (2 ^ 24 : Nat)) else 0) ∧
        c.reg (DRV_TBL_DATA 6) = (if k = 0 then 0 else BitVec.ofInt 32 (sh.p / (2 ^ 24 : Nat))) ∧
        c.reg (DRV_TBL_DATA 7) = (if k = 3 then 0 else BitVec.ofInt 32 (Map.get 0 s.chip.drover.deficits (childKey k i.toNat))) ∧
        c.f DRV_TBL_ADDR_ERR = 0 ∧ Chip.Only (DRV_TBL_ADDR :: MGT_STATUS :: drv) [] [] [] s.chip c
      else c.f DRV_TBL_ADDR_ERR = 1 ∧ Chip.Only [DRV_TBL_ADDR, MGT_STATUS] [] [] [] s.chip c)) ∧
  (∀ (m : Master) (i : BitVec 12) (v : Word) (s : State), s.chip.admits m true [TSI_CM_DATA, TSI_CM_ADDR] →
    Does (.cmStandbyWrite m i v) s fun c =>
      let k := 4096 * (1 - s.chip.tsi.active) + i.toNat
      let e := (v &&& 0xCFFF00FF).toNat
      (if s.chip.flag TSI_STATUS_COPY_BUSY = true then c.reg TSI_CM_ADDR = cm true 0 i.toNat 2 ∧ c.tsi = s.chip.tsi
      else
        c.reg TSI_CM_ADDR = cm true 0 i.toNat 0 ∧ Map.get 0 c.tsi.copy k = e ∧ (s.chip.isOn 44 = true → Map.get 0 c.tsi.pages k = e) ∧
        (∀ j, j ≠ k → Map.get 0 c.tsi.pages j = Map.get 0 s.chip.tsi.pages j ∧ Map.get 0 c.tsi.copy j = Map.get 0 s.chip.tsi.copy j) ∧
        c.tsi = { s.chip.tsi with pages := c.tsi.pages, copy := c.tsi.copy }) ∧
      Chip.Only [TSI_CM_DATA, TSI_CM_ADDR, MGT_STATUS] [] [] [.tsi] s.chip c) ∧
  (∀ (m : Master) (i : BitVec 12) (v : Word) (s : State), s.chip.admits m true [TSI_CM_DATA, TSI_CM_ADDR] →
    Does (.cmActiveWrite m i v) s fun c =>
      c.reg TSI_CM_ADDR = cm true 1 i.toNat 1 ∧ c.flag TSI_ALARM_ACT_WR = true ∧ c.ctr N_TSI_ACT_WR = s.chip.ctr N_TSI_ACT_WR + 1 ∧
      Chip.Only [TSI_CM_DATA, TSI_CM_ADDR, TSI_ALARM, MGT_STATUS] [N_TSI_ACT_WR] [] [] s.chip c) ∧
  (∀ (m : Master) (active : Bool) (i : BitVec 12) (s : State), s.chip.admits m true [TSI_CM_ADDR] →
    Does (.cmRead m active i) s fun c =>
      c.reg TSI_CM_DATA = BitVec.ofNat 32 (s.chip.tsi.entry (if active = true then s.chip.tsi.active else 1 - s.chip.tsi.active) i.toNat) ∧
      c.reg TSI_CM_ADDR = cm false (b2n active) i.toNat 0 ∧ Chip.Only [TSI_CM_DATA, TSI_CM_ADDR, MGT_STATUS] [] [] [] s.chip c) ∧
  (∀ (m : Master) (i : BitVec 12) (s : State), s.chip.admits m true [TSI_CM_ADDR] →
    Does (.monitorCountRead m i) s fun c =>
      let k := i.toNat - 3584
      if i.toNat < 3584 then c.reg TSI_CM_ADDR = cm false 2 i.toNat 3 ∧ Chip.Only [TSI_CM_ADDR, MGT_STATUS] [] [] [] s.chip c
      else
        c.reg TSI_CM_ADDR = cm false 2 i.toNat 0 ∧ c.reg TSI_CM_DATA = BitVec.ofNat 32 (Map.get {} s.chip.tsi.monitors k).count ∧
        Map.get {} c.tsi.monitors k = { Map.get {} s.chip.tsi.monitors k with armed := true } ∧
        (∀ j, j ≠ k → Map.get {} c.tsi.monitors j = Map.get {} s.chip.tsi.monitors j) ∧ c.tsi = { s.chip.tsi with monitors := c.tsi.monitors } ∧
        Chip.Only [TSI_CM_DATA, TSI_CM_ADDR, MGT_STATUS] [] [] [.tsi] s.chip c) ∧
  (∀ (m : Master) (i : BitVec 12) (s : State), s.chip.admits m true [TSI_CM_ADDR] →
    Does (.monitorCountClear m i) s fun c =>
      let k := i.toNat - 3584
      if i.toNat < 3584 then c.reg TSI_CM_ADDR = cm true 2 i.toNat 3 ∧ Chip.Only [TSI_CM_ADDR, MGT_STATUS] [] [] [] s.chip c
      else
        c.reg TSI_CM_ADDR = cm true 2 i.toNat 0 ∧
        Map.get {} c.tsi.monitors k = { Map.get {} s.chip.tsi.monitors k with count := 0, armed := true } ∧
        (∀ j, j ≠ k → Map.get {} c.tsi.monitors j = Map.get {} s.chip.tsi.monitors j) ∧ c.tsi = { s.chip.tsi with monitors := c.tsi.monitors } ∧
        Chip.Only [TSI_CM_ADDR, MGT_STATUS] [] [] [.tsi] s.chip c) ∧
  (∀ (m : Master) (s : State), s.chip.admits m true [TSI_CTRL] →
    Does (.cmCopy m) s fun c =>
      c.flag TSI_STATUS_COPY_BUSY = true ∧
      c.deadline .cmCopy = (if s.chip.flag TSI_STATUS_COPY_BUSY = true then s.chip.deadline .cmCopy else some (s.chip.now + 4096)) ∧
      Chip.Only [TSI_STATUS, MGT_STATUS] [] [.cmCopy] [] s.chip c)

/-- R281, R282, R283, R291, R292: what arming and freeing event slots, the requirement and express tables, a capture and a firing slot do.
Where the rules leave a choice it follows the model's (assumption log entries 59 and 94). -/
def Obligations.EventSlots : Prop :=
  let ntu := fun (write : Bool) (t i err : Nat) =>
    (BitVec.ofNat 32 (2 ^ 30 + b2n write * 2 ^ 29 + t * 2 ^ 27 + err * 2 ^ 24 + i) : Word)
  let data := tableData (NTU_TBL_DATA 0) 4
  let others := fun (k : Nat) (c d : Chip) => (∀ j, j ≠ k → d.evSlot j = c.evSlot j) ∧ d.time = { c.time with slots := d.time.slots }
  (∀ (m : Master) (i : BitVec 9) (w0 w1 w2 w3 : Word) (s : State), s.chip.admits m true (NTU_TBL_ADDR :: data) →
    Does (.slotArm m i w0 w1 w2 w3) s fun c =>
      let k := i.toNat
      let e : EvSlot := ⟨w0.toNat + w1.toNat % 65536 * 2 ^ 32, natBits w2.toNat 0 18, natBits w2.toNat 24 8, natBits w3.toNat 0 16, natBits w3.toNat 16 16, 1⟩
      let err := if 64 ≤ k then 4 else armError s.chip.ntValid s.chip.nt (s.chip.armedBut k) e
      c.reg NTU_TBL_ADDR = ntu true 0 k err ∧ (if err = 0 then c.evSlot k = e ∧ others k s.chip c else c.time = s.chip.time) ∧
      Chip.Only (NTU_TBL_ADDR :: MGT_STATUS :: data) [] [] [.time] s.chip c) ∧
  (∀ (m : Master) (i : BitVec 9) (s : State), s.chip.admits m true [NTU_TBL_DATA 1, NTU_TBL_ADDR] →
    Does (.slotFree m i) s fun c =>
      let k := i.toNat
      (if k < 64 then c.reg NTU_TBL_ADDR = ntu true 0 k 0 ∧ c.evSlot k = { s.chip.evSlot k with state := 0 } ∧ others k s.chip c
      else c.reg NTU_TBL_ADDR = ntu true 0 k 4 ∧ c.time = s.chip.time) ∧
      Chip.Only [NTU_TBL_DATA 1, NTU_TBL_ADDR, MGT_STATUS] [] [] [.time] s.chip c) ∧
  (∀ (m : Master) (i : BitVec 9) (w : Word) (s : State), s.chip.admits m true [NTU_TBL_DATA 0, NTU_TBL_ADDR] →
    Does (.requirementWrite m i w) s fun c =>
      Chip.Stages (tableKey 7 i.toNat) w.toNat s.chip c ∧ c.reg NTU_TBL_ADDR = ntu true 1 i.toNat 0 ∧
      Chip.Only [NTU_TBL_DATA 0, NTU_TBL_ADDR, MGT_STATUS] [] [] [.staged] s.chip c) ∧
  (∀ (m : Master) (i : BitVec 9) (w0 w1 : Word) (s : State), s.chip.admits m true [NTU_TBL_DATA 0, NTU_TBL_DATA 1, NTU_TBL_ADDR] →
    Does (.expressGrantWrite m i w0 w1) s fun c =>
      (if i.toNat < 128 then
        Chip.Stages (tableKey 8 i.toNat) (w0.toNat + w1.toNat * 2 ^ 32) s.chip c ∧ c.reg NTU_TBL_ADDR = ntu true 2 i.toNat 0
      else c.tableStaged = s.chip.tableStaged ∧ c.reg NTU_TBL_ADDR = ntu true 2 i.toNat 4) ∧
      Chip.Only [NTU_TBL_DATA 0, NTU_TBL_DATA 1, NTU_TBL_ADDR, MGT_STATUS] [] [] [.staged] s.chip c) ∧
  (∀ (m : Master) (t : BitVec 2) (i : BitVec 9) (s : State), s.chip.admits m true [NTU_TBL_ADDR] →
    Does (.ntuTableRead m t i) s fun c =>
      let k := i.toNat
      let e := s.chip.evSlot k
      let words := fun (a b c d : Nat) => [a, b, c, d]
      if (t = 0 ∧ 64 ≤ k) ∨ (t = 2 ∧ 128 ≤ k) then c.reg NTU_TBL_ADDR = ntu false t.toNat k 4 ∧ Chip.Only [NTU_TBL_ADDR, MGT_STATUS] [] [] [] s.chip c
      else
        c.reg NTU_TBL_ADDR = ntu false t.toNat k 0 ∧
        ((List.range 4).map fun j => c.reg (NTU_TBL_DATA j)) = (match t.toNat with
          | 0 => words (e.fn % 2 ^ 32) (e.state * 2 ^ 30 + b2n (e.state == 1) * 2 ^ 29 + e.fn / 2 ^ 32 % 2 ^ 16) (e.action * 2 ^ 24 + e.cif)
              (e.rep * 2 ^ 16 + e.arg)
          | 1 => words (s.chip.tab 7 k) 0 0 0
          | 2 => words (entryWord (s.chip.tab 8 k) 0) (entryWord (s.chip.tab 8 k) 1) 0 0
          | _ => words (s.chip.time.bounds.getD k (0, 0)).1 (s.chip.time.bounds.getD k (0, 0)).2 0 0).map (BitVec.ofNat 32) ∧
        Chip.Only (NTU_TBL_ADDR :: MGT_STATUS :: data) [] [] [] s.chip c) ∧
  (∀ (m : Master) (s : State), s.chip.admits m true [NTU_CAP] →
    Does (.ntCapture m) s fun c =>
      c.pair NTU_CAP_FN_LO = s.chip.nt.fn % 2 ^ 64 ∧ c.reg NTU_CAP_CIF = BitVec.ofNat 32 (s.chip.nt.cif * 256) ∧
      (∀ v ∈ s.chip.tod3, c.pair NTU_CAP_SEC_LO = (v / 3).toNat / 1000000000 % 2 ^ 64 ∧ c.reg NTU_CAP_NS = BitVec.ofNat 32 ((v / 3).toNat % 1000000000)) ∧
      Chip.Only [NTU_CAP_FN_LO, NTU_CAP_FN_LO + 4, NTU_CAP_CIF, NTU_CAP_SEC_LO, NTU_CAP_SEC_LO + 4, NTU_CAP_NS, MGT_STATUS] [] [] [.free] s.chip c) ∧
  (∀ (k : Nat) (e : EvSlot) (s : State), s.chip.ntValid = true → s.chip.nextSlot = some (k, e) → e.action = 6 →
    Does .eventFire s fun c =>
      let base := s.chip.toInstant e.instant
      c.ctr N_NTU_EV_FIRED = base.ctr N_NTU_EV_FIRED + 1 ∧ c.f NTU_USER_EVT_SLOT = k % 64 ∧ c.f NTU_USER_EVT_CODE = e.arg % 65536 ∧
      c.flag NTU_ALARM_USER = true ∧ (base.flag NTU_ALARM_USER = true → c.flag NTU_ALARM_USER_OVF = true) ∧
      c.evSlot k = (if 2 ≤ e.rep then { e with fn := (e.fn + e.rep) % 2 ^ 48 } else { e with state := 2 }) ∧ others k base c ∧
      Chip.Only [NTU_USER_EVT, NTU_ALARM] [N_NTU_EV_FIRED] [] [.time] base c) ∧
  (∀ (k : Nat) (e : EvSlot) (s : State), s.chip.ntValid = true → s.chip.nextSlot = some (k, e) → e.action = 2 → s.chip.isOn 48 = true →
    Does .eventFire s fun c =>
      let base := s.chip.toInstant e.instant
      c.ctr N_NTU_EV_FIRED = base.ctr N_NTU_EV_FIRED + 1 ∧ c.tal.frozen = (e.arg % 2 == 1) ∧ c.flag TAL_STATUS_FROZEN = (e.arg % 2 == 1) ∧
      c.evSlot k = (if 2 ≤ e.rep then { e with fn := (e.fn + e.rep) % 2 ^ 48 } else { e with state := 2 }) ∧ others k base c ∧
      Chip.Only [] [N_NTU_EV_FIRED] [] [.time] base c)

/-! ## Serial buses, pattern store, equaliser, timestamps and log -/

/-- R237, R358, R423: what the MDIO ports and the I2C masters do.
Where the rules leave a choice it follows the model's (assumption log entry 120). -/
def Obligations.SerialBuses : Prop :=
  (
  let starts := fun (i : Master → Nat → Instr) (cl45 op phy reg : Nat) (data : Option (BitVec 16)) =>
    (∀ (m : Master) (k : Nat) (s : State), s.chip.admits m true [ETH_MDIO_DATA (k % 2), ETH_MDIO_CMD (k % 2)] →
      Map.get none s.chip.mdio (k % 2) = none →
      Does (i m k) s fun c =>
        let j := k % 2
        c.f (ETH_MDIO_CMD_CL45 j) = cl45 ∧ c.f (ETH_MDIO_CMD_OP j) = op ∧ c.f (ETH_MDIO_CMD_PHYAD j) = phy ∧ c.f (ETH_MDIO_CMD_REGAD j) = reg ∧
        c.flag (ETH_MDIO_CMD_DONE j) = false ∧ c.f (ETH_MDIO_CMD_ERR j) = 0 ∧
        c.f (ETH_MDIO_DATA_DATA j) = (data.map BitVec.toNat).getD (s.chip.f (ETH_MDIO_DATA_DATA j)) ∧
        c.sent = .mdio j (c.reg (ETH_MDIO_CMD j)) (c.reg (ETH_MDIO_DATA j)) :: s.chip.sent ∧
        Map.get none c.mdio j = some (decide (if cl45 = 1 then 2 ≤ op else op = 2)) ∧ Map.get none c.mdio (1 - j) = Map.get none s.chip.mdio (1 - j) ∧
        c.i2c = s.chip.i2c ∧ Chip.Only [ETH_MDIO_CMD j, ETH_MDIO_DATA j, MGT_STATUS] [] [] [.serial, .sent] s.chip c) ∧
    (∀ (m : Master) (k : Nat) (s : State), s.chip.admits m true [ETH_MDIO_DATA (k % 2), ETH_MDIO_CMD (k % 2)] →
      Map.get none s.chip.mdio (k % 2) ≠ none →
      Does (i m k) s fun c =>
        c.f (ETH_MDIO_CMD_ERR (k % 2)) = 1 ∧ Chip.Only [ETH_MDIO_CMD (k % 2), ETH_MDIO_DATA (k % 2), MGT_STATUS] [] [] [] s.chip c)
  (∀ (phy reg : BitVec 5) (data : BitVec 16),
    starts (fun m k => .mdioC22Write m k phy reg data) 0 1 phy.toNat reg.toNat (some data) ∧
    starts (fun m k => .mdioC22Read m k phy reg) 0 2 phy.toNat reg.toNat none ∧
    starts (fun m k => .mdioC45Address m k phy reg data) 1 0 phy.toNat reg.toNat (some data) ∧
    starts (fun m k => .mdioC45Write m k phy reg data) 1 1 phy.toNat reg.toNat (some data) ∧
    starts (fun m k => .mdioC45ReadInc m k phy reg) 1 2 phy.toNat reg.toNat none ∧
    starts (fun m k => .mdioC45Read m k phy reg) 1 3 phy.toNat reg.toNat none) ∧
  (∀ (k : Nat) (ack reads : Bool) (data : BitVec 16) (s : State), Map.get none s.chip.mdio k = some reads →
    Does (.mdioFrameEnd k ack data) s fun c =>
      Map.get none c.mdio k = none ∧ c.flag (ETH_MDIO_CMD_DONE k) = true ∧
      (reads = true → c.f (ETH_MDIO_DATA_DATA k) = (if ack = true then data.toNat else 0xFFFF) ∧
        c.f (ETH_MDIO_CMD_ERR k) = (if ack = true then s.chip.f (ETH_MDIO_CMD_ERR k) else 2)) ∧
      (reads = false → c.reg (ETH_MDIO_DATA k) = s.chip.reg (ETH_MDIO_DATA k) ∧ c.f (ETH_MDIO_CMD_ERR k) = s.chip.f (ETH_MDIO_CMD_ERR k)) ∧
      c.i2c = s.chip.i2c ∧ Chip.Only [ETH_MDIO_CMD k, ETH_MDIO_DATA k] [] [] [.serial] s.chip c)) ∧
  (∀ (m : Master) (k : Nat) (dev : BitVec 7) (reg : BitVec 8) (len : BitVec 3) (data : Word) (s : State),
    s.chip.admits m true [TOP_I2C_DATA (k % 2), TOP_I2C_CMD (k % 2)] →
    Does (.i2cWrite m k dev reg len data) s fun c =>
      let j := k % 2
      if Map.get 0 s.chip.i2c j = 0 then
        c.sent = .i2c j ([BitVec.ofNat 8 (2 * dev.toNat), reg] ++ (beBytes 4 data.toNat).take (max 1 (min 4 len.toNat))) :: s.chip.sent ∧
        Map.get 0 c.i2c j ≠ 0 ∧ c.flag (TOP_I2C_CMD_DONE j) = false ∧ c.f (TOP_I2C_CMD_ERR j) = 0 ∧ c.mdio = s.chip.mdio ∧
        Chip.Only [TOP_I2C_DATA j, TOP_I2C_CMD j, MGT_STATUS] [] [] [.serial, .sent] s.chip c
      else Chip.Only [MGT_STATUS] [] [] [] s.chip c) ∧
  (∀ (m : Master) (k : Nat) (dev : BitVec 7) (reg : BitVec 8) (len : BitVec 3) (s : State), s.chip.admits m true [TOP_I2C_CMD (k % 2)] →
    Does (.i2cRead m k dev reg len) s fun c =>
      let j := k % 2
      if Map.get 0 s.chip.i2c j = 0 then
        c.sent = .i2c j [BitVec.ofNat 8 (2 * dev.toNat), reg, BitVec.ofNat 8 (2 * dev.toNat + 1)] :: s.chip.sent ∧
        Map.get 0 c.i2c j = 2 ∧ c.flag (TOP_I2C_CMD_DONE j) = false ∧ c.f (TOP_I2C_CMD_ERR j) = 0 ∧ c.mdio = s.chip.mdio ∧
        Chip.Only [TOP_I2C_CMD j, MGT_STATUS] [] [] [.serial, .sent] s.chip c
      else Chip.Only [MGT_STATUS] [] [] [] s.chip c) ∧
  (∀ (k : Nat) (how : I2cEnd) (data : Word) (s : State), Map.get 0 s.chip.i2c k ≠ 0 →
    Does (.i2cTransactionEnd k how data) s fun c =>
      Map.get 0 c.i2c k = 0 ∧ c.flag (TOP_I2C_CMD_DONE k) = true ∧ c.mdio = s.chip.mdio ∧
      c.f (TOP_I2C_CMD_ERR k) = (if how = .addressNack then 1 else if how = .dataNack then 2 else s.chip.f (TOP_I2C_CMD_ERR k)) ∧
      (if how = .complete ∧ Map.get 0 s.chip.i2c k = 2 then
        ∀ i < 4, wordBits (c.reg (TOP_I2C_DATA k)) (24 - 8 * i) 8 =
          wordBits (if i < max 1 (min 4 (s.chip.f (TOP_I2C_CMD_LEN k))) then data else s.chip.reg (TOP_I2C_DATA k)) (24 - 8 * i) 8
      else c.reg (TOP_I2C_DATA k) = s.chip.reg (TOP_I2C_DATA k)) ∧
      Chip.Only [TOP_I2C_DATA k, TOP_I2C_CMD k] [] [] [.serial] s.chip c) ∧
  (∀ (k : Nat) (s : State), Map.get 0 s.chip.i2c k ≠ 0 →
    Does (.i2cBusHeld k) s fun c =>
      Map.get 0 c.i2c k = 0 ∧ c.flag (TOP_I2C_CMD_DONE k) = true ∧ c.f (TOP_I2C_CMD_ERR k) = 3 ∧ c.mdio = s.chip.mdio ∧
      Chip.Only [TOP_I2C_CMD k] [] [] [.serial] s.chip c)

/-- R33, R236, R238, R401: what the pattern store, the equaliser registers, the timestamp queues and the fault log do.
Where the rules leave a choice it follows the model's (assumption log entries 38 and 59). -/
def Obligations.StoresAndLogs : Prop :=
  let idle := fun (w : PostedWindow) (c : Chip) => c.flag w.busy = false ∧ (c.posted.all fun p => p.window != w) = true
  (∀ (m : Master) (port : BitVec 5) (pat : BitVec 3) (word : BitVec 5) (v : Word) (s : State),
    s.chip.admits m true [ETH_WK_DATA, ETH_WK_ADDR] → idle .wake s.chip →
    Does (.wakePatternWrite m port pat word v) s fun c =>
      (if word.toNat ≤ 17 ∧ port.toNat ≤ 19 then Chip.Stages (tableKey 9 (256 * port.toNat + 32 * pat.toNat + word.toNat)) v.toNat s.chip c
      else c.tableStaged = s.chip.tableStaged) ∧ c.flag ETH_WK_ADDR_DONE = true ∧ idle .wake c ∧
      Chip.Only [ETH_WK_DATA, ETH_WK_ADDR, MGT_STATUS] [] [] [.staged] s.chip c) ∧
  (∀ (m : Master) (port : BitVec 5) (pat : BitVec 3) (word : BitVec 5) (s : State), s.chip.admits m true [ETH_WK_ADDR] → idle .wake s.chip →
    Does (.wakePatternRead m port pat word) s fun c =>
      c.reg ETH_WK_DATA = (if word.toNat ≤ 17 ∧ port.toNat ≤ 19 then
        BitVec.ofNat 32 (s.chip.tab 9 (256 * port.toNat + 32 * pat.toNat + word.toNat)) else s.chip.reg ETH_WK_DATA) ∧
      c.flag ETH_WK_ADDR_DONE = true ∧ idle .wake c ∧ Chip.Only [ETH_WK_DATA, ETH_WK_ADDR, MGT_STATUS] [] [] [] s.chip c) ∧
  (∀ (m : Master) (x : Line) (k : BitVec 4) (v : Word) (s : State), s.chip.admits m true [eqAddr x k.toNat] → idle (.line x) s.chip →
    Does (.eqOverrideWrite m x k v) s fun c =>
      (k = 0 → ∀ i < 3, (c.reg (LNx_EQ_CTRL x)).getLsbD (8 + i) = v.getLsbD (8 + i)) ∧
      (if k = 0 then c.flag (LNx_EQ_CTRL_CTLE_OVR x) = true → c.f (LNx_EQ_CTRL_CTLE x) = wordBits v 0 4
      else s.chip.flag (eqOverride x k.toNat) = true → wordBits (c.reg (eqAddr x k.toNat)) 0 8 = wordBits v 0 8) ∧
      (∀ j < 16, c.flag (eqOverride x j) = false → j ≠ 0 → c.reg (eqAddr x j) = s.chip.reg (eqAddr x j)) ∧
      Chip.Only (MGT_STATUS :: equaliserRegs x) [] [] [.line x] s.chip c) ∧
  (∀ (m : Master) (n : Nat) (e : TsEntry) (r : List TsEntry) (s : State), n < 20 → s.chip.admits m false [ETH_TSQ_W0 n] →
    (s.chip.posted.all fun p => p.addr != ETH_TSQ_W0 n) = true → (s.chip.port n).stamps = e :: r →
    Does (.tsqRead m n) s fun c =>
      c.sent = .readData m.code (ETH_TSQ_W0 n) (BitVec.ofNat 32 (2 ^ 31 + b2n e.gap * 2 ^ 30 + e.type * 2 ^ 16 + e.seq)) :: s.chip.sent ∧
      (c.port n).stamps = r ∧ (∀ j, j ≠ n → c.port j = s.chip.port j) ∧ c.f (ETH_TSQ_STATUS_COUNT n) = r.length % 2 ^ (ETH_TSQ_STATUS_COUNT n).width ∧
      c.stampWord m.code n false = BitVec.ofNat 32 e.low.1 ∧ c.stampWord m.code n true = BitVec.ofNat 32 e.low.2 ∧
      Chip.Only [ETH_TSQ_STATUS n, MGT_STATUS] [] [] [.ports, .sent] s.chip c) ∧
  (∀ (m : Master) (n : Nat) (s : State), n < 20 → s.chip.admits m false [ETH_TSQ_W0 n] →
    (s.chip.posted.all fun p => p.addr != ETH_TSQ_W0 n) = true → (s.chip.port n).stamps = [] →
    Does (.tsqRead m n) s fun c =>
      c.sent = .readData m.code (ETH_TSQ_W0 n) 0 :: s.chip.sent ∧ Chip.Only [MGT_STATUS] [] [] [.sent] s.chip c) ∧
  (∀ (m : Master) (i : BitVec 8) (s : State), s.chip.admits m true [ITM_LOG_ADDR] →
    Does (.logRead m i) s fun c =>
      let e := Map.get {} s.chip.itm.log i.toNat
      ((List.range 4).map fun k => c.reg (ITM_LOG_DATA k)) = [e.w0, e.w1, e.w2, e.w3] ∧ c.flag ITM_LOG_ADDR_DONE = true ∧
      Chip.Only (ITM_LOG_ADDR :: MGT_STATUS :: (List.range 4).map ITM_LOG_DATA) [] [] [] s.chip c)

/-! ## Keys, rings and the Tallyman -/

/-- R311, R312, R313, R314, R316, R301: what the key commands, KEY_BUF and a write of a ring's CFG do.
Where the rules leave a choice it follows the model's (assumption log entries 46 and 133). -/
def Obligations.KeyCommands : Prop :=
  let holds := fun (bs : List Byte) (c : Chip) => ∀ i, Map.get 0 c.keys.buf i = bs.getD i 0
  let others := fun (n : Nat) (c d : Chip) => ∀ j, j ≠ n → d.keySlot j = c.keySlot j
  let done := fun (err : Nat) (c : Chip) => c.flag KEY_CMD_DONE = true ∧ c.f KEY_CMD_ERR = err ∧ (err ≠ 0 → c.flag KEY_ALARM_CMD_ERR = true)
  let frame := Chip.Only [KEY_CMD, KEY_ALARM, MGT_STATUS] [] [] [.keys]
  (∀ (m : Master) (n : BitVec 10) (s : State), s.chip.admits m true [KEY_CMD] → s.otp.hcs = false →
    Does (.keyLoad m n) s fun c =>
      let r := slotOfBlob dkek (s.chip.keyBytes 0 80)
      (∀ k, r = .ok k → c.keySlot n.toNat = some k ∧ done 0 c) ∧ (∀ e, r = .error e → c.keySlot n.toNat = s.chip.keySlot n.toNat ∧ done e c) ∧
      others n.toNat s.chip c ∧ c.keys.pair = s.chip.keys.pair ∧ c.keys.imports = s.chip.keys.imports ∧ holds [] c ∧ frame s.chip c) ∧
  (∀ (m : Master) (n : BitVec 10) (s : State), s.chip.admits m true [KEY_CMD] → s.otp.hcs = false →
    Does (.keyErase m n) s fun c =>
      c.keySlot n.toNat = none ∧ others n.toNat s.chip c ∧ c.keys.pair = s.chip.keys.pair ∧ c.keys.imports = s.chip.keys.imports ∧ holds [] c ∧
      done 0 c ∧ frame s.chip c) ∧
  (∀ (m : Master) (s : State), s.chip.admits m true [KEY_CMD] → s.otp.hcs = false →
    Does (.keyXpub m) s fun c =>
      let q := slice (Config.ephemeralPub s.chip.freeCtr) 0 96
      let count := (s.chip.keys.imports + 1) % 2 ^ 32
      c.keys.pair = some s.chip.freeCtr ∧ c.keys.imports = count ∧ c.keys.slots = s.chip.keys.slots ∧ c.freeCtr = s.chip.freeCtr + 1 ∧
      holds (q ++ slice (Config.devEcSign (Config.sha384 (q ++ beBytes 8 s.otp.serial ++ beBytes 4 count))) 0 96) c ∧ done 0 c ∧
      Chip.Only [KEY_CMD, KEY_ALARM, MGT_STATUS] [] [] [.keys, .free] s.chip c) ∧
  (∀ (m : Master) (n : BitVec 10) (s : State), s.chip.admits m true [KEY_CMD] → s.otp.hcs = false →
    Does (.keyImport m n) s fun c =>
      let point := s.chip.keyBytes 0 96
      let prk := fun (id : Nat) => Config.hkdfExtract (fill 48 0) (Config.ecdhX id point)
      let blob := fun (id : Nat) => slotOfBlob (slice (Config.hkdfExpand (prk id) (beBytes 8 0x4F414C2D4B494D50 ++ beBytes 8 s.otp.serial) 32) 0 32)
        (s.chip.keyBytes 96 80)
      (s.chip.keys.pair = none → done 5 c ∧ c.keySlot n.toNat = s.chip.keySlot n.toNat ∧ holds [] c) ∧
      (∀ id, s.chip.keys.pair = some id → Config.validPoint point = false → done 1 c ∧ c.keySlot n.toNat = s.chip.keySlot n.toNat ∧ holds [] c) ∧
      (∀ id k, s.chip.keys.pair = some id → Config.validPoint point = true → blob id = .ok k →
        done 0 c ∧ c.keySlot n.toNat = some k ∧ c.keys.pair = none ∧ holds (slice (Config.kwWrap dkek k.plain) 0 (if k.type = 1 then 48 else 80)) c) ∧
      (∀ id e, s.chip.keys.pair = some id → Config.validPoint point = true → blob id = .error e →
        done e c ∧ c.keySlot n.toNat = s.chip.keySlot n.toNat ∧ holds [] c) ∧
      others n.toNat s.chip c ∧ c.keys.imports = s.chip.keys.imports ∧ frame s.chip c) ∧
  (∀ (m : Master) (n : BitVec 10) (s : State), s.chip.admits m true [KEY_CMD] → s.otp.hcs = false →
    Does (.keyInfo m n) s fun c =>
      c.reg KEY_INFO = (match s.chip.keySlot n.toNat with
        | some k => BitVec.ofNat 32 (2 ^ 31 + k.type * 16 + k.usage)
        | none => 0) ∧ c.keys.slots = s.chip.keys.slots ∧ c.keys.pair = s.chip.keys.pair ∧ c.keys.imports = s.chip.keys.imports ∧ holds [] c ∧
      done 0 c ∧ Chip.Only [KEY_CMD, KEY_ALARM, KEY_INFO, MGT_STATUS] [] [] [.keys] s.chip c) ∧
  (∀ (m : Master) (n : BitVec 10) (s : State), s.chip.admits m true [KEY_CMD] → s.otp.hcs = true →
    ∀ i ∈ [Instr.keyLoad m n, .keyErase m n, .keyXpub m, .keyImport m n, .keyInfo m n], Does i s fun c =>
      done 6 c ∧ c.keys.slots = s.chip.keys.slots ∧ c.keys.pair = s.chip.keys.pair ∧ holds [] c ∧ frame s.chip c) ∧
  (∀ (m : Master) (v : Word) (s : State), s.chip.admits m true [KEY_BUF_DATA] →
    Does (.keyBufAccess m (some v)) s fun c =>
      let w := s.chip.f KEY_BUF_IDX_WORD
      (∀ i, Map.get 0 c.keys.buf i = if i / 4 = w then (v >>> (8 * (i % 4))).setWidth 8 else Map.get 0 s.chip.keys.buf i) ∧
      c.f KEY_BUF_IDX_WORD = (w + 1) % 64 ∧ c.keys = { s.chip.keys with buf := c.keys.buf } ∧
      Chip.Only [KEY_BUF_IDX, MGT_STATUS] [] [] [.keys] s.chip c) ∧
  (∀ (m : Master) (s : State), s.chip.admits m false [KEY_BUF_DATA] → (s.chip.posted.all fun p => p.addr != KEY_BUF_DATA) = true →
    Does (.keyBufAccess m none) s fun c =>
      let w := s.chip.f KEY_BUF_IDX_WORD
      c.sent = .readData m.code KEY_BUF_DATA (BitVec.ofNat 32 (leNat (s.chip.keyBytes (4 * w) 4))) :: s.chip.sent ∧
      c.f KEY_BUF_IDX_WORD = (w + 1) % 64 ∧ Chip.Only [KEY_BUF_IDX, MGT_STATUS] [] [] [.sent] s.chip c) ∧
  (∀ (m : Master) (p : Nat) (w : Word) (s : State), p < 48 → s.chip.admits m true [ringCfg p] → (p < 32 ∨ s.otp.hcs = false) →
    Does (.ringEnable m p w) s fun c =>
      (∀ i, i < 32 → (c.reg (ringCfg p)).getLsbD i = if bitOf (writable (ringCfg p)) i = true then w.getLsbD i else (s.chip.reg (ringCfg p)).getLsbD i) ∧
      (if (s.chip.reg (ringCfg p)).getLsbD 31 = false ∧ w.getLsbD 31 = true then
        (c.ring p).prod = 0 ∧ c.f (ringCi p) = 0 ∧ c.f (ringErr p) = 0 ∧ (c.ring p).even = true ∧ (∀ q, q < 48 → q ≠ p → c.ring q = s.chip.ring q)
      else c.reg (ringStatus p) = s.chip.reg (ringStatus p) ∧ ∀ q, q < 48 → c.ring q = s.chip.ring q) ∧
      Chip.Only [ringCfg p, ringStatus p, MGT_STATUS] [] [] [.host] s.chip c)

/-- R361, R362, R363, R364, R366: what snapshots, freezes, overflows, samples and bandwidth windows do. -/
def Obligations.TallymanCounts : Prop :=
  let frame := Chip.Only [MGT_STATUS] [] [] []
  (∀ (m : Master) (s : State), s.chip.admits m true [TAL_CTRL] →
    Does (.counterSnapshot m) s fun c =>
      (∀ a, tallyPage a = false → Map.get 0 c.copies a = if s.chip.isOn (addrDom a) = true then s.chip.ctr a else 0) ∧
      (∀ d < 50, bitOf (c.reg (TAL_SNAP_VALID (d / 32))).toNat (d % 32) = s.chip.isOn d) ∧
      c.pair TAL_SNAP_FN_LO = s.chip.nt.fn % 2 ^ 64 ∧ c.reg TAL_SNAP_CIF = BitVec.ofNat 32 s.chip.nt.cif ∧
      c.ctr N_TAL_SNAPS = s.chip.ctr N_TAL_SNAPS + 1 ∧ c.flag TAL_ALARM_SNAP = true ∧ Chip.Only [MGT_STATUS] [] [] [.access] s.chip c) ∧
  (∀ (m : Master) (s : State), s.chip.admits m true [TAL_CTRL] →
    Does (.counterFreeze m) s fun c =>
      c.tal.frozen = true ∧ c.flag TAL_STATUS_FROZEN = true ∧ c.ctr N_TAL_FREEZES = s.chip.ctr N_TAL_FREEZES + 1 ∧ frame s.chip c) ∧
  (∀ (m : Master) (s : State), s.chip.admits m true [TAL_CTRL] →
    Does (.counterRelease m) s fun c => c.tal.frozen = false ∧ c.flag TAL_STATUS_FROZEN = false ∧ frame s.chip c) ∧
  (∀ (g k n : Nat) (attr : Option PacketAttr) (s : State), g < 24 → k < 8 → s.chip.isOn 48 = true → s.chip.tal.frozen = false →
    wordBits (s.chip.reg (TAL_G_CTL g k)) 31 1 = 1 → s.chip.tal.await = [] →
    2 ^ 64 ≤ (s.chip.ctr (TAL_G_CNT_LO g k)).toNat + talAmount (wordBits (s.chip.reg (TAL_G_CTL g k)) 24 3) (s.chip.f (TAL_G_THR_THR g k)) n →
    Does (.counterOverflow g k n attr) s fun c =>
      let amount := talAmount (wordBits (s.chip.reg (TAL_G_CTL g k)) 24 3) (s.chip.f (TAL_G_THR_THR g k)) n
      let sampled := wordBits (s.chip.reg (TAL_G_CTL g k)) 30 1 = 1
      c.ctr (TAL_G_CNT_LO g k) = s.chip.ctr (TAL_G_CNT_LO g k) + BitVec.ofNat 64 amount ∧ (c.reg (TAL_G_OVF g)).getLsbD k = true ∧
      (∀ i < 32, i ≠ k → (c.reg (TAL_G_OVF g)).getLsbD i = (s.chip.reg (TAL_G_OVF g)).getLsbD i) ∧
      (¬sampled → c.tal = s.chip.tal) ∧ (sampled → attr = none → c.tal.await = [(g * 8 + k, 0)] ∧ c.tal.samples = s.chip.tal.samples) ∧
      (∀ e ∈ attr, sampled → if s.chip.tal.samples.length < 16 then
          c.tal.samples = s.chip.tal.samples ++ [s.chip.sampleRec g k 0 e] ∧ c.tal.gap = false ∧ c.flag TAL_ALARM_SMP = true
        else c.tal.samples = s.chip.tal.samples ∧ c.tal.gap = true ∧ c.ctr N_TAL_SMP_LOST = s.chip.ctr N_TAL_SMP_LOST + 1 ∧
          c.flag TAL_ALARM_SMP_LOST = true) ∧
      Chip.Only [] [] [] [] s.chip c) ∧
  (∀ (m : Master) (s : State), s.chip.admits m false [TAL_SMP_W0] → (s.chip.posted.all fun p => p.addr != TAL_SMP_W0) = true → s.chip.tal.await = [] →
    Does (.sampleRead m) s fun c =>
      let r := s.chip.tal.samples.headD {}
      c.sent = .readData m.code TAL_SMP_W0 r.w0 :: s.chip.sent ∧ c.tal.samples = s.chip.tal.samples.tail ∧ Map.get {} c.tal.latched m.code = r ∧
      Chip.Only [MGT_STATUS] [] [] [.sent] s.chip c) ∧
  (∀ s : State, s.chip.flag TAL_BW_CFG_EN = true → s.chip.isOn 48 = true →
    Does .bwWindowEnd s fun c =>
      let win := max 1 (min 8000 (s.chip.f TAL_BW_CFG_WIN))
      let base := s.chip.toInstant { fn := (s.chip.nt.fn / win + 1) * win, cif := 0 }
      (if s.chip.tal.bwRun = true then
        (∀ p < 152, c.reg (TAL_BW_RATE p) = BitVec.ofNat 32 (Map.get 0 base.tal.bwBytes p * 64 / win % 2 ^ 27) ∧
          c.reg (TAL_BW_FRAMES p) = BitVec.ofNat 32 (min (2 ^ 32 - 1) (Map.get 0 base.tal.bwFrames p))) ∧
        c.reg TAL_BW_SEQ = s.chip.reg TAL_BW_SEQ + 1 ∧ c.flag TAL_ALARM_BW_WIN = true
      else c.reg TAL_BW_SEQ = s.chip.reg TAL_BW_SEQ) ∧
      c.tal.bwRun = true ∧ c.tal.bwBytes = [] ∧ c.tal.bwFrames = [] ∧ Chip.Only [] [] [] [] base c)

/-! ## Configuration -/

/-- R284, R333, R334, R336: what a commit request, a cancellation and a discard do to the commits and the staged values.
Where the rules leave a choice it follows the model's (assumption log entries 58, 109 and 144). -/
def Obligations.CommitRequests : Prop :=
  let shown := [CFG_STATUS, CFG_PEND_LO 0, CFG_PEND_HI 0, CFG_PEND_LO 1, CFG_PEND_HI 1, MGT_STATUS]
  (∀ (m : Master) (fn : BitVec 48) (next : Bool) (s : State), s.chip.admits m true [CFG_COMMIT_LO, CFG_COMMIT_HI] →
    Does (.commitRequest m fn next) s fun c =>
      let k : Commit := ⟨fn.toNat, next, false, s.chip.frozenRegs, s.chip.frozenTabs, [], none, [], [], none, [], none, none, none⟩
      let reason := s.chip.commitReason k
      (if reason = 0 then c.cfg = { s.chip.cfg with checking := some k } ∧ c.f CFG_STATUS_CSTATE = 1 ∧ c.f CFG_STATUS_LAST = s.chip.f CFG_STATUS_LAST
      else c.cfg = s.chip.cfg ∧ c.f CFG_STATUS_LAST = 2 ∧ c.f CFG_STATUS_REASON = reason ∧ c.ctr N_CFG_REFUSED = s.chip.ctr N_CFG_REFUSED + 1 ∧
        c.flag CFG_ALARM_REFUSED = true ∧ c.flag NTU_BND_FAIL_VALID = false) ∧
      c.staged = s.chip.staged ∧ Chip.Only (CFG_COMMIT_LO :: CFG_COMMIT_HI :: CFG_ALARM :: NTU_BND_FAIL :: shown) [N_CFG_REFUSED] [] [.cfg, .access] s.chip c) ∧
  (∀ (k : Commit) (s : State), (s.chip.cfg.checking.isSome = true → s.chip.commitReason k = 0x1A) ∧
    (s.chip.cfg.checking = none → 2 ≤ s.chip.cfg.pending.length → s.chip.commitReason k = 0x1B) ∧
    (s.chip.cfg.checking = none → s.chip.cfg.pending.length < 2 → s.chip.ntValid = false → k.next = false → s.chip.commitReason k = 0x13) ∧
    (s.chip.cfg.checking = none → s.chip.cfg.pending.length = 1 → k.next = true → s.chip.commitReason k = 0x13) ∧
    (s.chip.cfg.checking = none → s.chip.cfg.pending.length < 2 → k.next = false → k.fn < s.chip.nt.fn + 16 → s.chip.commitReason k = 0x13) ∧
    (s.chip.cfg.checking = none → s.chip.cfg.pending = [] → k.next = true → s.chip.commitReason k = 0)) ∧
  (∀ (k : Commit) (s : State), s.chip.cfg.checking = some k →
    Does .commitCheckEnd s fun c =>
      let d : Chip := { s.chip with cfg := { s.chip.cfg with checking := none } }
      let fn := if k.next = true then d.nextApply else k.fn
      let at_ : NetTime := if d.ntValid = true then ⟨fn, 0⟩ else d.nt
      let p := k.over d.afterPending
      let found := (d.imagine k).feasible p (k.slots fn) d.ntValid at_
      let refused := fun (reason : Nat) => c.f CFG_STATUS_LAST = 2 ∧ c.f CFG_STATUS_REASON = reason % 256 ∧
        c.ctr N_CFG_REFUSED = s.chip.ctr N_CFG_REFUSED + 1 ∧ c.flag CFG_ALARM_REFUSED = true ∧ c.cfg = d.cfg
      c.cfg.checking = none ∧
      (d.breaksLock p = true → refused 5) ∧ (d.breaksLock p = false → ∀ r ∈ found, refused r.reason) ∧
      (d.breaksLock p = false → found = none → k.rules = [] → k.pages = [] →
        c.cfg = { d.cfg with pending := d.cfg.pending ++ [{ k with fn := fn }] } ∧ c.f CFG_STATUS_CSTATE = 2 ∧
        c.ctr N_CFG_REFUSED = s.chip.ctr N_CFG_REFUSED ∧ c.sorter = s.chip.sorter ∧ c.tsi = s.chip.tsi) ∧
      Chip.Only ([CFG_ALARM, NTU_BND_FAIL, NTU_BND_FAIL_NS, SRT_ALARM, TSI_ALARM] ++ shown) [N_CFG_REFUSED, N_SRT_WR_REFUSED, N_TSI_ACT_WR] []
        [.cfg, .sorter, .tsi] s.chip c) ∧
  (∀ (m : Master) (s : State), s.chip.admits m true [CFG_CTRL] →
    Does (.commitCancel m) s fun c =>
      (if s.chip.cfg.pending = [] then c.reg CFG_STATUS = s.chip.reg CFG_STATUS
      else c.f CFG_STATUS_LAST = 3 ∧ c.f CFG_STATUS_REASON = 0x1C ∧ c.pair (CFG_PEND_LO 0) = 0 ∧ c.pair (CFG_PEND_LO 1) = 0) ∧
      c.ctr N_CFG_CANCELLED = s.chip.ctr N_CFG_CANCELLED + BitVec.ofNat 64 s.chip.cfg.pending.length ∧
      c.cfg = { s.chip.cfg with pending := [] } ∧ Chip.Only shown [N_CFG_CANCELLED] [] [.cfg] s.chip c) ∧
  (∀ (m : Master) (s : State), s.chip.admits m true [CFG_CTRL] →
    Does (.stagedDiscard m) s fun c =>
      (∀ a, c.shadow a = s.chip.afterPending.reg a) ∧
      (∀ k, (Map.get none c.tableStaged k).getD (s.chip.committed.tab (k / 65536) (k % 65536)) = s.chip.afterPending.tab (k / 65536) (k % 65536)) ∧
      c.lockWritten = s.chip.lockWritten ∧ Chip.Only [MGT_STATUS] [] [] [.staged] s.chip c)

/-- R19, R335: what an apply writes into the configuration store, and what it shows. -/
def Obligations.CommitApplies : Prop :=
  ∀ (k : Commit) (r : List Commit) (s : State), s.chip.cfg.pending = k :: r →
    Does .commitApply s fun c =>
      let base := if s.chip.ntValid = false then s.chip.elapse 1
        else s.chip.toInstant { fn := if k.next = true then max k.fn s.chip.nextApply else k.fn, cif := 0 }
      let new := k.over s.chip.committed
      (∀ a, c.stored a = new.reg a) ∧ c.tableStore = new.tabs ∧ c.everCommitted = true ∧
      c.cfg.pending = r ∧ c.cfg.applied = some base.now ∧ c.now = base.now ∧ c.nt = base.nt ∧
      c.f CFG_STATUS_LAST = 1 ∧ c.f CFG_STATUS_REASON = 0 ∧ c.f CFG_STATUS_RECORD = 0xFFFF ∧ c.pair CFG_LAST_FN_LO = base.nt.fn % 2 ^ 64 ∧
      c.ctr N_CFG_APPLIED = base.ctr N_CFG_APPLIED + 1 ∧
      (∀ v ∈ k.version, c.reg CFG_IMG_VER = BitVec.ofNat 32 v) ∧ (∀ q ∈ k.region, c.boot.cfgRegion = some q) ∧
      c.flash = s.chip.flash ∧ c.pins = s.chip.pins

/-- R331, R337, R338, R339: what binding the roots, the host's objects and a save do.
Where the rules leave a choice it follows the model's (assumption log entries 52, 99, 100 and 114). -/
def Obligations.ObjectsAndSaves : Prop :=
  let bytes := fun (b : HostObj) => fun (i : Nat) => b.data.getD i (0 : Byte)
  let regs := [CFG_STATUS, CFG_OBJ_CTRL, CFG_ALARM, CFG_SLOTS, CFG_PEND_LO 0, CFG_PEND_HI 0, CFG_PEND_LO 1, CFG_PEND_HI 1]
  let ctrs := [N_CFG_REC_SKIP, N_CFG_OBJ_BAD, N_CFG_REFUSED]
  let pieces := fun (src : Option Line) => (src.map Piece.line).toList
  let ended := fun (reason record : Nat) (c : Chip) => c.f CFG_OBJ_CTRL_RESULT = (if reason = 0 then 1 else 2) ∧ c.f CFG_STATUS_REASON = reason % 256 ∧
    c.f CFG_STATUS_RECORD = record % 65536 ∧ c.flag CFG_ALARM_OBJ = true ∧ c.cfg.delivered = none
  (∀ (m : Master) (programmed : Bool) (s : State), s.chip.admits m true [CFG_ROOT_BIND] →
    DoesFuse (.rootBind m programmed) s fun c o =>
      let base := cfgBase (s.chip.cfgRegion 0)
      let r := checkForm s.otp (fun i => s.chip.flashByte (base + i)) 0x800000 2
      let sig := fun i => s.chip.flashByte (base + (r.check + 4 + i))
      let ec := Config.sha384 (imgBytes sig 56 96)
      let hss := Config.sha384 (imgBytes sig 152 60)
      let err := if m ≠ .mgt then 1 else if s.otp.bound = true then 2 else if r.reason ≠ 0 ∨ sigChecks sig ec hss ≠ 0 then 3
        else if programmed = false then 4 else 0
      c.flag CFG_ROOT_BIND_DONE = true ∧ c.f CFG_ROOT_BIND_ERR = err ∧
      o = (if err = 0 then { s.otp with bound := true, ecRoot := ec, hssRoot := hss } else s.otp) ∧
      Chip.Only [CFG_ROOT_BIND, MGT_STATUS] [] [] [] s.chip c) ∧
  (∀ (m : Master) (type : BitVec 8) (size : BitVec 24) (s : State), s.chip.admits m true [CFG_OBJ_SIZE, CFG_OBJ_CTRL] →
    Does (.objectStart m type size) s fun c =>
      c.cfg = { s.chip.cfg with object := some ⟨type.toNat, size.toNat, []⟩, delivered := none } ∧ c.f CFG_OBJ_CTRL_RESULT = 0 ∧
      Chip.Only [CFG_OBJ_SIZE, CFG_OBJ_CTRL, MGT_STATUS] [] [] [.cfg] s.chip c) ∧
  (∀ (m : Master) (b : HostObj) (s : State), s.chip.admits m true [CFG_OBJ_CTRL] → s.chip.cfg.object = some b →
    Does (.objectEnd m) s fun c =>
      (if b.type < 0x10 ∨ 0x13 < b.type ∨ 8 * 1048576 < b.size then
        c.f CFG_OBJ_CTRL_RESULT = 2 ∧ c.ctr N_CFG_OBJ_BAD = s.chip.ctr N_CFG_OBJ_BAD + 1 ∧ c.flag CFG_ALARM_OBJ = true ∧
        c.cfg = { s.chip.cfg with object := none }
      else c.f CFG_OBJ_CTRL_RESULT = 0 ∧ c.cfg = { s.chip.cfg with object := none, delivered := some { b with data := b.data.take b.size } } ∧
        c.ctr N_CFG_OBJ_BAD = s.chip.ctr N_CFG_OBJ_BAD) ∧
      Chip.Only [CFG_OBJ_CTRL, CFG_ALARM, MGT_STATUS] [N_CFG_OBJ_BAD] [] [.cfg] s.chip c) ∧
  (∀ (src : Option Line) (fails : Bool) (s : State),
    DoesFuse (.configImageDelivered src fails) s fun c o =>
      s.otp.Grows o ∧
      (∀ b ∈ s.chip.cfg.delivered, src = none → b.type = 0x10 →
        let r := checkImage s.otp (bytes b) b.data.length 2
        c.ctr N_CFG_REC_SKIP = s.chip.ctr N_CFG_REC_SKIP + BitVec.ofNat 64 r.skips ∧
        (r.reason ≠ 0 → ended r.reason r.record c ∧ c.flash = s.chip.flash ∧ c.cfg = { s.chip.cfg with delivered := none }) ∧
        (r.reason = 0 → (∀ i < imgBe (bytes b) 8 4, c.flashByte (cfgBase s.chip.freeCfgRegion + i) = bytes b i) ∧
          c.f CFG_SLOTS_CFG_MAP = s.chip.freeCfgRegion ∧ (bitOf (bytes b 7).toNat 1 = false → ended 0 0xFFFF c ∧ c.cfg.checking = s.chip.cfg.checking))) ∧
      Chip.Only regs ctrs [] (.cfg :: .flash :: pieces src) s.chip c) ∧
  (∀ (x : Line) (b : BulkObj) (fails : Bool) (s : State), (s.chip.line x).bulkDone = some b → b.type = 0x10 →
    slice (Config.sha384 b.data) 0 32 ≠ slice b.hash 0 32 →
    DoesFuse (.configImageDelivered (some x) fails) s fun c _ =>
      c.ctr N_CFG_OBJ_BAD = s.chip.ctr N_CFG_OBJ_BAD + 1 ∧ c.flag CFG_ALARM_OBJ = true ∧ (c.line x).bulkDone = none ∧
      c.reg CFG_STATUS = s.chip.reg CFG_STATUS ∧ c.cfg = s.chip.cfg ∧
      (∀ q ∈ b.ack, ((c.line x).bulkOut.getLast?.map fun t => (t.message, t.bytes)) = some (true,
        msgBytes (s.chip.f (LPx_IDENT_TID x)) 0x83 false (s.chip.line x).txSeq (beBytes 1 0x07 ++ beBytes 4 q ++ beBytes 1 2)))) ∧
  (∀ (src : Option Line) (s : State),
    Does (.configDeltaDelivered src) s fun c =>
      (∀ b ∈ s.chip.cfg.delivered, src = none → b.type = 0x11 →
        let r := checkImage s.otp (bytes b) b.data.length 3
        (r.reason ≠ 0 → ended r.reason r.record c ∧ c.cfg = { s.chip.cfg with delivered := none }) ∧
        (r.reason = 0 → s.chip.commitReason (imageContent s.otp (bytes b) r) = 0 →
          ended 0 0xFFFF c ∧ c.cfg.checking = some (imageContent s.otp (bytes b) r))) ∧
      Chip.Only regs ctrs [] (.cfg :: pieces src) s.chip c) ∧
  (∀ (src : Option Line) (fails : Bool) (s : State),
    DoesFuse (.firmwareDelivered src fails) s fun c o =>
      s.otp.Grows o ∧
      (∀ b ∈ s.chip.cfg.delivered, src = none → b.type = 0x13 →
        let r := checkImage s.otp (bytes b) b.data.length 1
        (r.reason ≠ 0 → ended r.reason r.record c ∧ c.flash = s.chip.flash) ∧
        (r.reason = 0 → ended 0 0xFFFF c ∧ ∀ q ∈ s.chip.boot.fwRegion, c.cfg.nextFw = some (1 - q == 1) ∧
          ∀ i < imgBe (bytes b) 8 4, c.flashByte (fwBase (1 - q) + i) = bytes b i)) ∧
      Chip.Only regs ctrs [] (.cfg :: .flash :: pieces src) s.chip c) ∧
  (∀ (m : Master) (rollback : BitVec 6) (version : Word) (s : State), s.chip.admits m true [CFG_SAVE_VER, CFG_SAVE] →
    Does (.savePrepare m rollback version) s fun c =>
      c.reg CFG_SAVE_VER = version ∧ c.f CFG_SAVE_ROLLBACK = rollback.toNat ∧ c.f CFG_SAVE_STATE = 1 ∧
      c.cfg = { s.chip.cfg with save := c.saveImage } ∧ c.deadline .savePrep = some (s.chip.now + 2 * secCcy) ∧
      Chip.Only [CFG_SAVE_VER, CFG_SAVE, MGT_STATUS] [] [.savePrep] [.cfg] s.chip c) ∧
  (∀ s : State, s.chip.f CFG_SAVE_STATE = 1 →
    Does .saveReady s fun c =>
      c.f CFG_SAVE_STATE = 2 ∧ (∀ n < 12, c.reg (CFG_SAVE_DIGEST n) = BitVec.ofNat 32 (beAt (Config.sha384 s.chip.cfg.save) (4 * n) 4)) ∧
      c.deadline .savePrep = none ∧ Chip.Only (CFG_SAVE :: (List.range 12).map CFG_SAVE_DIGEST) [] [.savePrep] [] s.chip c) ∧
  (∀ (src : Option Line) (fails : Bool) (s : State),
    DoesFuse (.saveSignature src fails) s fun c o =>
      s.otp.Grows o ∧
      (∀ b ∈ s.chip.cfg.delivered, src = none → b.type = 0x12 → s.chip.f CFG_SAVE_STATE = 2 →
        let r := s.chip.checkSave s.otp b.data
        let all := s.chip.cfg.save ++ b.data
        ended r 0xFFFF c ∧ c.f CFG_SAVE_STATE = (if r = 0 then 3 else 5) ∧ (r ≠ 0 → c.flash = s.chip.flash) ∧
        (r = 0 → c.f CFG_SLOTS_CFG_MAP = s.chip.freeCfgRegion ∧ ∀ i < all.length, c.flashByte (cfgBase s.chip.freeCfgRegion + i) = all.getD i 0)) ∧
      (s.chip.f CFG_SAVE_STATE ≠ 2 → c.reg CFG_SAVE = s.chip.reg CFG_SAVE ∧ c.flash = s.chip.flash ∧ o = s.otp) ∧
      Chip.Only (CFG_SAVE :: regs) ctrs [] (.cfg :: .flash :: pieces src) s.chip c)

/-- R319, R340, R341, R343, R344, R346, R402: what flash commands, the management SPI target, the firmware's heartbeat, the copy of the fault log and
the head ends' accesses do.
Where the rules leave a choice it follows the model's (assumption log entries 50, 55, 56 and 115). -/
def Obligations.FlashAndManagement : Prop :=
  let idle := fun (c : Chip) => c.flag NVM_PW_STATUS_BUSY = false ∧ (c.posted.all fun p => p.window != .nvm) = true
  let runs := fun (op : Nat) (a : BitVec 28) (c d : Chip) => d.f NVM_ADDR_ADDR = a.toNat ∧ d.cfg = { c.cfg with flashCmd := some op } ∧
    d.flag NVM_PW_STATUS_BUSY = true ∧ d.flag NVM_CMD_DONE = false ∧ d.f NVM_CMD_ERR = 0 ∧ d.reg NVM_ALARM = c.reg NVM_ALARM
  let barred := fun (c d : Chip) => d.flag NVM_CMD_DONE = true ∧ d.f NVM_CMD_ERR = 1 ∧ d.flag NVM_ALARM_PROT = true ∧ d.cfg = c.cfg ∧ idle d
  let frame := Chip.Only [NVM_ADDR, NVM_DATA, NVM_CMD, NVM_PW_STATUS, NVM_ALARM, MGT_STATUS] [] [] [.cfg]
  (∀ (m : Master) (a : BitVec 28) (s : State), s.chip.admits m true [NVM_ADDR, NVM_CMD] → idle s.chip →
    Does (.nvmReadWord m a) s fun c => runs 1 a s.chip c ∧ c.reg NVM_DATA = s.chip.reg NVM_DATA ∧ frame s.chip c) ∧
  (∀ (m : Master) (a : BitVec 28) (v : Word) (s : State), s.chip.admits m true [NVM_ADDR, NVM_DATA, NVM_CMD] → idle s.chip →
    Does (.nvmProgramWord m a v) s fun c =>
      c.reg NVM_DATA = v ∧ (if s.chip.flashProtected m a.toNat = true then barred s.chip c else runs 2 a s.chip c) ∧ frame s.chip c) ∧
  (∀ (m : Master) (a : BitVec 28) (s : State), s.chip.admits m true [NVM_ADDR, NVM_CMD] → idle s.chip →
    Does (.nvmEraseSector m a) s fun c =>
      (if s.chip.flashProtected m a.toNat = true then barred s.chip c else runs 3 a s.chip c) ∧ c.reg NVM_DATA = s.chip.reg NVM_DATA ∧ frame s.chip c) ∧
  (∀ (m : Master) (a : Nat) (s : State),
    (0x2000000 ≤ a → a < 0x2200000 → s.chip.flashProtected m a = !m.secure) ∧
    (s.chip.boot.recovery = false → s.chip.boot.fwRegion = some 0 → a < 0x400000 → s.chip.flashProtected m a = true) ∧
    (s.chip.boot.recovery = false → s.chip.boot.cfgRegion = some 1 → 0x1000000 ≤ a → a < 0x1800000 → s.chip.flashProtected m a = true) ∧
    (s.chip.boot.recovery = true → a < 0x2000000 → s.chip.flashProtected m a = false)) ∧
  (∀ (failed : Bool) (op : Nat) (s : State), s.chip.cfg.flashCmd = some op → 1 ≤ op → op ≤ 3 →
    Does (.nvmCmdDone failed) s fun c =>
      let a := s.chip.f NVM_ADDR_ADDR
      let known := a < 0x1800000 ∨ 0x2200000 ≤ a
      c.cfg = { s.chip.cfg with flashCmd := none } ∧ c.flag NVM_PW_STATUS_BUSY = false ∧ c.flag NVM_CMD_DONE = true ∧
      (if s.chip.flashSize ≤ a then c.f NVM_CMD_ERR = 3 ∧ c.flash = s.chip.flash ∧ c.reg NVM_DATA = s.chip.reg NVM_DATA
      else if failed = true ∧ op ≠ 1 then c.f NVM_CMD_ERR = 2 ∧ c.flag NVM_ALARM_FAIL = true ∧ c.flash = s.chip.flash
      else c.f NVM_CMD_ERR = s.chip.f NVM_CMD_ERR ∧
        (op = 1 → c.flash = s.chip.flash ∧ (known → c.reg NVM_DATA = BitVec.ofNat 32 (beNat ((List.range 4).map fun i => s.chip.flashByte (a + i))))) ∧
        (op = 2 → known → ∀ j, c.flashByte j = if a ≤ j ∧ j < a + 4 then
          s.chip.flashByte j &&& (beBytes 4 (s.chip.reg NVM_DATA).toNat).getD (j - a) 0 else s.chip.flashByte j) ∧
        (op = 3 → known → ∀ j, c.flashByte j = if j / 65536 = a / 65536 then 0xFF else s.chip.flashByte j)) ∧
      Chip.Only [NVM_CMD, NVM_DATA, NVM_PW_STATUS, NVM_ALARM] [] [] [.cfg, .flash, .free] s.chip c) ∧
  (∀ (a : BitVec 24) (v : Word) (t : Target) (s : State), s.chip.admits .mgt true [a.toNat] → target a.toNat = some t → t.staged = false →
    t.row.pair = .none → windowOf t.row t.reg = none → plainReg t.reg = true →
    Does (.mgtWrite a v) s fun c =>
      tookWrite t.row (s.chip.reg t.reg) v 0xFFFFFFFF (c.reg t.reg) ∧ c.mgtWrote = true ∧ c.flag MGT_STATUS_VIOL = false ∧
      Chip.Only [t.reg, MGT_STATUS] [] [] [.access] s.chip c) ∧
  (∀ (a : BitVec 24) (t : Target) (s : State), s.chip.admits .mgt false [a.toNat] → target a.toNat = some t → t.shadow = true → t.fixedOn = false →
    Does (.mgtRead a) s fun c =>
      c.sent = .spi (0xA5 :: beBytes 4 (s.chip.shadow t.reg).toNat) :: s.chip.sent ∧ Chip.Only [MGT_STATUS] [] [] [.sent] s.chip c) ∧
  (∀ (a : BitVec 24) (t : Target) (s : State), (s.chip.boot.recovery = true → recoveryReach t.reg = true) → target a.toNat = some t →
    s.chip.violates .mgt t false = true →
    Does (.mgtRead a) s fun c =>
      c.sent = .spi (0xA5 :: beBytes 4 0) :: s.chip.sent ∧ c.flag MGT_STATUS_VIOL = true ∧ c.flag MGT_ALARM_VIOL = true ∧
      Chip.Only [TOP_ACC_VIOL_ADDR, TOP_ACC_VIOL_COUNT, TOP_ACC_STATUS, MGT_STATUS, MGT_ALARM] [] [] [.sent] s.chip c) ∧
  (∀ s : State, Does .mgtStatus s fun c =>
      c.sent = .spi [BitVec.ofNat 8 (b2n s.chip.boot.recovery * 4 + s.chip.f MGT_STATUS_VIOL * 2 + b2n s.chip.mgtWrote)] :: s.chip.sent ∧
      Chip.Only [] [] [] [.sent] s.chip c) ∧
  (∀ (cmd : BitVec 8) (s : State), cmd ≠ 0x02 → cmd ≠ 0x0B → cmd ≠ 0x05 →
    Does (.mgtBadCommand cmd) s fun c =>
      c.sent = .spi [0xFF] :: s.chip.sent ∧ c.flag MGT_ALARM_CMD_ERR = true ∧ Chip.Only [MGT_ALARM] [] [] [.sent] s.chip c) ∧
  (∀ (l0 l1 : Nat) (s : State),
    Does (.fwHeartbeat l0 l1) s fun c =>
      (∀ p < 2, if s.chip.isOn (45 + p) = true ∧ s.chip.flag (MBX_STATUS_RUN p) = true then
          c.f (MBX_STATUS_BEAT p) = (s.chip.f (MBX_STATUS_BEAT p) + 1) % 65536 ∧ c.f (MBX_STATUS_LOAD p) = min 100 (if p = 0 then l0 else l1) ∧
          c.flag (MBX_STATUS_RUN p) = true
        else c.reg (MBX_STATUS p) = s.chip.reg (MBX_STATUS p)) ∧
      Chip.Only [MBX_STATUS 0, MBX_STATUS 1] [] [] [] s.chip c) ∧
  (∀ (failed : Bool) (s : State), s.chip.isOn 46 = true → s.chip.flag (MBX_STATUS_RUN 1) = true → s.chip.itm.uncopied ≠ 0 →
    Does (.faultLogCopy failed) s fun c =>
      let fresh := (List.range s.chip.itm.uncopied).map fun k => Map.get {} s.chip.itm.log ((s.chip.itm.next + 256 - s.chip.itm.uncopied + k) % 256)
      (if failed = true then c.flag MBX_ALARM_LOG_COPY = true ∧ c.itm = s.chip.itm
      else c.reg MBX_ALARM = s.chip.reg MBX_ALARM ∧
        c.itm = { s.chip.itm with
          uncopied := 0, copied := (if 65536 < s.chip.itm.copied.length + s.chip.itm.uncopied then s.chip.itm.copied.drop 4096 else s.chip.itm.copied) ++ fresh }) ∧
      Chip.Only [MBX_ALARM] [] [] [.itm] s.chip c) ∧
  (∀ (x : Line) (g : RegMsg) (e : RegEntry) (r : List RegMsg) (s : State), (s.chip.line x).regQueue = g :: r → g.entries = [e] →
    s.chip.reaches (headOf x) = true →
    let reply := fun (code v : Nat) => msgBytes (s.chip.f (LPx_IDENT_TID x)) 0x85 false (s.chip.line x).txSeq
      (beBytes 1 1 ++ beBytes 4 g.seq ++ fill 3 0 ++ (beBytes 1 code ++ beBytes 4 v))
    let answers := fun (c : Chip) (code v : Nat) => ((c.line x).bulkOut.getLast?.map fun t => (t.message, t.bytes)) = some (true, reply code v) ∧
      (c.line x).regQueue = r
    ((e.op ≠ 1 ∧ e.op ≠ 2) ∨ e.addr % 4 ≠ 0 → Does (.regAccessRun x) s fun c => answers c 4 0 ∧ Chip.Only [] [] [] [.line x] s.chip c) ∧
    (∀ t ∈ target e.addr, e.op = 1 → s.chip.violates (headOf x) t false = true →
      Does (.regAccessRun x) s fun c => answers c 1 0 ∧
        Chip.Only [TOP_ACC_VIOL_ADDR, TOP_ACC_VIOL_COUNT, TOP_ACC_STATUS] [] [] [.line x] s.chip c) ∧
    (∀ t ∈ target e.addr, e.op = 1 → s.chip.admits (headOf x) false [e.addr] → t.shadow = true → t.fixedOn = false →
      Does (.regAccessRun x) s fun c => answers c 0 (s.chip.shadow t.reg).toNat ∧ Chip.Only [] [] [] [.line x] s.chip c) ∧
    (∀ t ∈ target e.addr, e.op = 2 → s.chip.admits (headOf x) true [e.addr] → t.row.cls = .c → t.fixedOn = false →
      Does (.regAccessRun x) s fun c => answers c 0 0 ∧
        (∀ i < 32, bitOf (writable t.reg) i = true → (c.shadow t.reg).getLsbD i = e.data.getLsbD i) ∧ Chip.Only [] [] [] [.line x, .staged] s.chip c))

/-! ## Power -/

/-- R371, R373, R375, R376, R377, R378, R380: what a request for one domain and the two listen requests do when no other request runs.
Where the rules leave a choice it follows the model's (assumption log entries 37, 48 and 135). -/
def Obligations.PowerRequests : Prop :=
  let idle := fun (c : Chip) => c.flag PWR_PW_STATUS_BUSY = false ∧ (c.posted.all fun p => p.window != .power) = true
  let alone := fun (c : Chip) => c.power.jobs = [] ∧ c.power.queued = []
  let frame := Chip.Within (fun a => powerReg a || a == MGT_STATUS) powerCtr powerTimer [.power]
  let ended := fun (res dom : Nat) (c : Chip) => c.flag PWR_REQ_STATUS_DONE = true ∧ c.f PWR_REQ_STATUS_RESULT = res ∧ c.f PWR_REQ_STATUS_DOMAIN = dom
  (∀ (d t : Nat) (s : State), t < 4 →
    (49 < d ∨ (d ∈ [0, 45, 46, 47, 49] ∧ t < 2) → s.chip.judge false [⟨d, t⟩] = (5, d)) ∧
    (d < 50 → d ∉ [0, 45, 46, 47, 49] → t < 2 → s.chip.inUse d = true → s.chip.judge false [⟨d, t⟩] = (1, d)) ∧
    (d < 50 → d ∉ [0, 45, 46, 47, 49] → t < 2 → s.chip.inUse d = false → (∃ k, k < 50 ∧ d ∈ parents k ∧ s.chip.isOn k = true) →
      s.chip.judge false [⟨d, t⟩] = (3, d)) ∧
    (d < 50 → t = 2 → s.chip.judge false [⟨d, t⟩] = (0, d))) ∧
  (∀ (m : Master) (d : BitVec 6) (t : BitVec 2) (s : State), s.chip.admits m true [PWR_REQ] → idle s.chip → alone s.chip →
    (s.chip.targetState d.toNat t.toNat = 2 → ∀ p ∈ ancestors d.toNat ++ [d.toNat], s.chip.f (PWR_STATE_PHASE p) ≠ 1) →
    Does (.powerRequestDomain m d t) s fun c =>
      let n := d.toNat
      let mv : PowerMove := ⟨n, t.toNat⟩
      let refusal := (s.chip.judge false [mv]).1
      let goal := s.chip.targetState n t.toNat
      let job : PowerJob := { src := .register, todo := [⟨n, goal⟩], id := s.chip.power.reqs + 1, dom := n }
      let asked := { s.chip.power with reqs := s.chip.power.reqs + 1 }
      (if n < 50 ∧ s.chip.inTransition n = true then
        c.power.queued = [{ src := .register, moves := [mv], id := s.chip.power.reqs + 1, dom := n }] ∧
        c.flag (PWR_STATE_QUEUED n) = true ∧ c.flag PWR_REQ_STATUS_DONE = false
      else if refusal ≠ 0 then
        ended refusal n c ∧ c.power = asked ∧ c.ctr N_PWR_REFUSED = s.chip.ctr N_PWR_REFUSED + 1 ∧
        (n < 50 → c.f (PWR_STATE_RESULT n) = refusal ∧ c.f (PWR_STATE_PRESENT n) = s.chip.f (PWR_STATE_PRESENT n))
      else if s.chip.f (PWR_STATE_PRESENT n) = goal then (ancestors n).all s.chip.isOn = true → ended 0 n c ∧ c.power = asked
      else if goal = 2 then
        (ancestors n).all s.chip.isOn = true → s.chip.slotFree = true → c.f (PWR_STATE_PHASE n) = 2 ∧ c.power.jobs = [job] ∧
          c.deadline (.wake n) = some (s.chip.now + 20 * usCcy) ∧ c.flag PWR_REQ_STATUS_DONE = false
      else if s.chip.isOn n = true then
        c.f (PWR_STATE_PHASE n) = 1 ∧ c.power.jobs = [job] ∧ c.flag PWR_REQ_STATUS_DONE = false ∧
        c.deadline (.drain n) = (if s.chip.grantsPend n = true then s.chip.deadline (.drain n) else some (s.chip.now + drainLimit n))
      else ended 0 n c ∧ c.f (PWR_STATE_PRESENT n) = goal ∧ c.power.jobs = [] ∧ (∀ k ∈ c.power.retained, k ≠ n)) ∧
      frame s.chip c) ∧
  (∀ (m : Master) (g : BitVec 3) (s : State), s.chip.admits m true [PWR_REQ] → idle s.chip → alone s.chip →
    Does (.listenEnter m g) s fun c =>
      let ds := listenDomains g.toNat
      let lane := ds.getLastD 0
      let asked := { s.chip.power with reqs := s.chip.power.reqs + 1 }
      (4 < g.toNat → ended 5 0 c ∧ c.power = asked ∧ frame s.chip c) ∧
      (g.toNat ≤ 4 → s.chip.canListen g.toNat = false →
        ended 5 (ds.headD 0) c ∧ (∀ d ∈ ds, c.f (PWR_STATE_RESULT d) = 5) ∧ c.power = asked ∧ frame s.chip c) ∧
      (g.toNat ≤ 4 → s.chip.canListen g.toNat = true → (∀ d ∈ ds, s.chip.isOn d = true ∧ s.chip.inTransition d = false) →
        (∀ d ∈ ds, c.f (PWR_STATE_PHASE d) = if d = lane then 0 else 1) ∧
        (∀ d ∈ ds, d ≠ lane → c.deadline (.drain d) = some (s.chip.now + 50 * usCcy)) ∧
        c.power.jobs = [{ src := .register, todo := ds.map fun d => ⟨d, 0⟩, group := some g.toNat, enter := true, id := s.chip.power.reqs + 1, dom := lane }] ∧
        c.flag PWR_REQ_STATUS_DONE = false ∧ frame s.chip c)) ∧
  (∀ (m : Master) (g : BitVec 3) (s : State), s.chip.admits m true [PWR_REQ] → idle s.chip → alone s.chip →
    Does (.listenLeave m g) s fun c =>
      let ds := listenDomains g.toNat
      let lane := ds.getLastD 0
      (4 < g.toNat → ended 5 0 c ∧ c.power = { s.chip.power with reqs := s.chip.power.reqs + 1 } ∧ frame s.chip c) ∧
      (g.toNat ≤ 4 → (∀ d ∈ ds, s.chip.isOn d = false ∧ s.chip.inTransition d = false) → s.chip.slotFree = true →
        c.f (PWR_STATE_PHASE lane) = 2 ∧ c.deadline (.wake lane) = some (s.chip.now + 20 * usCcy) ∧
        (∀ d ∈ ds, d ≠ lane → c.f (PWR_STATE_PHASE d) = 0) ∧ c.reg PWR_LISTEN = s.chip.reg PWR_LISTEN ∧
        c.power.jobs = [{ src := .register, todo := ds.reverse.map fun d => ⟨d, 2⟩, group := some g.toNat, id := s.chip.power.reqs + 1, dom := ds.headD 0 }] ∧
        c.flag PWR_REQ_STATUS_DONE = false ∧ frame s.chip c))

/-- R373, R376, R380, R381: what the ends of quiesces and drains, the wake steps and the ends of wakes do.
Where the rules leave a choice it follows the model's (assumption log entries 48, 49 and 97). -/
def Obligations.PowerSteps : Prop :=
  let plain := fun (d : Nat) => d < 50 ∧ ¬(1 ≤ d ∧ d ≤ 6) ∧ ¬(27 ≤ d ∧ d ≤ 39)
  let frame := Chip.Within powerReg powerCtr powerTimer [.power]
  (∀ (d t : Nat) (src : ReqSource) (s : State), d < 50 → s.chip.f (PWR_STATE_PHASE d) = 1 → s.chip.drained d = true →
    s.chip.power.jobs = [{ src := src, todo := [⟨d, t⟩], dom := d }] → s.chip.power.queued = [] → t < 2 →
    Does (.quiesceEnd d) s fun c =>
      let goal := t
      c.f (PWR_STATE_PRESENT d) = goal ∧ c.f (PWR_STATE_PHASE d) = 0 ∧ c.f (PWR_STATE_RESULT d) = 0 ∧ c.power.jobs = [] ∧
      c.ctr N_PWR_DOWNS = s.chip.ctr N_PWR_DOWNS + 1 ∧ c.deadline (.drain d) = none ∧ (goal = 1 → c.power.retained.contains d = true) ∧
      (plain d → frame s.chip c)) ∧
  (∀ (d e t : Nat) (src : ReqSource) (s : State), d < 50 → s.chip.f (PWR_STATE_PHASE d) = 1 → s.chip.deadline (.drain d) = some e →
    s.chip.power.jobs = [{ src := src, todo := [⟨d, t⟩], dom := d }] → s.chip.power.queued = [] → t < 2 → src ≠ .retry →
    Does (.drainTimeout d) s fun c =>
      let base := s.chip.elapse (e - s.chip.now)
      c.f (PWR_STATE_PRESENT d) = s.chip.f (PWR_STATE_PRESENT d) ∧ c.f (PWR_STATE_PHASE d) = 0 ∧ c.f (PWR_STATE_RESULT d) = 2 ∧
      c.ctr N_PWR_REFUSED = s.chip.ctr N_PWR_REFUSED + 1 ∧ c.flag PWR_ALARM_DRAIN_TIMEOUT = true ∧ c.power.jobs = [] ∧
      c.power.retry = s.chip.power.retry ++ (if src = .commit then [⟨d, t⟩] else []) ∧ c.deadline (.drain d) = none ∧ frame base c) ∧
  (∀ (d e t : Nat) (s : State), d < 50 → s.chip.f (PWR_STATE_PHASE d) = 1 → s.chip.deadline (.drain d) = some e → s.chip.power.queued = [] →
    s.chip.power.jobs = [{ src := .retry, todo := [⟨d, t⟩] }] → t < 2 →
    Does (.drainTimeout d) s fun c =>
      let base := s.chip.elapse (e - s.chip.now)
      c.f (PWR_STATE_PHASE d) = 0 ∧ c.f (PWR_STATE_RESULT d) = s.chip.f (PWR_STATE_RESULT d) ∧ c.power.jobs = [] ∧
      c.ctr N_PWR_DRAIN_RETRY = s.chip.ctr N_PWR_DRAIN_RETRY + 1 ∧ c.ctr N_PWR_REFUSED = s.chip.ctr N_PWR_REFUSED ∧
      c.power.retry = s.chip.power.retry ∧ frame base c) ∧
  (∀ (mv : PowerMove) (s : State), s.chip.power.jobs = [] → s.chip.power.retry = [mv] → mv.dom < 50 → s.chip.isOn mv.dom = true →
    s.chip.inTransition mv.dom = false → mv.target < 2 → (∀ k ∈ children mv.dom, s.chip.onOrWaking k = false) → s.chip.grantsPend mv.dom = false →
    Does .drainRetry s fun c =>
      let base := s.chip.nextFrame 20
      c.f (PWR_STATE_PHASE mv.dom) = 1 ∧ c.deadline (.drain mv.dom) = some (base.now + drainLimit mv.dom) ∧
      c.power.jobs = [{ src := .retry, todo := [mv] }] ∧ c.power.retry = [mv] ∧ frame base c) ∧
  (∀ (d : Nat) (bist : Bool) (s : State), d < 50 → 2 ≤ s.chip.f (PWR_STATE_PHASE d) → s.chip.f (PWR_STATE_PHASE d) ≤ 5 →
    s.chip.running (.wake d) = true → s.chip.power.waiting = [] →
    (s.chip.f (PWR_STATE_PHASE d) = 4 → bist = true → d ∈ s.chip.power.woken) →
    Does (.wakeStepReady d bist) s fun c =>
      let p := s.chip.f (PWR_STATE_PHASE d)
      let goal := if p = 3 ∧ hasArrays d = false then 5 else p + 1
      let limit := if goal = 3 then 100 else if goal = 4 then (if d ∈ s.chip.power.woken then 200 else 2200) else 5
      (if goal = 4 ∧ s.chip.slotFree = false then c.f (PWR_STATE_PHASE d) = p ∧ c.power.waiting = [d] ∧ c.deadline (.wake d) = none
      else c.f (PWR_STATE_PHASE d) = goal ∧ c.power.waiting = [] ∧
        c.deadline (.wake d) = if goal = 6 then none else some (s.chip.now + limit * usCcy)) ∧
      c.f (PWR_STATE_PRESENT d) = s.chip.f (PWR_STATE_PRESENT d) ∧ frame s.chip c) ∧
  (∀ (d e : Nat) (s : State), d < 50 → s.chip.deadline (.wake d) = some e → 2 ≤ s.chip.f (PWR_STATE_PHASE d) → s.chip.f (PWR_STATE_PHASE d) ≤ 5 →
    s.chip.power.jobs = [] → s.chip.power.queued = [] → s.chip.power.waiting = [] → s.chip.reaction 16 < 2 →
    Does (.wakeStepTimeout d) s fun c =>
      let base := s.chip.elapse (e - s.chip.now)
      c.f (PWR_STATE_PRESENT d) = 0 ∧ c.f (PWR_STATE_PHASE d) = 0 ∧ c.f (PWR_STATE_FAIL_STEP d) = s.chip.f (PWR_STATE_PHASE d) - 1 ∧
      bitOf (c.reg (PWR_FAIL (d / 32))).toNat (d % 32) = true ∧ c.ctr N_PWR_FAILS = s.chip.ctr N_PWR_FAILS + 1 ∧
      c.flag PWR_ALARM_PWR_FAIL = true ∧ bitOf (c.f ITM_FAULT_STATUS_CLASS) 16 = true ∧ c.deadline (.wake d) = none ∧
      (plain d → Chip.Within (fun a => powerReg a || onPages [4] a) (fun a => powerCtr a || onPages [4] a) powerTimer [.power, .itm] base c)) ∧
  (∀ (d : Nat) (s : State), d < 50 → s.chip.f (PWR_STATE_PHASE d) = 6 → s.chip.power.jobs = [] → s.chip.power.queued = [] → s.chip.power.waiting = [] →
    Does (.wakeComplete d []) s fun c =>
      c.f (PWR_STATE_PRESENT d) = 2 ∧ c.f (PWR_STATE_PHASE d) = 0 ∧ bitOf (c.reg (PWR_WOKE (d / 32))).toNat (d % 32) = true ∧
      c.ctr N_PWR_WAKES = s.chip.ctr N_PWR_WAKES + 1 ∧ c.flag PWR_ALARM_WOKE = true ∧ c.power.woken.contains d = true ∧
      (∀ a, isClassC a = true → addrDom a = d → d ≠ 0 → c.reg a = s.chip.stored a) ∧
      (∀ a, isClassC a = true → addrDom a ≠ d → c.reg a = s.chip.reg a) ∧ c.store = s.chip.store ∧ c.nt = s.chip.nt)

/-- R233, R382, R383: what wake events, frames heard in listen and the wake of a line's receivers do.
Where the rules leave a choice it follows the model's (assumption log entries 43, 103 and 136). -/
def Obligations.WakeEvents : Prop :=
  (∀ (k : Nat) (s : State), k < 23 → s.chip.wakeAction k ≠ 0 → s.chip.power.jobs = [] →
    (if k < 20 then s.chip.flag (ETH_STATUS_LISTEN k) = true else if k = 20 then s.chip.f (LPx_ACT_STATUS_SLEEP .a) = 1
      else if k = 21 then s.chip.f (LPx_ACT_STATUS_SLEEP .b) = 1 else True) →
    Does (.wakeEvent k) s fun c =>
      let all := 2 ≤ s.chip.wakeAction k ∨ k = 22
      c.ctr N_PWR_WAKE_EVTS = s.chip.ctr N_PWR_WAKE_EVTS + 1 ∧ c.reg PWR_WAKE_LAST = BitVec.ofNat 32 (2 ^ 31 + k) ∧ c.flag PWR_ALARM_WAKE_EVT = true ∧
      (k < 20 → ¬all → s.chip.power.queued = [] → s.chip.slotFree = true → (∀ d ∈ listenDomains (k / 4), s.chip.isOn d = false ∧ s.chip.inTransition d = false) →
        c.f (PWR_STATE_PHASE (35 + k / 4)) = 2 ∧ c.reg PWR_LISTEN = s.chip.reg PWR_LISTEN ∧
        c.power.jobs = [{ src := .wake, todo := (listenDomains (k / 4)).reverse.map fun d => ⟨d, 2⟩, group := some (k / 4), id := s.chip.power.reqs, dom := (listenDomains (k / 4)).headD 0 }]) ∧
      (∀ x, all ∨ (k = 20 ∧ x = Line.a) ∨ (k = 21 ∧ x = Line.b) → s.chip.f (LPx_ACT_STATUS_SLEEP x) = 1 → c.f (LPx_ACT_STATUS_SLEEP x) = 0)) ∧
  (∀ (k : Nat) (s : State), s.chip.wakeAction k = 0 → Does (.wakeEvent k) s fun c => Chip.Only [] [] [] [] s.chip c) ∧
  (∀ (n : Nat) (bs : List Byte) (s : State), n < 20 → (s.chip.isOn (macDom n) = false ∨ s.chip.isOn (laneDom n) = false) →
    s.chip.f (ETH_WAKE_STATUS_LAST n) ≠ 0 →
    Does (.listenFrame n bs) s fun c =>
      c.f (ETH_WAKE_STATUS_DISC n) = min 65535 (s.chip.f (ETH_WAKE_STATUS_DISC n) + 1) ∧
      c.f (ETH_WAKE_STATUS_LAST n) = s.chip.f (ETH_WAKE_STATUS_LAST n) ∧ Chip.Only [ETH_WAKE_STATUS n] [] [] [] s.chip c) ∧
  (∀ (n : Nat) (bs : List Byte) (s : State), n < 20 → (s.chip.isOn (macDom n) = false ∨ s.chip.isOn (laneDom n) = false) →
    s.chip.flag (ETH_STATUS_LISTEN n) = true → s.chip.f (ETH_WAKE_STATUS_LAST n) = 0 → s.chip.wakeAction n = 0 →
    Does (.listenFrame n bs) s fun c =>
      c.f (ETH_WAKE_STATUS_LAST n) = (if fcsOk bs = true then s.chip.wakeCode n bs else 0) % 16 ∧
      Chip.Only [ETH_WAKE_STATUS n] [] [] [] s.chip c) ∧
  (∀ (x : Line) (p : SleepPlan) (s : State), (s.chip.line x).sleep = some p → p.mode = 2 → s.chip.f (LPx_ACT_STATUS_SLEEP x) = 2 →
    s.chip.power.jobs = [] → s.chip.power.queued = [] → (∀ d ∈ [rxDom x, protoDom x, txDom x], s.chip.isOn d = false ∧ s.chip.inTransition d = false) → s.chip.slotFree = true →
    Does (.lineWakeStart x) s fun c =>
      let cif := (s.chip.line x).saved.cif
      let d : Int := signed 32 (s.chip.reg TWE_TRACK_OFS).toNat / 256
      let whole : Int := if s.chip.master = x then 0 else (2 * (d - cif) + frameCcy) / (2 * frameCcy)
      let due := (((p.wake + whole) * frameCcy + cif : Int)).toNat
      let base := s.chip.elapse (due - 562500 - s.chip.nt.ccy)
      c.f (PWR_STATE_PHASE (rxDom x)) = 2 ∧ c.deadline (.wake (rxDom x)) = some (base.now + 20 * usCcy) ∧
      c.power.jobs.map (fun j => (j.src, j.todo.map (·.dom))) = [(.lineSleep, [rxDom x, protoDom x, txDom x])] ∧
      Chip.Within powerReg powerCtr powerTimer [.power] base c)

/-! ## Integrity -/

/-- The reports of faults that R388's weaker reactions answer, and what the log takes of one (R387 to R389, R401).
Where the rules leave a choice it follows the model's (assumption log entries 15 and 32). -/
def Obligations.FaultReports : Prop :=
  let entry := fun (c : Chip) (seq : Nat) (r : FaultReport) => (⟨BitVec.ofNat 32 c.nt.fn, BitVec.ofNat 32 (c.nt.cif * 2 ^ 14 + r.cls * 2 ^ 4 + c.reaction r.cls),
    BitVec.ofNat 32 (r.dom % 64 * 2 ^ 26 + r.loc % 2 ^ 26), BitVec.ofNat 32 (seq % 65536 * 65536 + r.detail % 65536)⟩ : LogEntry)
  let shown := [ITM_FAULT_STATUS, ITM_FAULT_ACTIVE, ITM_CMON_STATUS, ITM_VMON_STATUS]
  let counts := fun (k : Nat) => [N_ITM_CLASS0 + 8 * k, N_ITM_ECC_CORR, N_ITM_LOG_LOST]
  (∀ (r : FaultReport) (s : State), s.chip.isOn 49 = true → r.cls < 18 → s.chip.reaction r.cls < 2 →
    Does (.faultDetected [r]) s fun c =>
      let seen := r.cls = 0 ∧ (s.chip.itm.eccSeen.any fun e => e.1 == r.dom % 64 * 2 ^ 26 + r.loc % 2 ^ 26 && decide (s.chip.now < e.2 + secCcy)) = true
      c.ctr (N_ITM_CLASS0 + 8 * r.cls) = s.chip.ctr (N_ITM_CLASS0 + 8 * r.cls) + 1 ∧ bitOf (c.f ITM_FAULT_STATUS_CLASS) r.cls = true ∧
      (r.active = true → bitOf (c.f ITM_FAULT_ACTIVE_CLASS) r.cls = true) ∧
      (if seen then c.ctr N_ITM_ECC_CORR = s.chip.ctr N_ITM_ECC_CORR + 1 ∧ c.itm = s.chip.itm
      else c.ctr N_ITM_ECC_CORR = s.chip.ctr N_ITM_ECC_CORR ∧ Map.get {} c.itm.log s.chip.itm.next = entry s.chip s.chip.itm.seq r ∧
        (∀ j, j ≠ s.chip.itm.next → Map.get {} c.itm.log j = Map.get {} s.chip.itm.log j) ∧
        c.itm.next = (s.chip.itm.next + 1) % 256 ∧ c.itm.seq = (s.chip.itm.seq + 1) % 65536 ∧ c.itm.faultLow = s.chip.itm.faultLow ∧
        (if s.chip.itm.uncopied < 256 then c.itm.uncopied = s.chip.itm.uncopied + 1 ∧ c.ctr N_ITM_LOG_LOST = s.chip.ctr N_ITM_LOG_LOST
        else c.itm.uncopied = 256 ∧ c.ctr N_ITM_LOG_LOST = s.chip.ctr N_ITM_LOG_LOST + 1)) ∧
      (r.cls = 7 → r.loc < 25 → bitOf (c.f ITM_CMON_STATUS_FAIL) r.loc = true) ∧
      (r.cls = 8 → r.loc < 9 → bitOf (c.f ITM_VMON_STATUS_RAIL) r.loc = true) ∧
      Chip.Only shown (counts r.cls) [] [.itm] s.chip c) ∧
  (∀ (r q : FaultReport) (s : State), s.chip.isOn 49 = true → r.cls < q.cls → q.cls < 18 → r.cls ≠ 0 → s.chip.reaction r.cls < 2 → s.chip.reaction q.cls < 2 →
    Does (.faultDetected [q, r]) s fun c =>
      let n := s.chip.itm.next % 256
      s.chip.itm.next < 256 →
      Map.get {} c.itm.log n = entry s.chip s.chip.itm.seq r ∧ Map.get {} c.itm.log ((n + 1) % 256) = entry s.chip (s.chip.itm.seq % 65536 + 1) q ∧
      c.itm.next = (n + 2) % 256 ∧ bitOf (c.f ITM_FAULT_STATUS_CLASS) r.cls = true ∧ bitOf (c.f ITM_FAULT_STATUS_CLASS) q.cls = true ∧
      Chip.Only shown (counts r.cls ++ counts q.cls) [] [.itm] s.chip c) ∧
  (∀ (reports : List FaultReport) (s : State), s.chip.isOn 49 = false → Does (.faultDetected reports) s fun c => Chip.Only [] [] [] [] s.chip c) ∧
  (∀ (rail : Nat) (s : State), s.chip.isOn 49 = true → rail < 9 →
    Does (.railReturn rail) s fun c =>
      (∀ j < 9, bitOf (c.f ITM_VMON_STATUS_RAIL) j = (decide (j ≠ rail) && bitOf (s.chip.f ITM_VMON_STATUS_RAIL) j)) ∧
      (∀ k < 18, bitOf (c.f ITM_FAULT_ACTIVE_CLASS) k = (bitOf (s.chip.f ITM_FAULT_ACTIVE_CLASS) k && (k != 8 || c.f ITM_VMON_STATUS_RAIL != 0))) ∧
      Chip.Only [ITM_VMON_STATUS, ITM_FAULT_ACTIVE] [] [] [] s.chip c) ∧
  (∀ (t0 t1 t2 t3 : BitVec 9) (s : State), s.chip.isOn 49 = true → s.chip.reaction 9 < 2 →
    Does (.tempSample t0 t1 t2 t3) s fun c =>
      let ts := [t0, t1, t2, t3]
      let top : Int := if s.otp.grade = 1 then 110 else 125
      let crit : Int := if s.chip.f ITM_TEMP_THR_CRIT = 0 then top + 5 else s.chip.f ITM_TEMP_THR_CRIT
      let warn : Int := if s.chip.f ITM_TEMP_THR_WARN = 0 then top - 10 else s.chip.f ITM_TEMP_THR_WARN
      let hot := ts.any fun t => decide (crit < t.toInt)
      (∀ n < 4, c.f (ITM_TEMP_TJ n) = (ts.getD n 0).toNat) ∧ c.flag ITM_VMON_STATUS_TWARN = (ts.any fun t => decide (warn < t.toInt)) ∧
      bitOf (c.f ITM_FAULT_ACTIVE_CLASS) 9 = hot ∧
      (hot = true ∧ bitOf (s.chip.f ITM_FAULT_ACTIVE_CLASS) 9 = false → c.ctr (N_ITM_CLASS0 + 72) = s.chip.ctr (N_ITM_CLASS0 + 72) + 1 ∧
        bitOf (c.f ITM_FAULT_STATUS_CLASS) 9 = true) ∧
      (hot = false ∨ bitOf (s.chip.f ITM_FAULT_ACTIVE_CLASS) 9 = true → c.ctr (N_ITM_CLASS0 + 72) = s.chip.ctr (N_ITM_CLASS0 + 72) ∧ c.itm = s.chip.itm) ∧
      Chip.Only (((List.range 4).map ITM_TEMP) ++ shown) (counts 9) [] [.itm] s.chip c) ∧
  (∀ (a : Nat) (v : Word) (s : State), s.chip.isOn 49 = true → s.chip.reaction 11 < 2 →
    Does (.cregSweep [(a, v)] []) s fun c =>
      (if (target a).any (fun t => t.reg == a && t.row.cls == .c && s.chip.isOn (t.row.dom.of t.idx)) = true ∧ v ≠ s.chip.reg a then
        c.ctr (N_ITM_CLASS0 + 88) = s.chip.ctr (N_ITM_CLASS0 + 88) + 1 ∧ bitOf (c.f ITM_FAULT_STATUS_CLASS) 11 = true ∧
        Map.get {} c.itm.log s.chip.itm.next = entry s.chip s.chip.itm.seq ⟨11, addrDom a, a, 0, false⟩ ∧
        (a = TOP_PINMUX → c.flag TOP_INT_STATUS_PINMUX_ERR = true)
      else c.itm = s.chip.itm ∧ c.ctr (N_ITM_CLASS0 + 88) = s.chip.ctr (N_ITM_CLASS0 + 88)) ∧
      Chip.Only (TOP_INT_STATUS :: shown) (counts 11) [] [.itm] s.chip c) ∧
  (∀ (i w : Nat) (s : State), s.chip.isOn 49 = true → s.chip.isOn (12 + i / 3072) = true → i < 12288 → s.chip.reaction 2 < 2 →
    s.chip.sorter.rules = s.chip.sorter.copy → ruleAt s.chip.sorter.copy i ≠ w → w ≠ 0 →
    Does (.ruleSweep [(i, w)]) s fun c =>
      (∀ j, ruleAt c.sorter.rules j = ruleAt s.chip.sorter.rules j) ∧ c.sorter.copy = s.chip.sorter.copy ∧
      c.ctr (N_ITM_CLASS0 + 16) = s.chip.ctr (N_ITM_CLASS0 + 16) + 1 ∧ bitOf (c.f ITM_FAULT_STATUS_CLASS) 2 = true ∧
      Map.get {} c.itm.log s.chip.itm.next = entry s.chip s.chip.itm.seq ⟨2, 12 + i / 3072, i, 0, false⟩ ∧
      Chip.Only shown (counts 2) [] [.itm, .sorter] s.chip c) ∧
  (∀ (n : Nat) (s : State), s.chip.isOn 49 = true →
    Does (.periodicSelftest n []) s fun c =>
      c.ctr N_ITM_STEST_RUNS = s.chip.ctr N_ITM_STEST_RUNS + BitVec.ofNat 64 n ∧ Chip.Only [] [N_ITM_STEST_RUNS] [] [] s.chip c) ∧
  (∀ (n k : Nat) (s : State), s.chip.isOn 49 = true → s.chip.reaction 15 < 2 →
    Does (.periodicSelftest n [k]) s fun c =>
      c.ctr N_ITM_STEST_RUNS = s.chip.ctr N_ITM_STEST_RUNS + BitVec.ofNat 64 n ∧ bitOf (c.f ITM_FAULT_STATUS_CLASS) 15 = true ∧
      Map.get {} c.itm.log s.chip.itm.next = entry s.chip s.chip.itm.seq ⟨15, 49, k, 0, false⟩ ∧
      Chip.Only shown (N_ITM_STEST_RUNS :: counts 15) [] [.itm] s.chip c)

/-- R389, R391 to R394: the safe state, its exit, and a reset reaction.
Where the rules leave a choice it follows the model's (assumption log entries 16, 17 and 127). -/
def Obligations.SafeStateAndReset : Prop :=
  let safe := fun (cls : Nat) (b c : Chip) =>
    c.flag ITM_SAFE_ACTIVE = true ∧ c.f ITM_SAFE_CLASS = cls ∧ c.itm.faultLow = true ∧ c.ctr N_ITM_SAFE_ENTRY = b.ctr N_ITM_SAFE_ENTRY + 1 ∧
    bitOf (c.f ITM_FAULT_STATUS_CLASS) cls = true ∧ c.ctr (N_ITM_CLASS0 + 8 * cls) = b.ctr (N_ITM_CLASS0 + 8 * cls) + 1 ∧
    (∀ x, c.flag (LNx_TX_STATUS_BEN x) = false ∧ c.flag (LNx_TX_STATUS_IN_BURST x) = false ∧ (c.line x).grants = [] ∧ (c.line x).windows = [] ∧
      (c.line x).burstEnd = none ∧ c.ctr (N_LPx_GRANT_LOST x) =
        b.ctr (N_LPx_GRANT_LOST x) + BitVec.ofNat 64 (b.line x).grants.length + (if (b.line x).burstEnd = none then 0 else 1)) ∧
    (∀ n < 20, c.flag (ETH_STATUS_LINK n) = false ∧ (b.flag (ETH_STATUS_LINK n) = true → c.flag (ETH_ALARM_LINK_DOWN n) = true)) ∧
    (∀ a, c.stored a = b.stored a) ∧ c.nt = b.nt ∧ c.cfg = b.cfg ∧ c.flash = b.flash ∧ c.power = b.power ∧ c.keys = b.keys
  let restarted := fun (cls : Nat) (b c : Chip) =>
    c.f ITM_RST_CAUSE_CLASS = cls ∧ c.flag ITM_RST_CAUSE_VALID = true ∧ c.f ITM_RST_CAUSE_COUNT = c.itm.resets.length ∧ c.itm.resets.head? = some b.now ∧
    (∀ x, c.reg (ITM_PTR_STATUS x) = b.reg (ITM_PTR_STATUS x)) ∧ c.itm.faultLow = true ∧
    (∀ j, j ≠ b.itm.next → Map.get {} c.itm.log j = Map.get {} b.itm.log j) ∧ c.itm.next = (b.itm.next + 1) % 256 ∧
    wordBits (Map.get {} c.itm.log b.itm.next).w1 4 10 = cls ∧ c.itm.wdog = (cls == 10) ∧
    (∀ a, a ∉ [ITM_RST_CAUSE, ITM_PTR_STATUS .a, ITM_PTR_STATUS .b, TOP_INT_STATUS] → standingReg a = false → tallyPage a = false → c.reg a = resetWord a) ∧
    (∀ a, tallyPage a = false → c.ctr a = 0) ∧ c.boot.started = false ∧ c.boot.fromStep = 3 ∧ c.store = [] ∧ c.staged = [] ∧ c.flash = b.flash ∧ c.pins = b.pins ∧
    c.trust = b.trust ∧ c.lineA = {} ∧ c.lineB = {} ∧ c.now = b.now
  let storm := fun (b : Chip) => (if b.f ITM_RST_CAUSE_RST_MAX = 0 then 3 else b.f ITM_RST_CAUSE_RST_MAX) ≤
    (b.itm.resets.filter fun t => decide (b.now < t + 600 * secCcy)).length
  (∀ (r : FaultReport) (s : State), s.chip.isOn 49 = true → r.cls < 18 → s.chip.reaction r.cls = 2 → s.chip.flag ITM_SAFE_ACTIVE = false →
    Does (.faultDetected [r]) s fun c => safe r.cls s.chip c) ∧
  (∀ (r : FaultReport) (s : State), s.chip.isOn 49 = true → 1 ≤ r.cls → r.cls < 17 → s.chip.reaction r.cls = 3 → s.chip.itm.next < 256 →
    s.chip.itm.monitorLost = false → Does (.faultDetected [r]) s fun c =>
      (¬storm s.chip → restarted r.cls s.chip c) ∧
      (storm s.chip → s.chip.flag ITM_SAFE_ACTIVE = false → safe r.cls s.chip c ∧ c.flag ITM_RST_CAUSE_STORM = true)) ∧
  (∀ (r q : FaultReport) (s : State), s.chip.isOn 49 = true → r.cls < 17 → 1 ≤ q.cls → q.cls < 17 → s.chip.reaction r.cls = 2 → s.chip.reaction q.cls = 3 →
    s.chip.itm.monitorLost = false → ¬storm s.chip →
    Does (.faultDetected [r, q]) s fun c => c.f ITM_RST_CAUSE_CLASS = q.cls ∧ c.flag ITM_SAFE_ACTIVE = false ∧ c.boot.started = false) ∧
  (∀ (r : FaultReport) (s : State), s.chip.isOn 49 = true → r.cls < 18 → s.chip.reaction r.cls = 3 → (r.cls = 17 ∨ s.chip.itm.monitorLost = true) →
    Does (.faultDetected [r]) s fun c =>
      (r.cls = 17 → s.chip.flag ITM_SAFE_ACTIVE = false → safe 17 s.chip c) ∧ c.flag ITM_SAFE_ACTIVE = true ∧ c.itm.monitorLost = true ∧
      c.boot = s.chip.boot ∧ c.reg ITM_RST_CAUSE = s.chip.reg ITM_RST_CAUSE ∧ (∀ a, c.stored a = s.chip.stored a)) ∧
  (∀ (m : Master) (s : State), s.chip.admits m true [ITM_SAFE] →
    Does (.safeExit m) s fun c =>
      let stays := s.chip.itm.monitorLost = true ∨ (List.range 18).any (fun k => s.chip.reaction k == 2 && bitOf (s.chip.f ITM_FAULT_ACTIVE_CLASS) k) = true
      (if s.chip.flag ITM_SAFE_ACTIVE = false then c.reg ITM_SAFE = s.chip.reg ITM_SAFE ∧ c.itm = s.chip.itm
      else if stays then c.flag ITM_SAFE_ACTIVE = true ∧ c.flag ITM_SAFE_EXIT_REF = true ∧ c.itm = s.chip.itm
      else c.flag ITM_SAFE_ACTIVE = false ∧ c.itm = { s.chip.itm with faultLow := false }) ∧
      Chip.Only [ITM_SAFE, MGT_STATUS] [] [] [.itm] s.chip c) ∧
  (∀ (p e : Nat) (s : State), p < 2 → s.chip.deadline (.watchdog p) = some e →
    Does (.watchdogExpiry p) s fun c =>
      let base := s.chip.elapse (e - s.chip.now)
      (base.reaction 10 = 2 → base.flag ITM_SAFE_ACTIVE = false → safe 10 base c ∧ c.deadline (.watchdog p) = none ∧
        (Map.get {} c.itm.log base.itm.next).w2 = BitVec.ofNat 32 ((45 + p) * 2 ^ 26 + p)) ∧
      (base.reaction 10 = 3 → base.itm.monitorLost = false → ¬storm base → base.itm.next < 256 → restarted 10 base c)) ∧
  (∀ (m : Master) (pairs : BitVec 2) (s : State), s.chip.admits m true [ITM_WDOG_KICK] →
    Does (.watchdogKick m pairs) s fun c =>
      (∀ p < 2, c.deadline (.watchdog p) = if bitOf pairs.toNat p = true then some (s.chip.now + msCcy) else s.chip.deadline (.watchdog p)) ∧
      Chip.Only [MGT_STATUS] [] [.watchdog 0, .watchdog 1] [] s.chip c) ∧
  (∀ s : State,
    Does .monitorHeartbeatMiss s fun c =>
      (s.chip.flag ITM_SAFE_ACTIVE = false → safe 17 s.chip c) ∧ c.itm.monitorLost = true ∧ bitOf (c.f ITM_FAULT_ACTIVE_CLASS) 17 = true)

/-- R395, R397: a Porter's violation, and its clearing. -/
def Obligations.PorterViolations : Prop :=
  (∀ (x : Line) (kinds : BitVec 6) (s : State), kinds ≠ 0 → s.chip.reaction 14 < 2 →
    Does (.porterViolation x kinds) s fun c =>
      c.f (ITM_PTR_STATUS_KIND x) = s.chip.f (ITM_PTR_STATUS_KIND x) ||| kinds.toNat ∧
      c.f (ITM_PTR_STATUS_COUNT x) = min 15 (s.chip.f (ITM_PTR_STATUS_COUNT x) + 1) ∧ c.flag (ITM_PTR_STATUS_HELD x) = true ∧
      c.flag (LNx_TX_STATUS_BEN x) = false ∧ c.flag (LNx_TX_STATUS_IN_BURST x) = false ∧ (c.line x).windows = [] ∧ (c.line x).burstEnd = none ∧
      c.ctr (N_ITM_CLASS0 + 112) = s.chip.ctr (N_ITM_CLASS0 + 112) + 1 ∧ bitOf (c.f ITM_FAULT_STATUS_CLASS) 14 = true ∧
      c.flag (LPx_ACT_ALARM_STATE_ROGUE x) = true ∧
      (if s.chip.actState x = stSilenced then c.actState x = stSilenced ∧ c.reg (LPx_IDENT x) = s.chip.reg (LPx_IDENT x)
      else c.Anonymous x ∧ c.actState x = (if s.chip.inSync x = true ∧ s.chip.flag (LPx_ACT_STATUS_DISABLED x) = false then stListening else stDark)) ∧
      Chip.Within (fun a => (ITM_PTR_STATUS x :: LNx_TX_STATUS x :: LPx_ACT_ALARM_STATE x :: ITM_FAULT_STATUS :: identityRegs x).contains a)
        (fun a => ((N_ITM_CLASS0 + 112) :: N_ITM_LOG_LOST :: identityCtrs x).contains a) (fun k => (identityTimers x).contains k) (.itm :: identityPieces x) s.chip c) ∧
  (∀ (x : Line) (s : State), Does (.porterViolation x 0) s fun c => Chip.Only [] [] [] [] s.chip c) ∧
  (∀ (m : Master) (x : Line) (pinIdle checkOk : Bool) (s : State), s.chip.admits m true [ITM_PTR_CTRL x] →
    Does (.porterClear m x pinIdle checkOk) s fun c =>
      let kind := s.chip.f (ITM_PTR_STATUS_KIND x)
      let limit := if s.chip.f (ITM_PTR_CFG_MAX x) = 0 then 1 else s.chip.f (ITM_PTR_CFG_MAX x)
      let may := (pinIdle = true ∨ (bitOf kind 2 = false ∧ bitOf kind 3 = false)) ∧ (checkOk = true ∨ (bitOf kind 4 = false ∧ bitOf kind 5 = false)) ∧
        s.chip.f (ITM_PTR_STATUS_COUNT x) < limit
      (if may then c.flag (ITM_PTR_STATUS_HELD x) = false ∧ c.f (ITM_PTR_STATUS_KIND x) = 0 ∧ c.flag (LPx_ACT_ALARM_STATE_ROGUE x) = false
      else c.flag (ITM_PTR_STATUS_CLR_REF x) = true ∧ c.flag (ITM_PTR_STATUS_HELD x) = s.chip.flag (ITM_PTR_STATUS_HELD x) ∧
        c.f (ITM_PTR_STATUS_KIND x) = kind ∧ c.reg (LPx_ACT_ALARM_STATE x) = s.chip.reg (LPx_ACT_ALARM_STATE x)) ∧
      c.f (ITM_PTR_STATUS_COUNT x) = s.chip.f (ITM_PTR_STATUS_COUNT x) ∧
      (c.actState x = s.chip.actState x ∨ s.chip.actState x = stListening ∧ c.actState x = stAnnouncing ∧ may) ∧
      Chip.Only [ITM_PTR_STATUS x, LPx_ACT_ALARM_STATE x, LPx_ACT_STATUS x, MGT_STATUS] [] (stateTimers x) [.line x] s.chip c)

/-! ## Reset, start-up and pins -/

/-- R10, R343, R398, R416, R417, R419, R430, Table 13.10: what a power-on reset, and a brown-out of VDD_AON, leave; what the JTAG port and the
clock inputs do.
Where the rules leave a choice it follows the model's (assumption log entries 8 and 119). -/
def Obligations.ResetsAndPins : Prop :=
  (
  let reset := fun (s : State) (c : Chip) =>
    (∀ a, standingReg a = false → tallyPage a = false → c.reg a = resetWord a) ∧ (∀ a, tallyPage a = false → c.ctr a = 0) ∧
    (∀ k, standingWait k = false → c.deadline k = none) ∧ c.store = [] ∧ c.staged = [] ∧ c.tables = [] ∧ c.posted = [] ∧ c.nt = {} ∧
    c.lineA = {} ∧ c.lineB = {} ∧ c.twoEnded = {} ∧ c.cooper = {} ∧ c.sorter = {} ∧ c.tsi = {} ∧ c.ports = [] ∧ c.tribs = [] ∧ c.power = {} ∧
    c.itm = { copied := s.chip.itm.copied } ∧ c.keys = { imports := s.chip.keys.imports } ∧ c.boot = {} ∧
    c.flash = s.chip.flash ∧ c.trust = s.chip.trust ∧ c.sent = s.chip.sent ∧ c.pins = { s.chip.pins with tap := .idcode } ∧
    (s.chip.cfg.nextFw = none → c.cfg = { maps := s.chip.cfg.maps }) ∧
    (∀ fw, s.chip.cfg.nextFw = some fw → c.cfg = { maps := List.replicate 3 (fw, s.chip.cfg.slotMap.1.2) })
  (∀ s : State, Does .powerOnReset s (reset s)) ∧ (∀ s : State, Does .aonBrownout s (reset s))) ∧
  (∀ (i : JtagInstr) (s : State),
    Does (.jtagInstruction i) s fun c =>
      c.pins = { s.chip.pins with tap := i } ∧
      (if i = .bypass ∨ i = .idcode ∨ i = .sample then Chip.Only [] [] [] [.pins] s.chip c
      else (∀ x, c.flag (LNx_TX_STATUS_BEN x) = false ∧ c.flag (LNx_TX_STATUS_IN_BURST x) = false ∧ c.line x = { s.chip.line x with burstEnd := none }) ∧
        Chip.Only [LNx_TX_STATUS .a, LNx_TX_STATUS .b] [] [] [.pins, .line .a, .line .b] s.chip c)) ∧
  (∀ s : State, Does .tapReset s fun c => c.pins = { s.chip.pins with tap := .idcode } ∧ Chip.Only [] [] [] [.pins] s.chip c) ∧
  (∀ (i : ClockInput) (present : Bool) (s : State), s.chip.boot.ended = false →
    Does (.clockInputChange i present) s fun c => c.pins = s.chip.pins.setClock i present ∧ Chip.Only [] [] [] [.pins] s.chip c) ∧
  (∀ (i : ClockInput) (s : State), s.chip.boot.ended = true → i ≠ .pcie → s.chip.pins = { s.chip.pins with refclk := true, holdOsc := true } →
    s.chip.reaction 7 < 2 →
    Does (.clockInputChange i false) s fun c =>
      c.pins = s.chip.pins.setClock i false ∧ c.flag (if i = .refclk then CLK_STATUS_REFCLK_OK else CLK_STATUS_HOLD_OSC_OK) = false ∧
      c.flag (if i = .refclk then CLK_ALARM_REFCLK_LOSS else CLK_ALARM_HOLD_OSC_LOSS) = true ∧ bitOf (c.f ITM_FAULT_STATUS_CLASS) 7 = true ∧
      bitOf (c.f ITM_FAULT_ACTIVE_CLASS) 7 = true ∧ c.ctr (N_ITM_CLASS0 + 56) = s.chip.ctr (N_ITM_CLASS0 + 56) + 1 ∧
      Chip.Only [ITM_FAULT_STATUS, ITM_FAULT_ACTIVE] [N_ITM_CLASS0 + 56, N_ITM_LOG_LOST] [] [.pins, .itm] s.chip c) ∧
  (∀ (i : ClockInput) (s : State), s.chip.boot.ended = true → s.chip.pins.setClock i true ≠ s.chip.pins →
    Does (.clockInputChange i true) s fun c =>
      let all := (s.chip.pins.setClock i true).refclk = true ∧ (s.chip.pins.setClock i true).holdOsc = true
      c.pins = s.chip.pins.setClock i true ∧
      (∀ k < 18, bitOf (c.f ITM_FAULT_ACTIVE_CLASS) k =
        (bitOf (s.chip.f ITM_FAULT_ACTIVE_CLASS) k && !(k == 7 && decide (i ≠ .pcie ∧ all ∧ s.chip.f ITM_CMON_STATUS_FAIL = 0)))) ∧
      Chip.Only [ITM_FAULT_ACTIVE] [] [] [.pins] s.chip c) ∧
  (∀ s : State, s.chip.boot.ended = true → s.chip.pins.pcieRef = true → s.chip.isOn 41 = true → s.chip.flag HST_LINK_DL_UP = true →
    Does (.clockInputChange .pcie false) s fun c =>
      c.flag CLK_STATUS_PCIE_REFCLK_OK = false ∧ c.flag CLK_ALARM_PCIE_REFCLK_LOSS = true ∧ c.flag HST_LINK_DL_UP = false ∧
      c.flag HST_ALARM_LINK_DOWN = true ∧ c.ctr N_HST_LINK_DOWN = s.chip.ctr N_HST_LINK_DOWN + 1 ∧ c.itm = s.chip.itm ∧
      Chip.Within (onPages [34]) (onPages [34]) (fun _ => false) [.pins, .host] s.chip c)

/-- R320 to R322, R327, R330, R399, R419: what start-up leads to.
Where the rules leave a choice it follows the model's (assumption log entries 54, 105, 116, 117, 118 and 119). -/
def Obligations.StartUp : Prop :=
  let held := fun (c : Chip) => c.boot.recovery = true ∧ c.boot.started = false ∧ c.flag MGT_STATUS_RECOVERY = true ∧ c.itm.faultLow = true ∧
    c.flag CFG_BOOT_READY = false ∧ c.isOn (txDom .a) = false ∧ c.isOn (txDom .b) = false
  (∀ (r : BootReport) (s : State), (s.chip.boot.started = true ∨ s.chip.boot.recovery = true ∨ (s.chip.boot.fromStep < 3 ∧ (s.chip.pins.refclk = false ∨ s.chip.pins.holdOsc = false))) →
    DoesFuse (.startup r) s fun c o => o = s.otp ∧ Chip.Only [] [] [] [] s.chip c) ∧
  (∀ (r : BootReport) (s : State), s.chip.boot.started = false → s.chip.boot.recovery = false → s.chip.pins.refclk = true → s.chip.pins.holdOsc = true →
    s.chip.flag CFG_BOOT_READY = false → (∀ d < 50, s.chip.isOn d = decide (d = 0)) → s.chip.itm.faultLow = true → s.chip.f CFG_STATUS_SRC = 0 →
    s.chip.power = {} → s.chip.reaction 15 < 3 → s.chip.reaction 16 < 3 →
    DoesFuse (.startup r) s fun c o =>
      let map := if s.chip.trust.readable = true then s.chip.cfg.slotMap.1 else (false, false)
      let fw := fun (slot : Nat) => checkImage s.otp (fun i => s.chip.flashByte (fwBase ((b2n map.1 + slot) % 2) + i)) 0x400000 1
      s.otp.Grows o ∧ c.flash = s.chip.flash ∧ c.flag CLK_STATUS_REFCLK_OK = true ∧ c.flag CLK_STATUS_HOLD_OSC_OK = true ∧
      c.flag CLK_STATUS_PCIE_REFCLK_OK = s.chip.pins.pcieRef ∧
      (if r.otpError = true ∧ s.chip.boot.otpRead = false then held c ∧ c.flag CFG_OTP_STATUS_OTP_ERR = true ∧ o = s.otp
      else
        c.boot.otpRead = true ∧ c.isOn 45 = true ∧ c.isOn 46 = true ∧ c.isOn 49 = true ∧
        c.flag ITM_BIST_STATUS_LBIST = r.lbist ∧ c.flag ITM_BIST_STATUS_INJECT = r.inject ∧ c.flag ITM_BIST_STATUS_PORTER = r.porter ∧
        (r.lbist = true ∨ r.inject = true → held c ∧ o = s.otp) ∧
        (r.lbist = false → r.inject = false →
          (r.mbist = false → r.porter = false → c.flag ITM_BIST_STATUS_PASS = true) ∧
          c.f CFG_SLOTS_FW_MAP = b2n map.1 ∧ c.f CFG_BOOT_FW_A = (fw 0).reason % 128 ∧
          ((fw 0).reason ≠ 0 → c.f CFG_BOOT_FW_B = (fw 1).reason % 256) ∧
          ((fw 0).reason ≠ 0 → (fw 1).reason ≠ 0 → held c ∧ o = s.otp) ∧
          ((fw 0).reason = 0 ∨ (fw 1).reason = 0 →
            c.boot.started = true ∧ c.boot.recovery = false ∧ c.flag CFG_BOOT_READY = true ∧ c.itm.faultLow = c.flag ITM_SAFE_ACTIVE ∧
            c.f CFG_SLOTS_FW_SLOT = (if (fw 0).reason = 0 then 0 else 1) ∧ c.flag (MBX_STATUS_RUN 0) = true ∧ c.flag (MBX_STATUS_RUN 1) = true ∧
            (if c.f CFG_BOOT_CFG_A = 0 then c.f CFG_STATUS_SRC = 0 ∧ c.flag CFG_STATUS_DEFAULTS = false
            else if c.f CFG_BOOT_CFG_B = 0 then c.f CFG_STATUS_SRC = 1 ∧ c.f CFG_STATUS_REASON = c.f CFG_BOOT_CFG_A
            else c.flag CFG_STATUS_DEFAULTS = true ∧ c.f CFG_STATUS_SRC = 2 ∧ c.f CFG_STATUS_REASON = c.f CFG_BOOT_CFG_B ∧
              ∀ n < 32, c.flag (TDM_CTRL_FORCE_AIS n) = true)))))

/-! ## The terminal as a whole -/

/-- A step runs the command at the front of the queue with the queue's rest. -/
def Obligations.StepRunsTheFrontCommand : Prop :=
  ∀ (i : Instr) (q : List Instr) (s : State), step { s with pending := i :: q } = exec i { s with pending := q }

/-- R332: every command completes in every state, for all operands, and leaves the queue as it was; and none but the deliveries, a save's
signature and start-up moves a rollback floor. -/
def Obligations.EveryCommandCompletes : Prop :=
  let judges : Instr → Bool := fun
    | .startup _ | .configImageDelivered _ _ | .firmwareDelivered _ _ | .saveSignature _ _ => true
    | _ => false
  ∀ (i : Instr) (s : State), ∃ t, exec i s = .next t ∧ t.pending = s.pending ∧
    (judges i = false → t.otp.fwFloor = s.otp.fwFloor ∧ t.otp.cfgFloor = s.otp.cfgFloor)

/-- R331, R332: at every step floors do not fall, roots once bound stay, what manufacture wrote stays, and the fuses stay legal. -/
def Obligations.FusesOnlyGrow : Prop :=
  ∀ s t : State, s.otp.Legal → step s = .next t → t.otp.Legal ∧ s.otp.Grows t.otp

/-- The fuses are legal at reset.
Where the rules leave a choice it follows the model's (assumption log entry 2). -/
def Obligations.ResetFusesLegal : Prop := State.reset.otp.Legal

/-- R332: a floor rises only to the ROLLBACK of the image in use, when that image has SET_FLOOR, passes its checks, and the image of the
other slot passes them too with that ROLLBACK or a later one.
Where the rules leave a choice it follows the model's (assumption log entry 106). -/
def Obligations.FloorsRiseOnlyUnderBothImages : Prop :=
  let raised := fun (c : Chip) (base other v : Nat) => bitOf (c.flashByte (base + 7)).toNat 0 = true ∧ v = (c.flashByte (base + 16)).toNat ∧
    v ≤ (c.flashByte (other + 16)).toNat ∧ v ≤ 63
  ∀ (i : Instr) (s t : State), exec i s = .next t →
    (t.otp.fwFloor ≠ s.otp.fwFloor → ∃ r, t.chip.boot.fwRegion = some r ∧ raised t.chip (fwBase r) (fwBase (1 - r)) t.otp.fwFloor ∧
      (t.chip.fwImage s.otp r).reason = 0 ∧ (t.chip.fwImage s.otp (1 - r)).reason = 0) ∧
    (t.otp.cfgFloor ≠ s.otp.cfgFloor → ∃ r, t.chip.boot.cfgRegion = some r ∧ raised t.chip (cfgBase r) (cfgBase (1 - r)) t.otp.cfgFloor ∧
      (t.chip.cfgImage s.otp r).reason = 0 ∧ (t.chip.cfgImage s.otp (1 - r)).reason = 0) ∧
    (t.otp.fwFloor ≠ s.otp.fwFloor ∨ t.otp.cfgFloor ≠ s.otp.cfgFloor → s.otp.bound = t.otp.bound)

/-- R318, R319, R340: the commands that write the flash keep its canonical form: addresses strictly rising, no erased byte listed.
Where the rules leave a choice it follows the model's (assumption log entry 50). -/
def Obligations.FlashKeepsItsForm : Prop :=
  let ok := fun (c : Chip) => Map.wf (fun _ => (0xFF : Byte)) c.flash = true
  ∀ (src : Option Line) (fails : Bool) (s : State), ok s.chip →
    Does (.nvmCmdDone fails) s ok ∧ DoesFuse (.configImageDelivered src fails) s (fun c _ => ok c) ∧
    DoesFuse (.firmwareDelivered src fails) s (fun c _ => ok c) ∧ DoesFuse (.saveSignature src fails) s fun c _ => ok c

/-- R10, R90, R93, R318, R321, R333, R370, R414: what reset leaves.
Where the rules leave a choice it follows the model's (assumption log entries 2, 4 and 9). -/
def Obligations.ResetValues : Prop :=
  let c := State.reset.chip
  (∀ a, c.reg a = resetWord a) ∧ (∀ a, c.ctr a = 0) ∧ (∀ k, c.deadline k = none) ∧ State.reset.pending = [] ∧
  c.isOn 0 = true ∧ (∀ d < 50, d ≠ 0 → c.isOn d = false) ∧ c.flag CFG_BOOT_READY = false ∧ c.itm.faultLow = true ∧ c.boot.started = false ∧
  (∀ x, c.actState x = stDark ∧ c.f (LPx_IDENT_TID x) = 0x3FF ∧ c.f (LPx_IDENT_EQD x) = 0 ∧ c.flag (LPx_ACT_STATUS_KEYED x) = false) ∧
  c.cfg.pending = [] ∧ c.staged = [] ∧ c.store = [] ∧ c.itm.log = [] ∧ c.ntValid = false ∧
  c.reg TOP_CHIP_ID = 0x09640B01 ∧ c.reg (ITM_REACT 0) = 0x957AAF44 ∧ c.f CFG_BOOT_CFG_A = 0xFF

/-! ## Rules stated whole -/

/-- R6: how NT advances, wraps and is ordered. -/
def Obligations.NetTimeAdvances : Prop :=
  (∀ t : NetTime, t.cif < 187500 → t.fn < 2 ^ 48 →
    t.add 1 = if t.cif = 187499 then ⟨(t.fn + 1) % 2 ^ 48, 0⟩ else ⟨t.fn, t.cif + 1⟩) ∧
  (∀ (t : NetTime) (n : Nat), t.cif < 187500 → t.fn < 2 ^ 48 → t.add 0 = t ∧ t.add (n + 1) = (t.add n).add 1) ∧
  (∀ (c : Chip) (n : Nat), c.nt.cif < 187500 → c.nt.fn < 2 ^ 48 → (c.elapse n).nt = c.nt.add n ∧ (c.elapse n).now = c.now + n) ∧
  (∀ a b : NetTime, a.before b = true ↔ a.fn < b.fn ∨ (a.fn = b.fn ∧ a.cif < b.cif)) ∧
  1100 * 365 * 86400 * 8000 < 2 ^ 48

/-- R142: a carriage frame of an open flow with an errored payload or tag byte is discarded undecrypted and counted in CAR_ERRD_x alone. -/
def Obligations.ErroredCarriageFrames : Prop :=
  ∀ (x : Line) (hdr hb : List Byte) (fixed : Bool) (body : List Byte) (pos : Nat) (s : State),
    let h := parseHeader hb
    (s.chip.line x).area = some pos → s.chip.isOn 8 = true → correctHeader (s.chip.flag CAR_CFG_HEC_CORR) hdr = some (hb, fixed) →
    pos + 10 + h.len + 16 ≤ packetAreaEnd → (h.express = true → h.first = true ∧ h.last = true) → (h.first = true → h.fidx = 0) → h.len ≠ 0 →
    h.flow ≠ 0xFFF → natBits (s.chip.tab 0 h.flow) (31 - x.idx) 1 = 1 →
    Does (.carriageFrame x hdr false body true) s fun c =>
      c.ctr (N_CAR_ERRD x) = s.chip.ctr (N_CAR_ERRD x) + 1 ∧ c.ctr (N_CAR_TAG_FAIL x) = s.chip.ctr (N_CAR_TAG_FAIL x) ∧
      c.ctr (N_CAR_FRAMES x) = s.chip.ctr (N_CAR_FRAMES x) ∧ c.ctr (N_CAR_KEY_MISS x) = s.chip.ctr (N_CAR_KEY_MISS x) ∧
      c.twoEnded = s.chip.twoEnded ∧ (c.line x).contexts = (s.chip.line x).contexts ∧ (c.line x).bulkRx = (s.chip.line x).bulkRx ∧
      c.cooper = s.chip.cooper ∧ Chip.InPages [13] [] [.line x] s.chip c

/-- R349: what a write to a shadow and a read of one need, and how a user's write to one is recorded. -/
def Obligations.ShadowPrivilege : Prop :=
  (∀ (m : Master) (a : Nat) (t : Target) (s : State), target a = some t → t.row.cls = .c →
    let r := s.chip.rankAt m t
    let gate := tallyPage t.reg && decide (r < 2) && !s.chip.flag TAL_CFG_TAL_USER_EN
    s.chip.violates m t true = decide (r < if t.row.mark = .s then 3 else 2) ∧
    s.chip.violates m t false = (decide (r < t.row.mark.code + 1) || gate)) ∧
  (∀ (m : Master) (a : Nat) (v : Word) (t : Target) (s : State), s.chip.reaches m = true → (m = .mgt → s.chip.boot.recovery = false) →
    target a = some t → t.row.cls = .c → s.chip.rankAt m t = 1 →
    ∀ i ∈ [Instr.registerWrite m a v, .shadowWrite m a v], Does i s fun c =>
      wordBits (c.reg TOP_ACC_VIOL_ADDR) 24 1 = 1 ∧ wordBits (c.reg TOP_ACC_VIOL_ADDR) 0 24 = t.full % 2 ^ 24 ∧
      wordBits (c.reg TOP_ACC_VIOL_ADDR) 28 1 = 1 ∧ c.flag TOP_ACC_STATUS_ACC_VIOL = true ∧
      c.shadow t.reg = s.chip.shadow t.reg ∧ c.staged = s.chip.staged)

/-- R389, R394: faults of one ccy, and faults detected during a reaction; the safe state that class 17 leads to is left by no reset
reaction (R394, log entry 16). -/
def Obligations.FaultsOfOneCcy : Prop :=
  let entry := fun (c : Chip) (seq : Nat) (r : FaultReport) => (⟨BitVec.ofNat 32 c.nt.fn, BitVec.ofNat 32 (c.nt.cif * 2 ^ 14 + r.cls * 2 ^ 4 + c.reaction r.cls),
    BitVec.ofNat 32 (r.dom % 64 * 2 ^ 26 + r.loc % 2 ^ 26), BitVec.ofNat 32 (seq % 65536 * 65536 + r.detail % 65536)⟩ : LogEntry)
  let storm := fun (b : Chip) => (if b.f ITM_RST_CAUSE_RST_MAX = 0 then 3 else b.f ITM_RST_CAUSE_RST_MAX) ≤
    (b.itm.resets.filter fun t => decide (b.now < t + 600 * secCcy)).length
  let logged := fun (rs : List FaultReport) (b c : Chip) => c.itm.next = (b.itm.next + rs.length) % 256 ∧
    ∀ k < rs.length, ∀ r ∈ ((List.range 18).flatMap fun j => rs.filter fun r => r.cls == j)[k]?,
      Map.get {} c.itm.log ((b.itm.next + k) % 256) = entry b (b.itm.seq + k) r
  ∀ (rs : List FaultReport) (s : State), s.chip.isOn 49 = true → rs.length ≤ 256 → s.chip.itm.next < 256 → (∀ r ∈ rs, 1 ≤ r.cls ∧ r.cls < 18) →
    Does (.faultDetected rs) s fun c =>
      logged rs s.chip c ∧ (∀ r ∈ rs, s.chip.reaction r.cls < 3 → c.boot.started = true → bitOf (c.f ITM_FAULT_STATUS_CLASS) r.cls = true) ∧
      ((∀ r ∈ rs, s.chip.reaction r.cls < 2) → c.reg ITM_SAFE = s.chip.reg ITM_SAFE ∧ c.boot = s.chip.boot) ∧
      (∀ r ∈ rs, s.chip.reaction r.cls = 2 → (∀ q ∈ rs, s.chip.reaction q.cls < 3 ∧ (s.chip.reaction q.cls = 2 → r.cls ≤ q.cls)) →
        c.flag ITM_SAFE_ACTIVE = true ∧ c.f ITM_SAFE_CLASS = (if s.chip.flag ITM_SAFE_ACTIVE = true then s.chip.f ITM_SAFE_CLASS else r.cls) ∧
        c.boot = s.chip.boot) ∧
      (∀ r ∈ rs, s.chip.reaction r.cls = 3 → (∀ q ∈ rs, s.chip.reaction q.cls = 3 → r.cls ≤ q.cls) → ¬storm s.chip →
        (∀ q ∈ rs, q.cls ≠ 17) → s.chip.itm.monitorLost = false →
        c.flag ITM_SAFE_ACTIVE = false ∧ c.f ITM_RST_CAUSE_CLASS = r.cls ∧ c.flag ITM_RST_CAUSE_VALID = true ∧ c.boot.started = false)
end

