-- ==== Sys2Proof/Laws/Bits.lean ====
section
/-! SUPPORT. The laws of the bit-field helpers: a field written reads back, and the other fields stay. -/

namespace Sys2Proof.Machine
open Sys2Proof

theorem natBits_eq (v lo n : Nat) : natBits v lo n = v / 2 ^ lo % 2 ^ n := by
  simp [natBits, Nat.shiftRight_eq_div_pow]

theorem natBits_lt (v lo n : Nat) : natBits v lo n < 2 ^ n := by
  rw [natBits_eq]; exact Nat.mod_lt _ (Nat.two_pow_pos n)

/-- A number as what lies above a field, the field, and what lies below it. -/
theorem natBits_split (v lo n : Nat) : v = v / 2 ^ (lo + n) * 2 ^ (lo + n) + natBits v lo n * 2 ^ lo + v % 2 ^ lo := by
  rw [natBits_eq, Nat.pow_add]
  have h1 := Nat.div_add_mod v (2 ^ lo)
  have h2 := Nat.div_add_mod (v / 2 ^ lo) (2 ^ n)
  rw [Nat.div_div_eq_div_mul] at h2
  calc v = 2 ^ lo * (v / 2 ^ lo) + v % 2 ^ lo := h1.symm
    _ = 2 ^ lo * (2 ^ n * (v / (2 ^ lo * 2 ^ n)) + v / 2 ^ lo % 2 ^ n) + v % 2 ^ lo := by rw [h2]
    _ = _ := by
      rw [Nat.mul_add, Nat.mul_comm (v / (2 ^ lo * 2 ^ n)), Nat.mul_comm (v / 2 ^ lo % 2 ^ n), Nat.mul_assoc]

theorem natPut_eq (v lo n x : Nat) :
    natPut v lo n x = v / 2 ^ (lo + n) * 2 ^ (lo + n) + x % 2 ^ n * 2 ^ lo + v % 2 ^ lo := by
  unfold natPut
  rw [Nat.shiftLeft_eq, Nat.shiftLeft_eq]
  have h := natBits_split v lo n
  generalize hA : v / 2 ^ (lo + n) * 2 ^ (lo + n) = A at h ⊢
  generalize hB : natBits v lo n * 2 ^ lo = B at h ⊢
  generalize hC : v % 2 ^ lo = C at h ⊢
  omega

/-- A number below `2 ^ (lo + n)` put together from a field of `n` bits and what lies below it. -/
theorem field_lt {x r lo n : Nat} (hx : x < 2 ^ n) (hr : r < 2 ^ lo) : x * 2 ^ lo + r < 2 ^ (lo + n) := by
  have h : (x + 1) * 2 ^ lo ≤ 2 ^ n * 2 ^ lo := Nat.mul_le_mul_right _ hx
  rw [Nat.add_mul, Nat.one_mul] at h
  rw [Nat.pow_add, Nat.mul_comm (2 ^ lo)]
  omega

theorem natPut_div_hi (v lo n x : Nat) : natPut v lo n x / 2 ^ (lo + n) = v / 2 ^ (lo + n) := by
  rw [natPut_eq, Nat.add_assoc, Nat.mul_comm, Nat.mul_add_div (Nat.two_pow_pos _)]
  rw [Nat.div_eq_of_lt (field_lt (Nat.mod_lt _ (Nat.two_pow_pos n)) (Nat.mod_lt _ (Nat.two_pow_pos lo))), Nat.add_zero]

theorem natPut_mod_lo (v lo n x : Nat) : natPut v lo n x % 2 ^ lo = v % 2 ^ lo := by
  rw [natPut_eq, Nat.pow_add, Nat.mul_comm (2 ^ lo) (2 ^ n), ← Nat.mul_assoc, ← Nat.add_mul, Nat.mul_comm _ (2 ^ lo), Nat.mul_add_mod]
  exact Nat.mod_mod _ _

/-- A field written reads as the value, cut to the field's width. -/
@[simp] theorem natBits_natPut_same (v lo n x : Nat) : natBits (natPut v lo n x) lo n = x % 2 ^ n := by
  have h : natPut v lo n x = (v / 2 ^ (lo + n) * 2 ^ n + x % 2 ^ n) * 2 ^ lo + v % 2 ^ lo := by
    rw [natPut_eq, Nat.pow_add, Nat.add_mul, Nat.mul_assoc, Nat.mul_comm (2 ^ n) (2 ^ lo)]
  rw [natBits_eq, h, Nat.mul_comm _ (2 ^ lo), Nat.mul_add_div (Nat.two_pow_pos lo), Nat.div_eq_of_lt (Nat.mod_lt _ (Nat.two_pow_pos lo)), Nat.add_zero,
    Nat.mul_comm, Nat.mul_add_mod, Nat.mod_mod]

theorem testBit_natPut_outside {v lo n x i : Nat} (h : i < lo ∨ lo + n ≤ i) : (natPut v lo n x).testBit i = v.testBit i := by
  rcases h with h | h
  · have a := congrArg (fun z => z.testBit i) (natPut_mod_lo v lo n x)
    simpa [Nat.testBit_mod_two_pow, h] using a
  · obtain ⟨k, rfl⟩ := Nat.exists_eq_add_of_le h
    have a := congrArg (fun z => z.testBit k) (natPut_div_hi v lo n x)
    simpa [Nat.testBit_div_two_pow, Nat.add_comm] using a

theorem testBit_natBits (v lo n i : Nat) : (natBits v lo n).testBit i = (decide (i < n) && v.testBit (lo + i)) := by
  rw [natBits_eq, Nat.testBit_mod_two_pow, Nat.testBit_div_two_pow, Nat.add_comm]

/-- A write of one field leaves every field that it does not meet. -/
theorem natBits_natPut_apart {v lo n x lo' n' : Nat} (h : lo' + n' ≤ lo ∨ lo + n ≤ lo') :
    natBits (natPut v lo n x) lo' n' = natBits v lo' n' := by
  apply Nat.eq_of_testBit_eq
  intro i
  rw [testBit_natBits, testBit_natBits]
  by_cases hi : i < n'
  · rw [testBit_natPut_outside (by omega)]
  · simp [hi]

theorem natPut_lt {v lo n x w : Nat} (hv : v < 2 ^ w) (h : lo + n ≤ w) : natPut v lo n x < 2 ^ w := by
  apply Nat.lt_pow_two_of_testBit
  intro i hi
  rw [testBit_natPut_outside (.inr (by omega))]
  exact Nat.testBit_lt_two_pow (Nat.lt_of_lt_of_le hv (Nat.pow_le_pow_right (by decide) hi))

theorem wordPut_toNat (w : Word) {lo n : Nat} (x : Nat) (h : lo + n ≤ 32) : (wordPut w lo n x).toNat = natPut w.toNat lo n x := by
  simp only [wordPut, BitVec.toNat_ofNat]
  exact Nat.mod_eq_of_lt (natPut_lt w.isLt h)

theorem wordBits_wordPut_same (w : Word) {lo n : Nat} (x : Nat) (h : lo + n ≤ 32) : wordBits (wordPut w lo n x) lo n = x % 2 ^ n := by
  rw [wordBits, wordPut_toNat w x h, natBits_natPut_same]

theorem wordBits_wordPut_apart (w : Word) {lo n lo' n' : Nat} (x : Nat) (hf : lo + n ≤ 32) (h : lo' + n' ≤ lo ∨ lo + n ≤ lo') :
    wordBits (wordPut w lo n x) lo' n' = wordBits w lo' n' := by
  rw [wordBits, wordPut_toNat w x hf, natBits_natPut_apart h, wordBits]

theorem wordBits_lt (w : Word) (lo n : Nat) : wordBits w lo n < 2 ^ n := natBits_lt _ _ _

@[simp] theorem b2n_true : b2n true = 1 := rfl
@[simp] theorem b2n_false : b2n false = 0 := rfl

end Sys2Proof.Machine
end

