-- ==== Sys2Proof/Laws/Maps.lean ====
section
/-! SUPPORT. The laws of the sparse tables: a read after a write, and the canonical form that every write keeps. -/

namespace Sys2Proof.Machine

variable {α : Type}

@[simp] theorem Map.get_nil (d : α) (k : Nat) : Map.get d [] k = d := rfl

theorem Map.get_insert_same (d : α) (m : Map α) (k : Nat) (v : α) : Map.get d (Map.insert m k v) k = v := by
  induction m with
  | nil => simp [Map.insert, Map.get]
  | cons e r ih =>
    obtain ⟨j, u⟩ := e
    simp only [Map.insert]
    split
    · simp [Map.get]
    · rename_i hne
      split
      · simp [Map.get]
      · simp [Map.get, hne, ih]

theorem Map.get_insert_other (d : α) (m : Map α) {k i : Nat} (v : α) (h : i ≠ k) :
    Map.get d (Map.insert m k v) i = Map.get d m i := by
  induction m with
  | nil => simp [Map.insert, Map.get, Ne.symm h]
  | cons e r ih =>
    obtain ⟨j, u⟩ := e
    simp only [Map.insert]
    split
    · rename_i hj
      simp [Map.get, Ne.symm h, hj]
    · split
      · simp [Map.get, Ne.symm h]
      · simp only [Map.get, ih]

theorem Map.get_erase_same (d : α) (m : Map α) (k : Nat) : Map.get d (Map.erase m k) k = d := by
  induction m with
  | nil => rfl
  | cons e r ih =>
    obtain ⟨j, u⟩ := e
    simp only [Map.erase]
    split
    · exact ih
    · rename_i hne
      simp [Map.get, hne, ih]

theorem Map.get_erase_other (d : α) (m : Map α) {k i : Nat} (h : i ≠ k) : Map.get d (Map.erase m k) i = Map.get d m i := by
  induction m with
  | nil => rfl
  | cons e r ih =>
    obtain ⟨j, u⟩ := e
    simp only [Map.erase]
    split
    · rename_i hj
      rw [ih]
      simp [Map.get, hj, Ne.symm h]
    · simp only [Map.get, ih]

/-- A read of the entry written gives the value written. -/
@[simp] theorem Map.get_set_same [DecidableEq α] (d : α) (m : Map α) (k : Nat) (v : α) : Map.get d (Map.set d m k v) k = v := by
  unfold Map.set
  split
  · rename_i hv
    rw [Map.get_erase_same, hv]
  · exact Map.get_insert_same d m k v

/-- A write leaves every other entry alone. -/
theorem Map.get_set_other [DecidableEq α] (d d' : α) (m : Map α) {k i : Nat} (v : α) (h : i ≠ k) :
    Map.get d (Map.set d' m k v) i = Map.get d m i := by
  unfold Map.set
  split
  · exact Map.get_erase_other d m h
  · exact Map.get_insert_other d m v h

/-! ## The canonical form -/

theorem Map.rising_mono {b b' : Nat} (hb : b' ≤ b) {m : Map α} (h : Map.rising b m = true) : Map.rising b' m = true := by
  cases m with
  | nil => rfl
  | cons e r =>
    obtain ⟨j, u⟩ := e
    simp only [Map.rising, Bool.and_eq_true, decide_eq_true_eq] at h ⊢
    exact ⟨by omega, h.2⟩

theorem Map.rising_insert {b k : Nat} (hk : b ≤ k) {m : Map α} (v : α) (h : Map.rising b m = true) :
    Map.rising b (Map.insert m k v) = true := by
  induction m generalizing b with
  | nil => simp [Map.insert, Map.rising, hk]
  | cons e r ih =>
    obtain ⟨j, u⟩ := e
    simp only [Map.rising, Bool.and_eq_true, decide_eq_true_eq] at h
    simp only [Map.insert]
    split
    · rename_i hj
      subst hj
      simp [Map.rising, hk, h.2]
    · split
      · rename_i hlt
        simp only [Map.rising, Bool.and_eq_true, decide_eq_true_eq]
        exact ⟨hk, by omega, h.2⟩
      · simp only [Map.rising, Bool.and_eq_true, decide_eq_true_eq]
        exact ⟨h.1, ih (by omega) h.2⟩

theorem Map.rising_erase {b k : Nat} {m : Map α} (h : Map.rising b m = true) : Map.rising b (Map.erase m k) = true := by
  induction m generalizing b with
  | nil => rfl
  | cons e r ih =>
    obtain ⟨j, u⟩ := e
    simp only [Map.rising, Bool.and_eq_true, decide_eq_true_eq] at h
    simp only [Map.erase]
    split
    · exact Map.rising_mono (by omega) (ih h.2)
    · simp only [Map.rising, Bool.and_eq_true, decide_eq_true_eq]
      exact ⟨h.1, ih h.2⟩

theorem Map.mem_insert {m : Map α} {k : Nat} {v : α} {e : Nat × α} (h : e ∈ Map.insert m k v) : e = (k, v) ∨ e ∈ m := by
  induction m with
  | nil => simpa [Map.insert] using h
  | cons a r ih =>
    obtain ⟨j, u⟩ := a
    simp only [Map.insert] at h
    split at h
    · rcases List.mem_cons.1 h with h | h
      · exact .inl h
      · exact .inr (List.mem_cons_of_mem _ h)
    · split at h
      · rcases List.mem_cons.1 h with h | h
        · exact .inl h
        · exact .inr h
      · rcases List.mem_cons.1 h with h | h
        · exact .inr (h ▸ List.mem_cons_self)
        · rcases ih h with h | h
          · exact .inl h
          · exact .inr (List.mem_cons_of_mem _ h)

theorem Map.mem_erase {m : Map α} {k : Nat} {e : Nat × α} (h : e ∈ Map.erase m k) : e ∈ m := by
  induction m with
  | nil => simp [Map.erase] at h
  | cons a r ih =>
    obtain ⟨j, u⟩ := a
    simp only [Map.erase] at h
    split at h
    · exact List.mem_cons_of_mem _ (ih h)
    · rcases List.mem_cons.1 h with h | h
      · exact h ▸ List.mem_cons_self
      · exact List.mem_cons_of_mem _ (ih h)

/-- A write keeps the canonical form, for any defaults. -/
theorem Map.set_wf [DecidableEq α] (d : Nat → α) {m : Map α} (k : Nat) (v : α) (h : Map.wf d m = true) :
    Map.wf d (Map.set (d k) m k v) = true := by
  simp only [Map.wf, Bool.and_eq_true, List.all_eq_true, decide_eq_true_eq] at h ⊢
  unfold Map.set
  split
  · exact ⟨Map.rising_erase h.1, fun e he => h.2 e (Map.mem_erase he)⟩
  · rename_i hv
    refine ⟨Map.rising_insert (Nat.zero_le k) v h.1, fun e he => ?_⟩
    rcases Map.mem_insert he with rfl | he
    · exact hv
    · exact h.2 e he

theorem Map.rising_filter (p : Nat × α → Bool) {b : Nat} {m : Map α} (h : Map.rising b m = true) : Map.rising b (m.filter p) = true := by
  induction m generalizing b with
  | nil => rfl
  | cons e r ih =>
    simp only [Map.rising, Bool.and_eq_true, decide_eq_true_eq] at h
    rw [List.filter_cons]
    split
    · simp only [Map.rising, Bool.and_eq_true, decide_eq_true_eq]
      exact ⟨h.1, ih h.2⟩
    · exact Map.rising_mono (by omega) (ih h.2)

/-- Dropping entries keeps the canonical form. -/
theorem Map.filter_wf [DecidableEq α] (d : Nat → α) (p : Nat × α → Bool) {m : Map α} (h : Map.wf d m = true) :
    Map.wf d (m.filter p) = true := by
  simp only [Map.wf, Bool.and_eq_true, List.all_eq_true] at h ⊢
  exact ⟨Map.rising_filter p h.1, fun e he => h.2 e (List.mem_filter.1 he).1⟩

/-- Writes at many keys keep the canonical form. -/
theorem Map.foldl_set_wf [DecidableEq α] (d : α) (key : Map α → Nat → Nat) (val : Map α → Nat → α) (l : List Nat) {m : Map α}
    (h : Map.wf (fun _ => d) m = true) : Map.wf (fun _ => d) (l.foldl (fun m i => Map.set d m (key m i) (val m i)) m) = true := by
  induction l generalizing m with
  | nil => exact h
  | cons i r ih => exact ih (Map.set_wf (fun _ => d) (key m i) (val m i) h)

end Sys2Proof.Machine
end

