-- ==== Sys2Proof/Laws/Flash.lean ====
section
/-! SUPPORT. The flash: every operation that writes it keeps its canonical form. -/

namespace Sys2Proof.Machine
open Sys2Proof

/-- The flash at reset lists nothing. -/
theorem reset_flash_wf : Map.wf (fun _ => (0xFF : Byte)) State.reset.chip.flash = true := rfl

/-- An image or an object written into a region. -/
theorem Chip.flashWrite_wf {c : Chip} (base size : Nat) (b : Nat → Byte) (n : Nat) (h : Map.wf (fun _ => (0xFF : Byte)) c.flash = true) :
    Map.wf (fun _ => (0xFF : Byte)) (c.flashWrite base size b n).flash = true :=
  Map.foldl_set_wf 0xFF (fun _ i => base + i) (fun _ i => b i) (List.range n) (Map.filter_wf _ _ h)

/-- A word programmed, which clears bits. -/
theorem flash_program_wf {m : Map Byte} (a : Nat) (w : List Byte) (h : Map.wf (fun _ => (0xFF : Byte)) m = true) :
    Map.wf (fun _ => (0xFF : Byte))
      ((List.range 4).foldl (fun m i => Map.set 0xFF m (a + i) (Map.get 0xFF m (a + i) &&& w.getD i 0)) m) = true :=
  Map.foldl_set_wf 0xFF (fun _ i => a + i) (fun m i => Map.get 0xFF m (a + i) &&& w.getD i 0) (List.range 4) h

/-- A sector erased. -/
theorem flash_erase_wf {m : Map Byte} (a : Nat) (h : Map.wf (fun _ => (0xFF : Byte)) m = true) :
    Map.wf (fun _ => (0xFF : Byte)) (m.filter fun e => e.1 / 65536 != a / 65536) = true := Map.filter_wf _ _ h

end Sys2Proof.Machine
end

