-- ==== Sys2Proof/Laws/State.lean ====
section
/-! SUPPORT. One lemma per field per update of the terminal's state: what an update leaves as it was. -/

namespace Sys2Proof.Machine
open Sys2Proof

/-! ## setReg -/

@[simp] theorem Chip.now_setReg (c : Chip) (a : Nat) (w : Word) : (c.setReg a w).now = c.now := rfl
@[simp] theorem Chip.nt_setReg (c : Chip) (a : Nat) (w : Word) : (c.setReg a w).nt = c.nt := rfl
@[simp] theorem Chip.store_setReg (c : Chip) (a : Nat) (w : Word) : (c.setReg a w).store = c.store := rfl
@[simp] theorem Chip.staged_setReg (c : Chip) (a : Nat) (w : Word) : (c.setReg a w).staged = c.staged := rfl
@[simp] theorem Chip.tables_setReg (c : Chip) (a : Nat) (w : Word) : (c.setReg a w).tables = c.tables := rfl
@[simp] theorem Chip.tableStore_setReg (c : Chip) (a : Nat) (w : Word) : (c.setReg a w).tableStore = c.tableStore := rfl
@[simp] theorem Chip.tableStaged_setReg (c : Chip) (a : Nat) (w : Word) : (c.setReg a w).tableStaged = c.tableStaged := rfl
@[simp] theorem Chip.everCommitted_setReg (c : Chip) (a : Nat) (w : Word) : (c.setReg a w).everCommitted = c.everCommitted := rfl
@[simp] theorem Chip.counters_setReg (c : Chip) (a : Nat) (w : Word) : (c.setReg a w).counters = c.counters := rfl
@[simp] theorem Chip.copies_setReg (c : Chip) (a : Nat) (w : Word) : (c.setReg a w).copies = c.copies := rfl
@[simp] theorem Chip.latch_setReg (c : Chip) (a : Nat) (w : Word) : (c.setReg a w).latch = c.latch := rfl
@[simp] theorem Chip.hold_setReg (c : Chip) (a : Nat) (w : Word) : (c.setReg a w).hold = c.hold := rfl
@[simp] theorem Chip.posted_setReg (c : Chip) (a : Nat) (w : Word) : (c.setReg a w).posted = c.posted := rfl
@[simp] theorem Chip.timers_setReg (c : Chip) (a : Nat) (w : Word) : (c.setReg a w).timers = c.timers := rfl
@[simp] theorem Chip.lastFrame_setReg (c : Chip) (a : Nat) (w : Word) : (c.setReg a w).lastFrame = c.lastFrame := rfl
@[simp] theorem Chip.freeCtr_setReg (c : Chip) (a : Nat) (w : Word) : (c.setReg a w).freeCtr = c.freeCtr := rfl
@[simp] theorem Chip.emitted_setReg (c : Chip) (a : Nat) (w : Word) : (c.setReg a w).emitted = c.emitted := rfl
@[simp] theorem Chip.power_setReg (c : Chip) (a : Nat) (w : Word) : (c.setReg a w).power = c.power := rfl
@[simp] theorem Chip.itm_setReg (c : Chip) (a : Nat) (w : Word) : (c.setReg a w).itm = c.itm := rfl
@[simp] theorem Chip.pins_setReg (c : Chip) (a : Nat) (w : Word) : (c.setReg a w).pins = c.pins := rfl
@[simp] theorem Chip.tal_setReg (c : Chip) (a : Nat) (w : Word) : (c.setReg a w).tal = c.tal := rfl
@[simp] theorem Chip.lineA_setReg (c : Chip) (a : Nat) (w : Word) : (c.setReg a w).lineA = c.lineA := rfl
@[simp] theorem Chip.lineB_setReg (c : Chip) (a : Nat) (w : Word) : (c.setReg a w).lineB = c.lineB := rfl
@[simp] theorem Chip.trust_setReg (c : Chip) (a : Nat) (w : Word) : (c.setReg a w).trust = c.trust := rfl
@[simp] theorem Chip.twoEnded_setReg (c : Chip) (a : Nat) (w : Word) : (c.setReg a w).twoEnded = c.twoEnded := rfl
@[simp] theorem Chip.sorter_setReg (c : Chip) (a : Nat) (w : Word) : (c.setReg a w).sorter = c.sorter := rfl
@[simp] theorem Chip.cooper_setReg (c : Chip) (a : Nat) (w : Word) : (c.setReg a w).cooper = c.cooper := rfl
@[simp] theorem Chip.meters_setReg (c : Chip) (a : Nat) (w : Word) : (c.setReg a w).meters = c.meters := rfl
@[simp] theorem Chip.drover_setReg (c : Chip) (a : Nat) (w : Word) : (c.setReg a w).drover = c.drover := rfl
@[simp] theorem Chip.boot_setReg (c : Chip) (a : Nat) (w : Word) : (c.setReg a w).boot = c.boot := rfl
@[simp] theorem Chip.flash_setReg (c : Chip) (a : Nat) (w : Word) : (c.setReg a w).flash = c.flash := rfl
@[simp] theorem Chip.tribs_setReg (c : Chip) (a : Nat) (w : Word) : (c.setReg a w).tribs = c.tribs := rfl
@[simp] theorem Chip.conts_setReg (c : Chip) (a : Nat) (w : Word) : (c.setReg a w).conts = c.conts := rfl
@[simp] theorem Chip.tsi_setReg (c : Chip) (a : Nat) (w : Word) : (c.setReg a w).tsi = c.tsi := rfl
@[simp] theorem Chip.time_setReg (c : Chip) (a : Nat) (w : Word) : (c.setReg a w).time = c.time := rfl
@[simp] theorem Chip.cfg_setReg (c : Chip) (a : Nat) (w : Word) : (c.setReg a w).cfg = c.cfg := rfl
@[simp] theorem Chip.ports_setReg (c : Chip) (a : Nat) (w : Word) : (c.setReg a w).ports = c.ports := rfl
@[simp] theorem Chip.mdio_setReg (c : Chip) (a : Nat) (w : Word) : (c.setReg a w).mdio = c.mdio := rfl
@[simp] theorem Chip.stampLatch_setReg (c : Chip) (a : Nat) (w : Word) : (c.setReg a w).stampLatch = c.stampLatch := rfl
@[simp] theorem Chip.host_setReg (c : Chip) (a : Nat) (w : Word) : (c.setReg a w).host = c.host := rfl
@[simp] theorem Chip.keys_setReg (c : Chip) (a : Nat) (w : Word) : (c.setReg a w).keys = c.keys := rfl
@[simp] theorem Chip.i2c_setReg (c : Chip) (a : Nat) (w : Word) : (c.setReg a w).i2c = c.i2c := rfl
@[simp] theorem Chip.mgtWrote_setReg (c : Chip) (a : Nat) (w : Word) : (c.setReg a w).mgtWrote = c.mgtWrote := rfl
@[simp] theorem Chip.lockWritten_setReg (c : Chip) (a : Nat) (w : Word) : (c.setReg a w).lockWritten = c.lockWritten := rfl

/-! ## put -/

@[simp] theorem Chip.now_put (c : Chip) (x : Fld) (v : Nat) : (c.put x v).now = c.now := rfl
@[simp] theorem Chip.nt_put (c : Chip) (x : Fld) (v : Nat) : (c.put x v).nt = c.nt := rfl
@[simp] theorem Chip.store_put (c : Chip) (x : Fld) (v : Nat) : (c.put x v).store = c.store := rfl
@[simp] theorem Chip.staged_put (c : Chip) (x : Fld) (v : Nat) : (c.put x v).staged = c.staged := rfl
@[simp] theorem Chip.tables_put (c : Chip) (x : Fld) (v : Nat) : (c.put x v).tables = c.tables := rfl
@[simp] theorem Chip.tableStore_put (c : Chip) (x : Fld) (v : Nat) : (c.put x v).tableStore = c.tableStore := rfl
@[simp] theorem Chip.tableStaged_put (c : Chip) (x : Fld) (v : Nat) : (c.put x v).tableStaged = c.tableStaged := rfl
@[simp] theorem Chip.everCommitted_put (c : Chip) (x : Fld) (v : Nat) : (c.put x v).everCommitted = c.everCommitted := rfl
@[simp] theorem Chip.counters_put (c : Chip) (x : Fld) (v : Nat) : (c.put x v).counters = c.counters := rfl
@[simp] theorem Chip.copies_put (c : Chip) (x : Fld) (v : Nat) : (c.put x v).copies = c.copies := rfl
@[simp] theorem Chip.latch_put (c : Chip) (x : Fld) (v : Nat) : (c.put x v).latch = c.latch := rfl
@[simp] theorem Chip.hold_put (c : Chip) (x : Fld) (v : Nat) : (c.put x v).hold = c.hold := rfl
@[simp] theorem Chip.posted_put (c : Chip) (x : Fld) (v : Nat) : (c.put x v).posted = c.posted := rfl
@[simp] theorem Chip.timers_put (c : Chip) (x : Fld) (v : Nat) : (c.put x v).timers = c.timers := rfl
@[simp] theorem Chip.lastFrame_put (c : Chip) (x : Fld) (v : Nat) : (c.put x v).lastFrame = c.lastFrame := rfl
@[simp] theorem Chip.freeCtr_put (c : Chip) (x : Fld) (v : Nat) : (c.put x v).freeCtr = c.freeCtr := rfl
@[simp] theorem Chip.emitted_put (c : Chip) (x : Fld) (v : Nat) : (c.put x v).emitted = c.emitted := rfl
@[simp] theorem Chip.power_put (c : Chip) (x : Fld) (v : Nat) : (c.put x v).power = c.power := rfl
@[simp] theorem Chip.itm_put (c : Chip) (x : Fld) (v : Nat) : (c.put x v).itm = c.itm := rfl
@[simp] theorem Chip.pins_put (c : Chip) (x : Fld) (v : Nat) : (c.put x v).pins = c.pins := rfl
@[simp] theorem Chip.tal_put (c : Chip) (x : Fld) (v : Nat) : (c.put x v).tal = c.tal := rfl
@[simp] theorem Chip.lineA_put (c : Chip) (x : Fld) (v : Nat) : (c.put x v).lineA = c.lineA := rfl
@[simp] theorem Chip.lineB_put (c : Chip) (x : Fld) (v : Nat) : (c.put x v).lineB = c.lineB := rfl
@[simp] theorem Chip.trust_put (c : Chip) (x : Fld) (v : Nat) : (c.put x v).trust = c.trust := rfl
@[simp] theorem Chip.twoEnded_put (c : Chip) (x : Fld) (v : Nat) : (c.put x v).twoEnded = c.twoEnded := rfl
@[simp] theorem Chip.sorter_put (c : Chip) (x : Fld) (v : Nat) : (c.put x v).sorter = c.sorter := rfl
@[simp] theorem Chip.cooper_put (c : Chip) (x : Fld) (v : Nat) : (c.put x v).cooper = c.cooper := rfl
@[simp] theorem Chip.meters_put (c : Chip) (x : Fld) (v : Nat) : (c.put x v).meters = c.meters := rfl
@[simp] theorem Chip.drover_put (c : Chip) (x : Fld) (v : Nat) : (c.put x v).drover = c.drover := rfl
@[simp] theorem Chip.boot_put (c : Chip) (x : Fld) (v : Nat) : (c.put x v).boot = c.boot := rfl
@[simp] theorem Chip.flash_put (c : Chip) (x : Fld) (v : Nat) : (c.put x v).flash = c.flash := rfl
@[simp] theorem Chip.tribs_put (c : Chip) (x : Fld) (v : Nat) : (c.put x v).tribs = c.tribs := rfl
@[simp] theorem Chip.conts_put (c : Chip) (x : Fld) (v : Nat) : (c.put x v).conts = c.conts := rfl
@[simp] theorem Chip.tsi_put (c : Chip) (x : Fld) (v : Nat) : (c.put x v).tsi = c.tsi := rfl
@[simp] theorem Chip.time_put (c : Chip) (x : Fld) (v : Nat) : (c.put x v).time = c.time := rfl
@[simp] theorem Chip.cfg_put (c : Chip) (x : Fld) (v : Nat) : (c.put x v).cfg = c.cfg := rfl
@[simp] theorem Chip.ports_put (c : Chip) (x : Fld) (v : Nat) : (c.put x v).ports = c.ports := rfl
@[simp] theorem Chip.mdio_put (c : Chip) (x : Fld) (v : Nat) : (c.put x v).mdio = c.mdio := rfl
@[simp] theorem Chip.stampLatch_put (c : Chip) (x : Fld) (v : Nat) : (c.put x v).stampLatch = c.stampLatch := rfl
@[simp] theorem Chip.host_put (c : Chip) (x : Fld) (v : Nat) : (c.put x v).host = c.host := rfl
@[simp] theorem Chip.keys_put (c : Chip) (x : Fld) (v : Nat) : (c.put x v).keys = c.keys := rfl
@[simp] theorem Chip.i2c_put (c : Chip) (x : Fld) (v : Nat) : (c.put x v).i2c = c.i2c := rfl
@[simp] theorem Chip.mgtWrote_put (c : Chip) (x : Fld) (v : Nat) : (c.put x v).mgtWrote = c.mgtWrote := rfl
@[simp] theorem Chip.lockWritten_put (c : Chip) (x : Fld) (v : Nat) : (c.put x v).lockWritten = c.lockWritten := rfl

/-! ## raise -/

@[simp] theorem Chip.now_raise (c : Chip) (x : Fld) : (c.raise x).now = c.now := rfl
@[simp] theorem Chip.nt_raise (c : Chip) (x : Fld) : (c.raise x).nt = c.nt := rfl
@[simp] theorem Chip.store_raise (c : Chip) (x : Fld) : (c.raise x).store = c.store := rfl
@[simp] theorem Chip.staged_raise (c : Chip) (x : Fld) : (c.raise x).staged = c.staged := rfl
@[simp] theorem Chip.tables_raise (c : Chip) (x : Fld) : (c.raise x).tables = c.tables := rfl
@[simp] theorem Chip.tableStore_raise (c : Chip) (x : Fld) : (c.raise x).tableStore = c.tableStore := rfl
@[simp] theorem Chip.tableStaged_raise (c : Chip) (x : Fld) : (c.raise x).tableStaged = c.tableStaged := rfl
@[simp] theorem Chip.everCommitted_raise (c : Chip) (x : Fld) : (c.raise x).everCommitted = c.everCommitted := rfl
@[simp] theorem Chip.counters_raise (c : Chip) (x : Fld) : (c.raise x).counters = c.counters := rfl
@[simp] theorem Chip.copies_raise (c : Chip) (x : Fld) : (c.raise x).copies = c.copies := rfl
@[simp] theorem Chip.latch_raise (c : Chip) (x : Fld) : (c.raise x).latch = c.latch := rfl
@[simp] theorem Chip.hold_raise (c : Chip) (x : Fld) : (c.raise x).hold = c.hold := rfl
@[simp] theorem Chip.posted_raise (c : Chip) (x : Fld) : (c.raise x).posted = c.posted := rfl
@[simp] theorem Chip.timers_raise (c : Chip) (x : Fld) : (c.raise x).timers = c.timers := rfl
@[simp] theorem Chip.lastFrame_raise (c : Chip) (x : Fld) : (c.raise x).lastFrame = c.lastFrame := rfl
@[simp] theorem Chip.freeCtr_raise (c : Chip) (x : Fld) : (c.raise x).freeCtr = c.freeCtr := rfl
@[simp] theorem Chip.emitted_raise (c : Chip) (x : Fld) : (c.raise x).emitted = c.emitted := rfl
@[simp] theorem Chip.power_raise (c : Chip) (x : Fld) : (c.raise x).power = c.power := rfl
@[simp] theorem Chip.itm_raise (c : Chip) (x : Fld) : (c.raise x).itm = c.itm := rfl
@[simp] theorem Chip.pins_raise (c : Chip) (x : Fld) : (c.raise x).pins = c.pins := rfl
@[simp] theorem Chip.tal_raise (c : Chip) (x : Fld) : (c.raise x).tal = c.tal := rfl
@[simp] theorem Chip.lineA_raise (c : Chip) (x : Fld) : (c.raise x).lineA = c.lineA := rfl
@[simp] theorem Chip.lineB_raise (c : Chip) (x : Fld) : (c.raise x).lineB = c.lineB := rfl
@[simp] theorem Chip.trust_raise (c : Chip) (x : Fld) : (c.raise x).trust = c.trust := rfl
@[simp] theorem Chip.twoEnded_raise (c : Chip) (x : Fld) : (c.raise x).twoEnded = c.twoEnded := rfl
@[simp] theorem Chip.sorter_raise (c : Chip) (x : Fld) : (c.raise x).sorter = c.sorter := rfl
@[simp] theorem Chip.cooper_raise (c : Chip) (x : Fld) : (c.raise x).cooper = c.cooper := rfl
@[simp] theorem Chip.meters_raise (c : Chip) (x : Fld) : (c.raise x).meters = c.meters := rfl
@[simp] theorem Chip.drover_raise (c : Chip) (x : Fld) : (c.raise x).drover = c.drover := rfl
@[simp] theorem Chip.boot_raise (c : Chip) (x : Fld) : (c.raise x).boot = c.boot := rfl
@[simp] theorem Chip.flash_raise (c : Chip) (x : Fld) : (c.raise x).flash = c.flash := rfl
@[simp] theorem Chip.tribs_raise (c : Chip) (x : Fld) : (c.raise x).tribs = c.tribs := rfl
@[simp] theorem Chip.conts_raise (c : Chip) (x : Fld) : (c.raise x).conts = c.conts := rfl
@[simp] theorem Chip.tsi_raise (c : Chip) (x : Fld) : (c.raise x).tsi = c.tsi := rfl
@[simp] theorem Chip.time_raise (c : Chip) (x : Fld) : (c.raise x).time = c.time := rfl
@[simp] theorem Chip.cfg_raise (c : Chip) (x : Fld) : (c.raise x).cfg = c.cfg := rfl
@[simp] theorem Chip.ports_raise (c : Chip) (x : Fld) : (c.raise x).ports = c.ports := rfl
@[simp] theorem Chip.mdio_raise (c : Chip) (x : Fld) : (c.raise x).mdio = c.mdio := rfl
@[simp] theorem Chip.stampLatch_raise (c : Chip) (x : Fld) : (c.raise x).stampLatch = c.stampLatch := rfl
@[simp] theorem Chip.host_raise (c : Chip) (x : Fld) : (c.raise x).host = c.host := rfl
@[simp] theorem Chip.keys_raise (c : Chip) (x : Fld) : (c.raise x).keys = c.keys := rfl
@[simp] theorem Chip.i2c_raise (c : Chip) (x : Fld) : (c.raise x).i2c = c.i2c := rfl
@[simp] theorem Chip.mgtWrote_raise (c : Chip) (x : Fld) : (c.raise x).mgtWrote = c.mgtWrote := rfl
@[simp] theorem Chip.lockWritten_raise (c : Chip) (x : Fld) : (c.raise x).lockWritten = c.lockWritten := rfl

/-! ## lower -/

@[simp] theorem Chip.now_lower (c : Chip) (x : Fld) : (c.lower x).now = c.now := rfl
@[simp] theorem Chip.nt_lower (c : Chip) (x : Fld) : (c.lower x).nt = c.nt := rfl
@[simp] theorem Chip.store_lower (c : Chip) (x : Fld) : (c.lower x).store = c.store := rfl
@[simp] theorem Chip.staged_lower (c : Chip) (x : Fld) : (c.lower x).staged = c.staged := rfl
@[simp] theorem Chip.tables_lower (c : Chip) (x : Fld) : (c.lower x).tables = c.tables := rfl
@[simp] theorem Chip.tableStore_lower (c : Chip) (x : Fld) : (c.lower x).tableStore = c.tableStore := rfl
@[simp] theorem Chip.tableStaged_lower (c : Chip) (x : Fld) : (c.lower x).tableStaged = c.tableStaged := rfl
@[simp] theorem Chip.everCommitted_lower (c : Chip) (x : Fld) : (c.lower x).everCommitted = c.everCommitted := rfl
@[simp] theorem Chip.counters_lower (c : Chip) (x : Fld) : (c.lower x).counters = c.counters := rfl
@[simp] theorem Chip.copies_lower (c : Chip) (x : Fld) : (c.lower x).copies = c.copies := rfl
@[simp] theorem Chip.latch_lower (c : Chip) (x : Fld) : (c.lower x).latch = c.latch := rfl
@[simp] theorem Chip.hold_lower (c : Chip) (x : Fld) : (c.lower x).hold = c.hold := rfl
@[simp] theorem Chip.posted_lower (c : Chip) (x : Fld) : (c.lower x).posted = c.posted := rfl
@[simp] theorem Chip.timers_lower (c : Chip) (x : Fld) : (c.lower x).timers = c.timers := rfl
@[simp] theorem Chip.lastFrame_lower (c : Chip) (x : Fld) : (c.lower x).lastFrame = c.lastFrame := rfl
@[simp] theorem Chip.freeCtr_lower (c : Chip) (x : Fld) : (c.lower x).freeCtr = c.freeCtr := rfl
@[simp] theorem Chip.emitted_lower (c : Chip) (x : Fld) : (c.lower x).emitted = c.emitted := rfl
@[simp] theorem Chip.power_lower (c : Chip) (x : Fld) : (c.lower x).power = c.power := rfl
@[simp] theorem Chip.itm_lower (c : Chip) (x : Fld) : (c.lower x).itm = c.itm := rfl
@[simp] theorem Chip.pins_lower (c : Chip) (x : Fld) : (c.lower x).pins = c.pins := rfl
@[simp] theorem Chip.tal_lower (c : Chip) (x : Fld) : (c.lower x).tal = c.tal := rfl
@[simp] theorem Chip.lineA_lower (c : Chip) (x : Fld) : (c.lower x).lineA = c.lineA := rfl
@[simp] theorem Chip.lineB_lower (c : Chip) (x : Fld) : (c.lower x).lineB = c.lineB := rfl
@[simp] theorem Chip.trust_lower (c : Chip) (x : Fld) : (c.lower x).trust = c.trust := rfl
@[simp] theorem Chip.twoEnded_lower (c : Chip) (x : Fld) : (c.lower x).twoEnded = c.twoEnded := rfl
@[simp] theorem Chip.sorter_lower (c : Chip) (x : Fld) : (c.lower x).sorter = c.sorter := rfl
@[simp] theorem Chip.cooper_lower (c : Chip) (x : Fld) : (c.lower x).cooper = c.cooper := rfl
@[simp] theorem Chip.meters_lower (c : Chip) (x : Fld) : (c.lower x).meters = c.meters := rfl
@[simp] theorem Chip.drover_lower (c : Chip) (x : Fld) : (c.lower x).drover = c.drover := rfl
@[simp] theorem Chip.boot_lower (c : Chip) (x : Fld) : (c.lower x).boot = c.boot := rfl
@[simp] theorem Chip.flash_lower (c : Chip) (x : Fld) : (c.lower x).flash = c.flash := rfl
@[simp] theorem Chip.tribs_lower (c : Chip) (x : Fld) : (c.lower x).tribs = c.tribs := rfl
@[simp] theorem Chip.conts_lower (c : Chip) (x : Fld) : (c.lower x).conts = c.conts := rfl
@[simp] theorem Chip.tsi_lower (c : Chip) (x : Fld) : (c.lower x).tsi = c.tsi := rfl
@[simp] theorem Chip.time_lower (c : Chip) (x : Fld) : (c.lower x).time = c.time := rfl
@[simp] theorem Chip.cfg_lower (c : Chip) (x : Fld) : (c.lower x).cfg = c.cfg := rfl
@[simp] theorem Chip.ports_lower (c : Chip) (x : Fld) : (c.lower x).ports = c.ports := rfl
@[simp] theorem Chip.mdio_lower (c : Chip) (x : Fld) : (c.lower x).mdio = c.mdio := rfl
@[simp] theorem Chip.stampLatch_lower (c : Chip) (x : Fld) : (c.lower x).stampLatch = c.stampLatch := rfl
@[simp] theorem Chip.host_lower (c : Chip) (x : Fld) : (c.lower x).host = c.host := rfl
@[simp] theorem Chip.keys_lower (c : Chip) (x : Fld) : (c.lower x).keys = c.keys := rfl
@[simp] theorem Chip.i2c_lower (c : Chip) (x : Fld) : (c.lower x).i2c = c.i2c := rfl
@[simp] theorem Chip.mgtWrote_lower (c : Chip) (x : Fld) : (c.lower x).mgtWrote = c.mgtWrote := rfl
@[simp] theorem Chip.lockWritten_lower (c : Chip) (x : Fld) : (c.lower x).lockWritten = c.lockWritten := rfl

/-! ## putB -/

@[simp] theorem Chip.now_putB (c : Chip) (x : Fld) (b : Bool) : (c.putB x b).now = c.now := rfl
@[simp] theorem Chip.nt_putB (c : Chip) (x : Fld) (b : Bool) : (c.putB x b).nt = c.nt := rfl
@[simp] theorem Chip.store_putB (c : Chip) (x : Fld) (b : Bool) : (c.putB x b).store = c.store := rfl
@[simp] theorem Chip.staged_putB (c : Chip) (x : Fld) (b : Bool) : (c.putB x b).staged = c.staged := rfl
@[simp] theorem Chip.tables_putB (c : Chip) (x : Fld) (b : Bool) : (c.putB x b).tables = c.tables := rfl
@[simp] theorem Chip.tableStore_putB (c : Chip) (x : Fld) (b : Bool) : (c.putB x b).tableStore = c.tableStore := rfl
@[simp] theorem Chip.tableStaged_putB (c : Chip) (x : Fld) (b : Bool) : (c.putB x b).tableStaged = c.tableStaged := rfl
@[simp] theorem Chip.everCommitted_putB (c : Chip) (x : Fld) (b : Bool) : (c.putB x b).everCommitted = c.everCommitted := rfl
@[simp] theorem Chip.counters_putB (c : Chip) (x : Fld) (b : Bool) : (c.putB x b).counters = c.counters := rfl
@[simp] theorem Chip.copies_putB (c : Chip) (x : Fld) (b : Bool) : (c.putB x b).copies = c.copies := rfl
@[simp] theorem Chip.latch_putB (c : Chip) (x : Fld) (b : Bool) : (c.putB x b).latch = c.latch := rfl
@[simp] theorem Chip.hold_putB (c : Chip) (x : Fld) (b : Bool) : (c.putB x b).hold = c.hold := rfl
@[simp] theorem Chip.posted_putB (c : Chip) (x : Fld) (b : Bool) : (c.putB x b).posted = c.posted := rfl
@[simp] theorem Chip.timers_putB (c : Chip) (x : Fld) (b : Bool) : (c.putB x b).timers = c.timers := rfl
@[simp] theorem Chip.lastFrame_putB (c : Chip) (x : Fld) (b : Bool) : (c.putB x b).lastFrame = c.lastFrame := rfl
@[simp] theorem Chip.freeCtr_putB (c : Chip) (x : Fld) (b : Bool) : (c.putB x b).freeCtr = c.freeCtr := rfl
@[simp] theorem Chip.emitted_putB (c : Chip) (x : Fld) (b : Bool) : (c.putB x b).emitted = c.emitted := rfl
@[simp] theorem Chip.power_putB (c : Chip) (x : Fld) (b : Bool) : (c.putB x b).power = c.power := rfl
@[simp] theorem Chip.itm_putB (c : Chip) (x : Fld) (b : Bool) : (c.putB x b).itm = c.itm := rfl
@[simp] theorem Chip.pins_putB (c : Chip) (x : Fld) (b : Bool) : (c.putB x b).pins = c.pins := rfl
@[simp] theorem Chip.tal_putB (c : Chip) (x : Fld) (b : Bool) : (c.putB x b).tal = c.tal := rfl
@[simp] theorem Chip.lineA_putB (c : Chip) (x : Fld) (b : Bool) : (c.putB x b).lineA = c.lineA := rfl
@[simp] theorem Chip.lineB_putB (c : Chip) (x : Fld) (b : Bool) : (c.putB x b).lineB = c.lineB := rfl
@[simp] theorem Chip.trust_putB (c : Chip) (x : Fld) (b : Bool) : (c.putB x b).trust = c.trust := rfl
@[simp] theorem Chip.twoEnded_putB (c : Chip) (x : Fld) (b : Bool) : (c.putB x b).twoEnded = c.twoEnded := rfl
@[simp] theorem Chip.sorter_putB (c : Chip) (x : Fld) (b : Bool) : (c.putB x b).sorter = c.sorter := rfl
@[simp] theorem Chip.cooper_putB (c : Chip) (x : Fld) (b : Bool) : (c.putB x b).cooper = c.cooper := rfl
@[simp] theorem Chip.meters_putB (c : Chip) (x : Fld) (b : Bool) : (c.putB x b).meters = c.meters := rfl
@[simp] theorem Chip.drover_putB (c : Chip) (x : Fld) (b : Bool) : (c.putB x b).drover = c.drover := rfl
@[simp] theorem Chip.boot_putB (c : Chip) (x : Fld) (b : Bool) : (c.putB x b).boot = c.boot := rfl
@[simp] theorem Chip.flash_putB (c : Chip) (x : Fld) (b : Bool) : (c.putB x b).flash = c.flash := rfl
@[simp] theorem Chip.tribs_putB (c : Chip) (x : Fld) (b : Bool) : (c.putB x b).tribs = c.tribs := rfl
@[simp] theorem Chip.conts_putB (c : Chip) (x : Fld) (b : Bool) : (c.putB x b).conts = c.conts := rfl
@[simp] theorem Chip.tsi_putB (c : Chip) (x : Fld) (b : Bool) : (c.putB x b).tsi = c.tsi := rfl
@[simp] theorem Chip.time_putB (c : Chip) (x : Fld) (b : Bool) : (c.putB x b).time = c.time := rfl
@[simp] theorem Chip.cfg_putB (c : Chip) (x : Fld) (b : Bool) : (c.putB x b).cfg = c.cfg := rfl
@[simp] theorem Chip.ports_putB (c : Chip) (x : Fld) (b : Bool) : (c.putB x b).ports = c.ports := rfl
@[simp] theorem Chip.mdio_putB (c : Chip) (x : Fld) (b : Bool) : (c.putB x b).mdio = c.mdio := rfl
@[simp] theorem Chip.stampLatch_putB (c : Chip) (x : Fld) (b : Bool) : (c.putB x b).stampLatch = c.stampLatch := rfl
@[simp] theorem Chip.host_putB (c : Chip) (x : Fld) (b : Bool) : (c.putB x b).host = c.host := rfl
@[simp] theorem Chip.keys_putB (c : Chip) (x : Fld) (b : Bool) : (c.putB x b).keys = c.keys := rfl
@[simp] theorem Chip.i2c_putB (c : Chip) (x : Fld) (b : Bool) : (c.putB x b).i2c = c.i2c := rfl
@[simp] theorem Chip.mgtWrote_putB (c : Chip) (x : Fld) (b : Bool) : (c.putB x b).mgtWrote = c.mgtWrote := rfl
@[simp] theorem Chip.lockWritten_putB (c : Chip) (x : Fld) (b : Bool) : (c.putB x b).lockWritten = c.lockWritten := rfl

/-! ## raiseBit -/

@[simp] theorem Chip.now_raiseBit (c : Chip) (x : Fld) (k : Nat) : (c.raiseBit x k).now = c.now := rfl
@[simp] theorem Chip.nt_raiseBit (c : Chip) (x : Fld) (k : Nat) : (c.raiseBit x k).nt = c.nt := rfl
@[simp] theorem Chip.store_raiseBit (c : Chip) (x : Fld) (k : Nat) : (c.raiseBit x k).store = c.store := rfl
@[simp] theorem Chip.staged_raiseBit (c : Chip) (x : Fld) (k : Nat) : (c.raiseBit x k).staged = c.staged := rfl
@[simp] theorem Chip.tables_raiseBit (c : Chip) (x : Fld) (k : Nat) : (c.raiseBit x k).tables = c.tables := rfl
@[simp] theorem Chip.tableStore_raiseBit (c : Chip) (x : Fld) (k : Nat) : (c.raiseBit x k).tableStore = c.tableStore := rfl
@[simp] theorem Chip.tableStaged_raiseBit (c : Chip) (x : Fld) (k : Nat) : (c.raiseBit x k).tableStaged = c.tableStaged := rfl
@[simp] theorem Chip.everCommitted_raiseBit (c : Chip) (x : Fld) (k : Nat) : (c.raiseBit x k).everCommitted = c.everCommitted := rfl
@[simp] theorem Chip.counters_raiseBit (c : Chip) (x : Fld) (k : Nat) : (c.raiseBit x k).counters = c.counters := rfl
@[simp] theorem Chip.copies_raiseBit (c : Chip) (x : Fld) (k : Nat) : (c.raiseBit x k).copies = c.copies := rfl
@[simp] theorem Chip.latch_raiseBit (c : Chip) (x : Fld) (k : Nat) : (c.raiseBit x k).latch = c.latch := rfl
@[simp] theorem Chip.hold_raiseBit (c : Chip) (x : Fld) (k : Nat) : (c.raiseBit x k).hold = c.hold := rfl
@[simp] theorem Chip.posted_raiseBit (c : Chip) (x : Fld) (k : Nat) : (c.raiseBit x k).posted = c.posted := rfl
@[simp] theorem Chip.timers_raiseBit (c : Chip) (x : Fld) (k : Nat) : (c.raiseBit x k).timers = c.timers := rfl
@[simp] theorem Chip.lastFrame_raiseBit (c : Chip) (x : Fld) (k : Nat) : (c.raiseBit x k).lastFrame = c.lastFrame := rfl
@[simp] theorem Chip.freeCtr_raiseBit (c : Chip) (x : Fld) (k : Nat) : (c.raiseBit x k).freeCtr = c.freeCtr := rfl
@[simp] theorem Chip.emitted_raiseBit (c : Chip) (x : Fld) (k : Nat) : (c.raiseBit x k).emitted = c.emitted := rfl
@[simp] theorem Chip.power_raiseBit (c : Chip) (x : Fld) (k : Nat) : (c.raiseBit x k).power = c.power := rfl
@[simp] theorem Chip.itm_raiseBit (c : Chip) (x : Fld) (k : Nat) : (c.raiseBit x k).itm = c.itm := rfl
@[simp] theorem Chip.pins_raiseBit (c : Chip) (x : Fld) (k : Nat) : (c.raiseBit x k).pins = c.pins := rfl
@[simp] theorem Chip.tal_raiseBit (c : Chip) (x : Fld) (k : Nat) : (c.raiseBit x k).tal = c.tal := rfl
@[simp] theorem Chip.lineA_raiseBit (c : Chip) (x : Fld) (k : Nat) : (c.raiseBit x k).lineA = c.lineA := rfl
@[simp] theorem Chip.lineB_raiseBit (c : Chip) (x : Fld) (k : Nat) : (c.raiseBit x k).lineB = c.lineB := rfl
@[simp] theorem Chip.trust_raiseBit (c : Chip) (x : Fld) (k : Nat) : (c.raiseBit x k).trust = c.trust := rfl
@[simp] theorem Chip.twoEnded_raiseBit (c : Chip) (x : Fld) (k : Nat) : (c.raiseBit x k).twoEnded = c.twoEnded := rfl
@[simp] theorem Chip.sorter_raiseBit (c : Chip) (x : Fld) (k : Nat) : (c.raiseBit x k).sorter = c.sorter := rfl
@[simp] theorem Chip.cooper_raiseBit (c : Chip) (x : Fld) (k : Nat) : (c.raiseBit x k).cooper = c.cooper := rfl
@[simp] theorem Chip.meters_raiseBit (c : Chip) (x : Fld) (k : Nat) : (c.raiseBit x k).meters = c.meters := rfl
@[simp] theorem Chip.drover_raiseBit (c : Chip) (x : Fld) (k : Nat) : (c.raiseBit x k).drover = c.drover := rfl
@[simp] theorem Chip.boot_raiseBit (c : Chip) (x : Fld) (k : Nat) : (c.raiseBit x k).boot = c.boot := rfl
@[simp] theorem Chip.flash_raiseBit (c : Chip) (x : Fld) (k : Nat) : (c.raiseBit x k).flash = c.flash := rfl
@[simp] theorem Chip.tribs_raiseBit (c : Chip) (x : Fld) (k : Nat) : (c.raiseBit x k).tribs = c.tribs := rfl
@[simp] theorem Chip.conts_raiseBit (c : Chip) (x : Fld) (k : Nat) : (c.raiseBit x k).conts = c.conts := rfl
@[simp] theorem Chip.tsi_raiseBit (c : Chip) (x : Fld) (k : Nat) : (c.raiseBit x k).tsi = c.tsi := rfl
@[simp] theorem Chip.time_raiseBit (c : Chip) (x : Fld) (k : Nat) : (c.raiseBit x k).time = c.time := rfl
@[simp] theorem Chip.cfg_raiseBit (c : Chip) (x : Fld) (k : Nat) : (c.raiseBit x k).cfg = c.cfg := rfl
@[simp] theorem Chip.ports_raiseBit (c : Chip) (x : Fld) (k : Nat) : (c.raiseBit x k).ports = c.ports := rfl
@[simp] theorem Chip.mdio_raiseBit (c : Chip) (x : Fld) (k : Nat) : (c.raiseBit x k).mdio = c.mdio := rfl
@[simp] theorem Chip.stampLatch_raiseBit (c : Chip) (x : Fld) (k : Nat) : (c.raiseBit x k).stampLatch = c.stampLatch := rfl
@[simp] theorem Chip.host_raiseBit (c : Chip) (x : Fld) (k : Nat) : (c.raiseBit x k).host = c.host := rfl
@[simp] theorem Chip.keys_raiseBit (c : Chip) (x : Fld) (k : Nat) : (c.raiseBit x k).keys = c.keys := rfl
@[simp] theorem Chip.i2c_raiseBit (c : Chip) (x : Fld) (k : Nat) : (c.raiseBit x k).i2c = c.i2c := rfl
@[simp] theorem Chip.mgtWrote_raiseBit (c : Chip) (x : Fld) (k : Nat) : (c.raiseBit x k).mgtWrote = c.mgtWrote := rfl
@[simp] theorem Chip.lockWritten_raiseBit (c : Chip) (x : Fld) (k : Nat) : (c.raiseBit x k).lockWritten = c.lockWritten := rfl

/-! ## lowerBit -/

@[simp] theorem Chip.now_lowerBit (c : Chip) (x : Fld) (k : Nat) : (c.lowerBit x k).now = c.now := rfl
@[simp] theorem Chip.nt_lowerBit (c : Chip) (x : Fld) (k : Nat) : (c.lowerBit x k).nt = c.nt := rfl
@[simp] theorem Chip.store_lowerBit (c : Chip) (x : Fld) (k : Nat) : (c.lowerBit x k).store = c.store := rfl
@[simp] theorem Chip.staged_lowerBit (c : Chip) (x : Fld) (k : Nat) : (c.lowerBit x k).staged = c.staged := rfl
@[simp] theorem Chip.tables_lowerBit (c : Chip) (x : Fld) (k : Nat) : (c.lowerBit x k).tables = c.tables := rfl
@[simp] theorem Chip.tableStore_lowerBit (c : Chip) (x : Fld) (k : Nat) : (c.lowerBit x k).tableStore = c.tableStore := rfl
@[simp] theorem Chip.tableStaged_lowerBit (c : Chip) (x : Fld) (k : Nat) : (c.lowerBit x k).tableStaged = c.tableStaged := rfl
@[simp] theorem Chip.everCommitted_lowerBit (c : Chip) (x : Fld) (k : Nat) : (c.lowerBit x k).everCommitted = c.everCommitted := rfl
@[simp] theorem Chip.counters_lowerBit (c : Chip) (x : Fld) (k : Nat) : (c.lowerBit x k).counters = c.counters := rfl
@[simp] theorem Chip.copies_lowerBit (c : Chip) (x : Fld) (k : Nat) : (c.lowerBit x k).copies = c.copies := rfl
@[simp] theorem Chip.latch_lowerBit (c : Chip) (x : Fld) (k : Nat) : (c.lowerBit x k).latch = c.latch := rfl
@[simp] theorem Chip.hold_lowerBit (c : Chip) (x : Fld) (k : Nat) : (c.lowerBit x k).hold = c.hold := rfl
@[simp] theorem Chip.posted_lowerBit (c : Chip) (x : Fld) (k : Nat) : (c.lowerBit x k).posted = c.posted := rfl
@[simp] theorem Chip.timers_lowerBit (c : Chip) (x : Fld) (k : Nat) : (c.lowerBit x k).timers = c.timers := rfl
@[simp] theorem Chip.lastFrame_lowerBit (c : Chip) (x : Fld) (k : Nat) : (c.lowerBit x k).lastFrame = c.lastFrame := rfl
@[simp] theorem Chip.freeCtr_lowerBit (c : Chip) (x : Fld) (k : Nat) : (c.lowerBit x k).freeCtr = c.freeCtr := rfl
@[simp] theorem Chip.emitted_lowerBit (c : Chip) (x : Fld) (k : Nat) : (c.lowerBit x k).emitted = c.emitted := rfl
@[simp] theorem Chip.power_lowerBit (c : Chip) (x : Fld) (k : Nat) : (c.lowerBit x k).power = c.power := rfl
@[simp] theorem Chip.itm_lowerBit (c : Chip) (x : Fld) (k : Nat) : (c.lowerBit x k).itm = c.itm := rfl
@[simp] theorem Chip.pins_lowerBit (c : Chip) (x : Fld) (k : Nat) : (c.lowerBit x k).pins = c.pins := rfl
@[simp] theorem Chip.tal_lowerBit (c : Chip) (x : Fld) (k : Nat) : (c.lowerBit x k).tal = c.tal := rfl
@[simp] theorem Chip.lineA_lowerBit (c : Chip) (x : Fld) (k : Nat) : (c.lowerBit x k).lineA = c.lineA := rfl
@[simp] theorem Chip.lineB_lowerBit (c : Chip) (x : Fld) (k : Nat) : (c.lowerBit x k).lineB = c.lineB := rfl
@[simp] theorem Chip.trust_lowerBit (c : Chip) (x : Fld) (k : Nat) : (c.lowerBit x k).trust = c.trust := rfl
@[simp] theorem Chip.twoEnded_lowerBit (c : Chip) (x : Fld) (k : Nat) : (c.lowerBit x k).twoEnded = c.twoEnded := rfl
@[simp] theorem Chip.sorter_lowerBit (c : Chip) (x : Fld) (k : Nat) : (c.lowerBit x k).sorter = c.sorter := rfl
@[simp] theorem Chip.cooper_lowerBit (c : Chip) (x : Fld) (k : Nat) : (c.lowerBit x k).cooper = c.cooper := rfl
@[simp] theorem Chip.meters_lowerBit (c : Chip) (x : Fld) (k : Nat) : (c.lowerBit x k).meters = c.meters := rfl
@[simp] theorem Chip.drover_lowerBit (c : Chip) (x : Fld) (k : Nat) : (c.lowerBit x k).drover = c.drover := rfl
@[simp] theorem Chip.boot_lowerBit (c : Chip) (x : Fld) (k : Nat) : (c.lowerBit x k).boot = c.boot := rfl
@[simp] theorem Chip.flash_lowerBit (c : Chip) (x : Fld) (k : Nat) : (c.lowerBit x k).flash = c.flash := rfl
@[simp] theorem Chip.tribs_lowerBit (c : Chip) (x : Fld) (k : Nat) : (c.lowerBit x k).tribs = c.tribs := rfl
@[simp] theorem Chip.conts_lowerBit (c : Chip) (x : Fld) (k : Nat) : (c.lowerBit x k).conts = c.conts := rfl
@[simp] theorem Chip.tsi_lowerBit (c : Chip) (x : Fld) (k : Nat) : (c.lowerBit x k).tsi = c.tsi := rfl
@[simp] theorem Chip.time_lowerBit (c : Chip) (x : Fld) (k : Nat) : (c.lowerBit x k).time = c.time := rfl
@[simp] theorem Chip.cfg_lowerBit (c : Chip) (x : Fld) (k : Nat) : (c.lowerBit x k).cfg = c.cfg := rfl
@[simp] theorem Chip.ports_lowerBit (c : Chip) (x : Fld) (k : Nat) : (c.lowerBit x k).ports = c.ports := rfl
@[simp] theorem Chip.mdio_lowerBit (c : Chip) (x : Fld) (k : Nat) : (c.lowerBit x k).mdio = c.mdio := rfl
@[simp] theorem Chip.stampLatch_lowerBit (c : Chip) (x : Fld) (k : Nat) : (c.lowerBit x k).stampLatch = c.stampLatch := rfl
@[simp] theorem Chip.host_lowerBit (c : Chip) (x : Fld) (k : Nat) : (c.lowerBit x k).host = c.host := rfl
@[simp] theorem Chip.keys_lowerBit (c : Chip) (x : Fld) (k : Nat) : (c.lowerBit x k).keys = c.keys := rfl
@[simp] theorem Chip.i2c_lowerBit (c : Chip) (x : Fld) (k : Nat) : (c.lowerBit x k).i2c = c.i2c := rfl
@[simp] theorem Chip.mgtWrote_lowerBit (c : Chip) (x : Fld) (k : Nat) : (c.lowerBit x k).mgtWrote = c.mgtWrote := rfl
@[simp] theorem Chip.lockWritten_lowerBit (c : Chip) (x : Fld) (k : Nat) : (c.lowerBit x k).lockWritten = c.lockWritten := rfl

/-! ## setPair -/

@[simp] theorem Chip.now_setPair (c : Chip) (a v : Nat) : (c.setPair a v).now = c.now := rfl
@[simp] theorem Chip.nt_setPair (c : Chip) (a v : Nat) : (c.setPair a v).nt = c.nt := rfl
@[simp] theorem Chip.store_setPair (c : Chip) (a v : Nat) : (c.setPair a v).store = c.store := rfl
@[simp] theorem Chip.staged_setPair (c : Chip) (a v : Nat) : (c.setPair a v).staged = c.staged := rfl
@[simp] theorem Chip.tables_setPair (c : Chip) (a v : Nat) : (c.setPair a v).tables = c.tables := rfl
@[simp] theorem Chip.tableStore_setPair (c : Chip) (a v : Nat) : (c.setPair a v).tableStore = c.tableStore := rfl
@[simp] theorem Chip.tableStaged_setPair (c : Chip) (a v : Nat) : (c.setPair a v).tableStaged = c.tableStaged := rfl
@[simp] theorem Chip.everCommitted_setPair (c : Chip) (a v : Nat) : (c.setPair a v).everCommitted = c.everCommitted := rfl
@[simp] theorem Chip.counters_setPair (c : Chip) (a v : Nat) : (c.setPair a v).counters = c.counters := rfl
@[simp] theorem Chip.copies_setPair (c : Chip) (a v : Nat) : (c.setPair a v).copies = c.copies := rfl
@[simp] theorem Chip.latch_setPair (c : Chip) (a v : Nat) : (c.setPair a v).latch = c.latch := rfl
@[simp] theorem Chip.hold_setPair (c : Chip) (a v : Nat) : (c.setPair a v).hold = c.hold := rfl
@[simp] theorem Chip.posted_setPair (c : Chip) (a v : Nat) : (c.setPair a v).posted = c.posted := rfl
@[simp] theorem Chip.timers_setPair (c : Chip) (a v : Nat) : (c.setPair a v).timers = c.timers := rfl
@[simp] theorem Chip.lastFrame_setPair (c : Chip) (a v : Nat) : (c.setPair a v).lastFrame = c.lastFrame := rfl
@[simp] theorem Chip.freeCtr_setPair (c : Chip) (a v : Nat) : (c.setPair a v).freeCtr = c.freeCtr := rfl
@[simp] theorem Chip.emitted_setPair (c : Chip) (a v : Nat) : (c.setPair a v).emitted = c.emitted := rfl
@[simp] theorem Chip.power_setPair (c : Chip) (a v : Nat) : (c.setPair a v).power = c.power := rfl
@[simp] theorem Chip.itm_setPair (c : Chip) (a v : Nat) : (c.setPair a v).itm = c.itm := rfl
@[simp] theorem Chip.pins_setPair (c : Chip) (a v : Nat) : (c.setPair a v).pins = c.pins := rfl
@[simp] theorem Chip.tal_setPair (c : Chip) (a v : Nat) : (c.setPair a v).tal = c.tal := rfl
@[simp] theorem Chip.lineA_setPair (c : Chip) (a v : Nat) : (c.setPair a v).lineA = c.lineA := rfl
@[simp] theorem Chip.lineB_setPair (c : Chip) (a v : Nat) : (c.setPair a v).lineB = c.lineB := rfl
@[simp] theorem Chip.trust_setPair (c : Chip) (a v : Nat) : (c.setPair a v).trust = c.trust := rfl
@[simp] theorem Chip.twoEnded_setPair (c : Chip) (a v : Nat) : (c.setPair a v).twoEnded = c.twoEnded := rfl
@[simp] theorem Chip.sorter_setPair (c : Chip) (a v : Nat) : (c.setPair a v).sorter = c.sorter := rfl
@[simp] theorem Chip.cooper_setPair (c : Chip) (a v : Nat) : (c.setPair a v).cooper = c.cooper := rfl
@[simp] theorem Chip.meters_setPair (c : Chip) (a v : Nat) : (c.setPair a v).meters = c.meters := rfl
@[simp] theorem Chip.drover_setPair (c : Chip) (a v : Nat) : (c.setPair a v).drover = c.drover := rfl
@[simp] theorem Chip.boot_setPair (c : Chip) (a v : Nat) : (c.setPair a v).boot = c.boot := rfl
@[simp] theorem Chip.flash_setPair (c : Chip) (a v : Nat) : (c.setPair a v).flash = c.flash := rfl
@[simp] theorem Chip.tribs_setPair (c : Chip) (a v : Nat) : (c.setPair a v).tribs = c.tribs := rfl
@[simp] theorem Chip.conts_setPair (c : Chip) (a v : Nat) : (c.setPair a v).conts = c.conts := rfl
@[simp] theorem Chip.tsi_setPair (c : Chip) (a v : Nat) : (c.setPair a v).tsi = c.tsi := rfl
@[simp] theorem Chip.time_setPair (c : Chip) (a v : Nat) : (c.setPair a v).time = c.time := rfl
@[simp] theorem Chip.cfg_setPair (c : Chip) (a v : Nat) : (c.setPair a v).cfg = c.cfg := rfl
@[simp] theorem Chip.ports_setPair (c : Chip) (a v : Nat) : (c.setPair a v).ports = c.ports := rfl
@[simp] theorem Chip.mdio_setPair (c : Chip) (a v : Nat) : (c.setPair a v).mdio = c.mdio := rfl
@[simp] theorem Chip.stampLatch_setPair (c : Chip) (a v : Nat) : (c.setPair a v).stampLatch = c.stampLatch := rfl
@[simp] theorem Chip.host_setPair (c : Chip) (a v : Nat) : (c.setPair a v).host = c.host := rfl
@[simp] theorem Chip.keys_setPair (c : Chip) (a v : Nat) : (c.setPair a v).keys = c.keys := rfl
@[simp] theorem Chip.i2c_setPair (c : Chip) (a v : Nat) : (c.setPair a v).i2c = c.i2c := rfl
@[simp] theorem Chip.mgtWrote_setPair (c : Chip) (a v : Nat) : (c.setPair a v).mgtWrote = c.mgtWrote := rfl
@[simp] theorem Chip.lockWritten_setPair (c : Chip) (a v : Nat) : (c.setPair a v).lockWritten = c.lockWritten := rfl

/-! ## setCtr -/

@[simp] theorem Chip.now_setCtr (c : Chip) (a : Nat) (v : DWord) : (c.setCtr a v).now = c.now := rfl
@[simp] theorem Chip.nt_setCtr (c : Chip) (a : Nat) (v : DWord) : (c.setCtr a v).nt = c.nt := rfl
@[simp] theorem Chip.regs_setCtr (c : Chip) (a : Nat) (v : DWord) : (c.setCtr a v).regs = c.regs := rfl
@[simp] theorem Chip.store_setCtr (c : Chip) (a : Nat) (v : DWord) : (c.setCtr a v).store = c.store := rfl
@[simp] theorem Chip.staged_setCtr (c : Chip) (a : Nat) (v : DWord) : (c.setCtr a v).staged = c.staged := rfl
@[simp] theorem Chip.tables_setCtr (c : Chip) (a : Nat) (v : DWord) : (c.setCtr a v).tables = c.tables := rfl
@[simp] theorem Chip.tableStore_setCtr (c : Chip) (a : Nat) (v : DWord) : (c.setCtr a v).tableStore = c.tableStore := rfl
@[simp] theorem Chip.tableStaged_setCtr (c : Chip) (a : Nat) (v : DWord) : (c.setCtr a v).tableStaged = c.tableStaged := rfl
@[simp] theorem Chip.everCommitted_setCtr (c : Chip) (a : Nat) (v : DWord) : (c.setCtr a v).everCommitted = c.everCommitted := rfl
@[simp] theorem Chip.copies_setCtr (c : Chip) (a : Nat) (v : DWord) : (c.setCtr a v).copies = c.copies := rfl
@[simp] theorem Chip.latch_setCtr (c : Chip) (a : Nat) (v : DWord) : (c.setCtr a v).latch = c.latch := rfl
@[simp] theorem Chip.hold_setCtr (c : Chip) (a : Nat) (v : DWord) : (c.setCtr a v).hold = c.hold := rfl
@[simp] theorem Chip.posted_setCtr (c : Chip) (a : Nat) (v : DWord) : (c.setCtr a v).posted = c.posted := rfl
@[simp] theorem Chip.timers_setCtr (c : Chip) (a : Nat) (v : DWord) : (c.setCtr a v).timers = c.timers := rfl
@[simp] theorem Chip.lastFrame_setCtr (c : Chip) (a : Nat) (v : DWord) : (c.setCtr a v).lastFrame = c.lastFrame := rfl
@[simp] theorem Chip.freeCtr_setCtr (c : Chip) (a : Nat) (v : DWord) : (c.setCtr a v).freeCtr = c.freeCtr := rfl
@[simp] theorem Chip.emitted_setCtr (c : Chip) (a : Nat) (v : DWord) : (c.setCtr a v).emitted = c.emitted := rfl
@[simp] theorem Chip.power_setCtr (c : Chip) (a : Nat) (v : DWord) : (c.setCtr a v).power = c.power := rfl
@[simp] theorem Chip.itm_setCtr (c : Chip) (a : Nat) (v : DWord) : (c.setCtr a v).itm = c.itm := rfl
@[simp] theorem Chip.pins_setCtr (c : Chip) (a : Nat) (v : DWord) : (c.setCtr a v).pins = c.pins := rfl
@[simp] theorem Chip.tal_setCtr (c : Chip) (a : Nat) (v : DWord) : (c.setCtr a v).tal = c.tal := rfl
@[simp] theorem Chip.lineA_setCtr (c : Chip) (a : Nat) (v : DWord) : (c.setCtr a v).lineA = c.lineA := rfl
@[simp] theorem Chip.lineB_setCtr (c : Chip) (a : Nat) (v : DWord) : (c.setCtr a v).lineB = c.lineB := rfl
@[simp] theorem Chip.trust_setCtr (c : Chip) (a : Nat) (v : DWord) : (c.setCtr a v).trust = c.trust := rfl
@[simp] theorem Chip.twoEnded_setCtr (c : Chip) (a : Nat) (v : DWord) : (c.setCtr a v).twoEnded = c.twoEnded := rfl
@[simp] theorem Chip.sorter_setCtr (c : Chip) (a : Nat) (v : DWord) : (c.setCtr a v).sorter = c.sorter := rfl
@[simp] theorem Chip.cooper_setCtr (c : Chip) (a : Nat) (v : DWord) : (c.setCtr a v).cooper = c.cooper := rfl
@[simp] theorem Chip.meters_setCtr (c : Chip) (a : Nat) (v : DWord) : (c.setCtr a v).meters = c.meters := rfl
@[simp] theorem Chip.drover_setCtr (c : Chip) (a : Nat) (v : DWord) : (c.setCtr a v).drover = c.drover := rfl
@[simp] theorem Chip.boot_setCtr (c : Chip) (a : Nat) (v : DWord) : (c.setCtr a v).boot = c.boot := rfl
@[simp] theorem Chip.flash_setCtr (c : Chip) (a : Nat) (v : DWord) : (c.setCtr a v).flash = c.flash := rfl
@[simp] theorem Chip.tribs_setCtr (c : Chip) (a : Nat) (v : DWord) : (c.setCtr a v).tribs = c.tribs := rfl
@[simp] theorem Chip.conts_setCtr (c : Chip) (a : Nat) (v : DWord) : (c.setCtr a v).conts = c.conts := rfl
@[simp] theorem Chip.tsi_setCtr (c : Chip) (a : Nat) (v : DWord) : (c.setCtr a v).tsi = c.tsi := rfl
@[simp] theorem Chip.time_setCtr (c : Chip) (a : Nat) (v : DWord) : (c.setCtr a v).time = c.time := rfl
@[simp] theorem Chip.cfg_setCtr (c : Chip) (a : Nat) (v : DWord) : (c.setCtr a v).cfg = c.cfg := rfl
@[simp] theorem Chip.ports_setCtr (c : Chip) (a : Nat) (v : DWord) : (c.setCtr a v).ports = c.ports := rfl
@[simp] theorem Chip.mdio_setCtr (c : Chip) (a : Nat) (v : DWord) : (c.setCtr a v).mdio = c.mdio := rfl
@[simp] theorem Chip.stampLatch_setCtr (c : Chip) (a : Nat) (v : DWord) : (c.setCtr a v).stampLatch = c.stampLatch := rfl
@[simp] theorem Chip.host_setCtr (c : Chip) (a : Nat) (v : DWord) : (c.setCtr a v).host = c.host := rfl
@[simp] theorem Chip.keys_setCtr (c : Chip) (a : Nat) (v : DWord) : (c.setCtr a v).keys = c.keys := rfl
@[simp] theorem Chip.i2c_setCtr (c : Chip) (a : Nat) (v : DWord) : (c.setCtr a v).i2c = c.i2c := rfl
@[simp] theorem Chip.mgtWrote_setCtr (c : Chip) (a : Nat) (v : DWord) : (c.setCtr a v).mgtWrote = c.mgtWrote := rfl
@[simp] theorem Chip.lockWritten_setCtr (c : Chip) (a : Nat) (v : DWord) : (c.setCtr a v).lockWritten = c.lockWritten := rfl

/-! ## emit -/

@[simp] theorem Chip.now_emit (c : Chip) (o : Output) : (c.emit o).now = c.now := rfl
@[simp] theorem Chip.nt_emit (c : Chip) (o : Output) : (c.emit o).nt = c.nt := rfl
@[simp] theorem Chip.regs_emit (c : Chip) (o : Output) : (c.emit o).regs = c.regs := rfl
@[simp] theorem Chip.store_emit (c : Chip) (o : Output) : (c.emit o).store = c.store := rfl
@[simp] theorem Chip.staged_emit (c : Chip) (o : Output) : (c.emit o).staged = c.staged := rfl
@[simp] theorem Chip.tables_emit (c : Chip) (o : Output) : (c.emit o).tables = c.tables := rfl
@[simp] theorem Chip.tableStore_emit (c : Chip) (o : Output) : (c.emit o).tableStore = c.tableStore := rfl
@[simp] theorem Chip.tableStaged_emit (c : Chip) (o : Output) : (c.emit o).tableStaged = c.tableStaged := rfl
@[simp] theorem Chip.everCommitted_emit (c : Chip) (o : Output) : (c.emit o).everCommitted = c.everCommitted := rfl
@[simp] theorem Chip.counters_emit (c : Chip) (o : Output) : (c.emit o).counters = c.counters := rfl
@[simp] theorem Chip.copies_emit (c : Chip) (o : Output) : (c.emit o).copies = c.copies := rfl
@[simp] theorem Chip.latch_emit (c : Chip) (o : Output) : (c.emit o).latch = c.latch := rfl
@[simp] theorem Chip.hold_emit (c : Chip) (o : Output) : (c.emit o).hold = c.hold := rfl
@[simp] theorem Chip.posted_emit (c : Chip) (o : Output) : (c.emit o).posted = c.posted := rfl
@[simp] theorem Chip.timers_emit (c : Chip) (o : Output) : (c.emit o).timers = c.timers := rfl
@[simp] theorem Chip.lastFrame_emit (c : Chip) (o : Output) : (c.emit o).lastFrame = c.lastFrame := rfl
@[simp] theorem Chip.freeCtr_emit (c : Chip) (o : Output) : (c.emit o).freeCtr = c.freeCtr := rfl
@[simp] theorem Chip.power_emit (c : Chip) (o : Output) : (c.emit o).power = c.power := rfl
@[simp] theorem Chip.itm_emit (c : Chip) (o : Output) : (c.emit o).itm = c.itm := rfl
@[simp] theorem Chip.pins_emit (c : Chip) (o : Output) : (c.emit o).pins = c.pins := rfl
@[simp] theorem Chip.tal_emit (c : Chip) (o : Output) : (c.emit o).tal = c.tal := rfl
@[simp] theorem Chip.lineA_emit (c : Chip) (o : Output) : (c.emit o).lineA = c.lineA := rfl
@[simp] theorem Chip.lineB_emit (c : Chip) (o : Output) : (c.emit o).lineB = c.lineB := rfl
@[simp] theorem Chip.trust_emit (c : Chip) (o : Output) : (c.emit o).trust = c.trust := rfl
@[simp] theorem Chip.twoEnded_emit (c : Chip) (o : Output) : (c.emit o).twoEnded = c.twoEnded := rfl
@[simp] theorem Chip.sorter_emit (c : Chip) (o : Output) : (c.emit o).sorter = c.sorter := rfl
@[simp] theorem Chip.cooper_emit (c : Chip) (o : Output) : (c.emit o).cooper = c.cooper := rfl
@[simp] theorem Chip.meters_emit (c : Chip) (o : Output) : (c.emit o).meters = c.meters := rfl
@[simp] theorem Chip.drover_emit (c : Chip) (o : Output) : (c.emit o).drover = c.drover := rfl
@[simp] theorem Chip.boot_emit (c : Chip) (o : Output) : (c.emit o).boot = c.boot := rfl
@[simp] theorem Chip.flash_emit (c : Chip) (o : Output) : (c.emit o).flash = c.flash := rfl
@[simp] theorem Chip.tribs_emit (c : Chip) (o : Output) : (c.emit o).tribs = c.tribs := rfl
@[simp] theorem Chip.conts_emit (c : Chip) (o : Output) : (c.emit o).conts = c.conts := rfl
@[simp] theorem Chip.tsi_emit (c : Chip) (o : Output) : (c.emit o).tsi = c.tsi := rfl
@[simp] theorem Chip.time_emit (c : Chip) (o : Output) : (c.emit o).time = c.time := rfl
@[simp] theorem Chip.cfg_emit (c : Chip) (o : Output) : (c.emit o).cfg = c.cfg := rfl
@[simp] theorem Chip.ports_emit (c : Chip) (o : Output) : (c.emit o).ports = c.ports := rfl
@[simp] theorem Chip.mdio_emit (c : Chip) (o : Output) : (c.emit o).mdio = c.mdio := rfl
@[simp] theorem Chip.stampLatch_emit (c : Chip) (o : Output) : (c.emit o).stampLatch = c.stampLatch := rfl
@[simp] theorem Chip.host_emit (c : Chip) (o : Output) : (c.emit o).host = c.host := rfl
@[simp] theorem Chip.keys_emit (c : Chip) (o : Output) : (c.emit o).keys = c.keys := rfl
@[simp] theorem Chip.i2c_emit (c : Chip) (o : Output) : (c.emit o).i2c = c.i2c := rfl
@[simp] theorem Chip.mgtWrote_emit (c : Chip) (o : Output) : (c.emit o).mgtWrote = c.mgtWrote := rfl
@[simp] theorem Chip.lockWritten_emit (c : Chip) (o : Output) : (c.emit o).lockWritten = c.lockWritten := rfl

/-! ## stop -/

@[simp] theorem Chip.now_stop (c : Chip) (k : TimerKey) : (c.stop k).now = c.now := rfl
@[simp] theorem Chip.nt_stop (c : Chip) (k : TimerKey) : (c.stop k).nt = c.nt := rfl
@[simp] theorem Chip.regs_stop (c : Chip) (k : TimerKey) : (c.stop k).regs = c.regs := rfl
@[simp] theorem Chip.store_stop (c : Chip) (k : TimerKey) : (c.stop k).store = c.store := rfl
@[simp] theorem Chip.staged_stop (c : Chip) (k : TimerKey) : (c.stop k).staged = c.staged := rfl
@[simp] theorem Chip.tables_stop (c : Chip) (k : TimerKey) : (c.stop k).tables = c.tables := rfl
@[simp] theorem Chip.tableStore_stop (c : Chip) (k : TimerKey) : (c.stop k).tableStore = c.tableStore := rfl
@[simp] theorem Chip.tableStaged_stop (c : Chip) (k : TimerKey) : (c.stop k).tableStaged = c.tableStaged := rfl
@[simp] theorem Chip.everCommitted_stop (c : Chip) (k : TimerKey) : (c.stop k).everCommitted = c.everCommitted := rfl
@[simp] theorem Chip.counters_stop (c : Chip) (k : TimerKey) : (c.stop k).counters = c.counters := rfl
@[simp] theorem Chip.copies_stop (c : Chip) (k : TimerKey) : (c.stop k).copies = c.copies := rfl
@[simp] theorem Chip.latch_stop (c : Chip) (k : TimerKey) : (c.stop k).latch = c.latch := rfl
@[simp] theorem Chip.hold_stop (c : Chip) (k : TimerKey) : (c.stop k).hold = c.hold := rfl
@[simp] theorem Chip.posted_stop (c : Chip) (k : TimerKey) : (c.stop k).posted = c.posted := rfl
@[simp] theorem Chip.lastFrame_stop (c : Chip) (k : TimerKey) : (c.stop k).lastFrame = c.lastFrame := rfl
@[simp] theorem Chip.freeCtr_stop (c : Chip) (k : TimerKey) : (c.stop k).freeCtr = c.freeCtr := rfl
@[simp] theorem Chip.emitted_stop (c : Chip) (k : TimerKey) : (c.stop k).emitted = c.emitted := rfl
@[simp] theorem Chip.power_stop (c : Chip) (k : TimerKey) : (c.stop k).power = c.power := rfl
@[simp] theorem Chip.itm_stop (c : Chip) (k : TimerKey) : (c.stop k).itm = c.itm := rfl
@[simp] theorem Chip.pins_stop (c : Chip) (k : TimerKey) : (c.stop k).pins = c.pins := rfl
@[simp] theorem Chip.tal_stop (c : Chip) (k : TimerKey) : (c.stop k).tal = c.tal := rfl
@[simp] theorem Chip.lineA_stop (c : Chip) (k : TimerKey) : (c.stop k).lineA = c.lineA := rfl
@[simp] theorem Chip.lineB_stop (c : Chip) (k : TimerKey) : (c.stop k).lineB = c.lineB := rfl
@[simp] theorem Chip.trust_stop (c : Chip) (k : TimerKey) : (c.stop k).trust = c.trust := rfl
@[simp] theorem Chip.twoEnded_stop (c : Chip) (k : TimerKey) : (c.stop k).twoEnded = c.twoEnded := rfl
@[simp] theorem Chip.sorter_stop (c : Chip) (k : TimerKey) : (c.stop k).sorter = c.sorter := rfl
@[simp] theorem Chip.cooper_stop (c : Chip) (k : TimerKey) : (c.stop k).cooper = c.cooper := rfl
@[simp] theorem Chip.meters_stop (c : Chip) (k : TimerKey) : (c.stop k).meters = c.meters := rfl
@[simp] theorem Chip.drover_stop (c : Chip) (k : TimerKey) : (c.stop k).drover = c.drover := rfl
@[simp] theorem Chip.boot_stop (c : Chip) (k : TimerKey) : (c.stop k).boot = c.boot := rfl
@[simp] theorem Chip.flash_stop (c : Chip) (k : TimerKey) : (c.stop k).flash = c.flash := rfl
@[simp] theorem Chip.tribs_stop (c : Chip) (k : TimerKey) : (c.stop k).tribs = c.tribs := rfl
@[simp] theorem Chip.conts_stop (c : Chip) (k : TimerKey) : (c.stop k).conts = c.conts := rfl
@[simp] theorem Chip.tsi_stop (c : Chip) (k : TimerKey) : (c.stop k).tsi = c.tsi := rfl
@[simp] theorem Chip.time_stop (c : Chip) (k : TimerKey) : (c.stop k).time = c.time := rfl
@[simp] theorem Chip.cfg_stop (c : Chip) (k : TimerKey) : (c.stop k).cfg = c.cfg := rfl
@[simp] theorem Chip.ports_stop (c : Chip) (k : TimerKey) : (c.stop k).ports = c.ports := rfl
@[simp] theorem Chip.mdio_stop (c : Chip) (k : TimerKey) : (c.stop k).mdio = c.mdio := rfl
@[simp] theorem Chip.stampLatch_stop (c : Chip) (k : TimerKey) : (c.stop k).stampLatch = c.stampLatch := rfl
@[simp] theorem Chip.host_stop (c : Chip) (k : TimerKey) : (c.stop k).host = c.host := rfl
@[simp] theorem Chip.keys_stop (c : Chip) (k : TimerKey) : (c.stop k).keys = c.keys := rfl
@[simp] theorem Chip.i2c_stop (c : Chip) (k : TimerKey) : (c.stop k).i2c = c.i2c := rfl
@[simp] theorem Chip.mgtWrote_stop (c : Chip) (k : TimerKey) : (c.stop k).mgtWrote = c.mgtWrote := rfl
@[simp] theorem Chip.lockWritten_stop (c : Chip) (k : TimerKey) : (c.stop k).lockWritten = c.lockWritten := rfl

/-! ## start -/

@[simp] theorem Chip.now_start (c : Chip) (k : TimerKey) (n : Nat) : (c.start k n).now = c.now := rfl
@[simp] theorem Chip.nt_start (c : Chip) (k : TimerKey) (n : Nat) : (c.start k n).nt = c.nt := rfl
@[simp] theorem Chip.regs_start (c : Chip) (k : TimerKey) (n : Nat) : (c.start k n).regs = c.regs := rfl
@[simp] theorem Chip.store_start (c : Chip) (k : TimerKey) (n : Nat) : (c.start k n).store = c.store := rfl
@[simp] theorem Chip.staged_start (c : Chip) (k : TimerKey) (n : Nat) : (c.start k n).staged = c.staged := rfl
@[simp] theorem Chip.tables_start (c : Chip) (k : TimerKey) (n : Nat) : (c.start k n).tables = c.tables := rfl
@[simp] theorem Chip.tableStore_start (c : Chip) (k : TimerKey) (n : Nat) : (c.start k n).tableStore = c.tableStore := rfl
@[simp] theorem Chip.tableStaged_start (c : Chip) (k : TimerKey) (n : Nat) : (c.start k n).tableStaged = c.tableStaged := rfl
@[simp] theorem Chip.everCommitted_start (c : Chip) (k : TimerKey) (n : Nat) : (c.start k n).everCommitted = c.everCommitted := rfl
@[simp] theorem Chip.counters_start (c : Chip) (k : TimerKey) (n : Nat) : (c.start k n).counters = c.counters := rfl
@[simp] theorem Chip.copies_start (c : Chip) (k : TimerKey) (n : Nat) : (c.start k n).copies = c.copies := rfl
@[simp] theorem Chip.latch_start (c : Chip) (k : TimerKey) (n : Nat) : (c.start k n).latch = c.latch := rfl
@[simp] theorem Chip.hold_start (c : Chip) (k : TimerKey) (n : Nat) : (c.start k n).hold = c.hold := rfl
@[simp] theorem Chip.posted_start (c : Chip) (k : TimerKey) (n : Nat) : (c.start k n).posted = c.posted := rfl
@[simp] theorem Chip.lastFrame_start (c : Chip) (k : TimerKey) (n : Nat) : (c.start k n).lastFrame = c.lastFrame := rfl
@[simp] theorem Chip.freeCtr_start (c : Chip) (k : TimerKey) (n : Nat) : (c.start k n).freeCtr = c.freeCtr := rfl
@[simp] theorem Chip.emitted_start (c : Chip) (k : TimerKey) (n : Nat) : (c.start k n).emitted = c.emitted := rfl
@[simp] theorem Chip.power_start (c : Chip) (k : TimerKey) (n : Nat) : (c.start k n).power = c.power := rfl
@[simp] theorem Chip.itm_start (c : Chip) (k : TimerKey) (n : Nat) : (c.start k n).itm = c.itm := rfl
@[simp] theorem Chip.pins_start (c : Chip) (k : TimerKey) (n : Nat) : (c.start k n).pins = c.pins := rfl
@[simp] theorem Chip.tal_start (c : Chip) (k : TimerKey) (n : Nat) : (c.start k n).tal = c.tal := rfl
@[simp] theorem Chip.lineA_start (c : Chip) (k : TimerKey) (n : Nat) : (c.start k n).lineA = c.lineA := rfl
@[simp] theorem Chip.lineB_start (c : Chip) (k : TimerKey) (n : Nat) : (c.start k n).lineB = c.lineB := rfl
@[simp] theorem Chip.trust_start (c : Chip) (k : TimerKey) (n : Nat) : (c.start k n).trust = c.trust := rfl
@[simp] theorem Chip.twoEnded_start (c : Chip) (k : TimerKey) (n : Nat) : (c.start k n).twoEnded = c.twoEnded := rfl
@[simp] theorem Chip.sorter_start (c : Chip) (k : TimerKey) (n : Nat) : (c.start k n).sorter = c.sorter := rfl
@[simp] theorem Chip.cooper_start (c : Chip) (k : TimerKey) (n : Nat) : (c.start k n).cooper = c.cooper := rfl
@[simp] theorem Chip.meters_start (c : Chip) (k : TimerKey) (n : Nat) : (c.start k n).meters = c.meters := rfl
@[simp] theorem Chip.drover_start (c : Chip) (k : TimerKey) (n : Nat) : (c.start k n).drover = c.drover := rfl
@[simp] theorem Chip.boot_start (c : Chip) (k : TimerKey) (n : Nat) : (c.start k n).boot = c.boot := rfl
@[simp] theorem Chip.flash_start (c : Chip) (k : TimerKey) (n : Nat) : (c.start k n).flash = c.flash := rfl
@[simp] theorem Chip.tribs_start (c : Chip) (k : TimerKey) (n : Nat) : (c.start k n).tribs = c.tribs := rfl
@[simp] theorem Chip.conts_start (c : Chip) (k : TimerKey) (n : Nat) : (c.start k n).conts = c.conts := rfl
@[simp] theorem Chip.tsi_start (c : Chip) (k : TimerKey) (n : Nat) : (c.start k n).tsi = c.tsi := rfl
@[simp] theorem Chip.time_start (c : Chip) (k : TimerKey) (n : Nat) : (c.start k n).time = c.time := rfl
@[simp] theorem Chip.cfg_start (c : Chip) (k : TimerKey) (n : Nat) : (c.start k n).cfg = c.cfg := rfl
@[simp] theorem Chip.ports_start (c : Chip) (k : TimerKey) (n : Nat) : (c.start k n).ports = c.ports := rfl
@[simp] theorem Chip.mdio_start (c : Chip) (k : TimerKey) (n : Nat) : (c.start k n).mdio = c.mdio := rfl
@[simp] theorem Chip.stampLatch_start (c : Chip) (k : TimerKey) (n : Nat) : (c.start k n).stampLatch = c.stampLatch := rfl
@[simp] theorem Chip.host_start (c : Chip) (k : TimerKey) (n : Nat) : (c.start k n).host = c.host := rfl
@[simp] theorem Chip.keys_start (c : Chip) (k : TimerKey) (n : Nat) : (c.start k n).keys = c.keys := rfl
@[simp] theorem Chip.i2c_start (c : Chip) (k : TimerKey) (n : Nat) : (c.start k n).i2c = c.i2c := rfl
@[simp] theorem Chip.mgtWrote_start (c : Chip) (k : TimerKey) (n : Nat) : (c.start k n).mgtWrote = c.mgtWrote := rfl
@[simp] theorem Chip.lockWritten_start (c : Chip) (k : TimerKey) (n : Nat) : (c.start k n).lockWritten = c.lockWritten := rfl

/-! ## stageTab -/

@[simp] theorem Chip.now_stageTab (c : Chip) (t i v : Nat) : (c.stageTab t i v).now = c.now := rfl
@[simp] theorem Chip.nt_stageTab (c : Chip) (t i v : Nat) : (c.stageTab t i v).nt = c.nt := rfl
@[simp] theorem Chip.regs_stageTab (c : Chip) (t i v : Nat) : (c.stageTab t i v).regs = c.regs := rfl
@[simp] theorem Chip.store_stageTab (c : Chip) (t i v : Nat) : (c.stageTab t i v).store = c.store := rfl
@[simp] theorem Chip.staged_stageTab (c : Chip) (t i v : Nat) : (c.stageTab t i v).staged = c.staged := rfl
@[simp] theorem Chip.tables_stageTab (c : Chip) (t i v : Nat) : (c.stageTab t i v).tables = c.tables := rfl
@[simp] theorem Chip.tableStore_stageTab (c : Chip) (t i v : Nat) : (c.stageTab t i v).tableStore = c.tableStore := rfl
@[simp] theorem Chip.everCommitted_stageTab (c : Chip) (t i v : Nat) : (c.stageTab t i v).everCommitted = c.everCommitted := rfl
@[simp] theorem Chip.counters_stageTab (c : Chip) (t i v : Nat) : (c.stageTab t i v).counters = c.counters := rfl
@[simp] theorem Chip.copies_stageTab (c : Chip) (t i v : Nat) : (c.stageTab t i v).copies = c.copies := rfl
@[simp] theorem Chip.latch_stageTab (c : Chip) (t i v : Nat) : (c.stageTab t i v).latch = c.latch := rfl
@[simp] theorem Chip.hold_stageTab (c : Chip) (t i v : Nat) : (c.stageTab t i v).hold = c.hold := rfl
@[simp] theorem Chip.posted_stageTab (c : Chip) (t i v : Nat) : (c.stageTab t i v).posted = c.posted := rfl
@[simp] theorem Chip.timers_stageTab (c : Chip) (t i v : Nat) : (c.stageTab t i v).timers = c.timers := rfl
@[simp] theorem Chip.lastFrame_stageTab (c : Chip) (t i v : Nat) : (c.stageTab t i v).lastFrame = c.lastFrame := rfl
@[simp] theorem Chip.freeCtr_stageTab (c : Chip) (t i v : Nat) : (c.stageTab t i v).freeCtr = c.freeCtr := rfl
@[simp] theorem Chip.emitted_stageTab (c : Chip) (t i v : Nat) : (c.stageTab t i v).emitted = c.emitted := rfl
@[simp] theorem Chip.power_stageTab (c : Chip) (t i v : Nat) : (c.stageTab t i v).power = c.power := rfl
@[simp] theorem Chip.itm_stageTab (c : Chip) (t i v : Nat) : (c.stageTab t i v).itm = c.itm := rfl
@[simp] theorem Chip.pins_stageTab (c : Chip) (t i v : Nat) : (c.stageTab t i v).pins = c.pins := rfl
@[simp] theorem Chip.tal_stageTab (c : Chip) (t i v : Nat) : (c.stageTab t i v).tal = c.tal := rfl
@[simp] theorem Chip.lineA_stageTab (c : Chip) (t i v : Nat) : (c.stageTab t i v).lineA = c.lineA := rfl
@[simp] theorem Chip.lineB_stageTab (c : Chip) (t i v : Nat) : (c.stageTab t i v).lineB = c.lineB := rfl
@[simp] theorem Chip.trust_stageTab (c : Chip) (t i v : Nat) : (c.stageTab t i v).trust = c.trust := rfl
@[simp] theorem Chip.twoEnded_stageTab (c : Chip) (t i v : Nat) : (c.stageTab t i v).twoEnded = c.twoEnded := rfl
@[simp] theorem Chip.sorter_stageTab (c : Chip) (t i v : Nat) : (c.stageTab t i v).sorter = c.sorter := rfl
@[simp] theorem Chip.cooper_stageTab (c : Chip) (t i v : Nat) : (c.stageTab t i v).cooper = c.cooper := rfl
@[simp] theorem Chip.meters_stageTab (c : Chip) (t i v : Nat) : (c.stageTab t i v).meters = c.meters := rfl
@[simp] theorem Chip.drover_stageTab (c : Chip) (t i v : Nat) : (c.stageTab t i v).drover = c.drover := rfl
@[simp] theorem Chip.boot_stageTab (c : Chip) (t i v : Nat) : (c.stageTab t i v).boot = c.boot := rfl
@[simp] theorem Chip.flash_stageTab (c : Chip) (t i v : Nat) : (c.stageTab t i v).flash = c.flash := rfl
@[simp] theorem Chip.tribs_stageTab (c : Chip) (t i v : Nat) : (c.stageTab t i v).tribs = c.tribs := rfl
@[simp] theorem Chip.conts_stageTab (c : Chip) (t i v : Nat) : (c.stageTab t i v).conts = c.conts := rfl
@[simp] theorem Chip.tsi_stageTab (c : Chip) (t i v : Nat) : (c.stageTab t i v).tsi = c.tsi := rfl
@[simp] theorem Chip.time_stageTab (c : Chip) (t i v : Nat) : (c.stageTab t i v).time = c.time := rfl
@[simp] theorem Chip.cfg_stageTab (c : Chip) (t i v : Nat) : (c.stageTab t i v).cfg = c.cfg := rfl
@[simp] theorem Chip.ports_stageTab (c : Chip) (t i v : Nat) : (c.stageTab t i v).ports = c.ports := rfl
@[simp] theorem Chip.mdio_stageTab (c : Chip) (t i v : Nat) : (c.stageTab t i v).mdio = c.mdio := rfl
@[simp] theorem Chip.stampLatch_stageTab (c : Chip) (t i v : Nat) : (c.stageTab t i v).stampLatch = c.stampLatch := rfl
@[simp] theorem Chip.host_stageTab (c : Chip) (t i v : Nat) : (c.stageTab t i v).host = c.host := rfl
@[simp] theorem Chip.keys_stageTab (c : Chip) (t i v : Nat) : (c.stageTab t i v).keys = c.keys := rfl
@[simp] theorem Chip.i2c_stageTab (c : Chip) (t i v : Nat) : (c.stageTab t i v).i2c = c.i2c := rfl
@[simp] theorem Chip.mgtWrote_stageTab (c : Chip) (t i v : Nat) : (c.stageTab t i v).mgtWrote = c.mgtWrote := rfl
@[simp] theorem Chip.lockWritten_stageTab (c : Chip) (t i v : Nat) : (c.stageTab t i v).lockWritten = c.lockWritten := rfl

/-! ## setTrust -/

@[simp] theorem Chip.now_setTrust (c : Chip) (t : TrustRegion) : (c.setTrust t).now = c.now := rfl
@[simp] theorem Chip.nt_setTrust (c : Chip) (t : TrustRegion) : (c.setTrust t).nt = c.nt := rfl
@[simp] theorem Chip.regs_setTrust (c : Chip) (t : TrustRegion) : (c.setTrust t).regs = c.regs := rfl
@[simp] theorem Chip.store_setTrust (c : Chip) (t : TrustRegion) : (c.setTrust t).store = c.store := rfl
@[simp] theorem Chip.staged_setTrust (c : Chip) (t : TrustRegion) : (c.setTrust t).staged = c.staged := rfl
@[simp] theorem Chip.tables_setTrust (c : Chip) (t : TrustRegion) : (c.setTrust t).tables = c.tables := rfl
@[simp] theorem Chip.tableStore_setTrust (c : Chip) (t : TrustRegion) : (c.setTrust t).tableStore = c.tableStore := rfl
@[simp] theorem Chip.tableStaged_setTrust (c : Chip) (t : TrustRegion) : (c.setTrust t).tableStaged = c.tableStaged := rfl
@[simp] theorem Chip.everCommitted_setTrust (c : Chip) (t : TrustRegion) : (c.setTrust t).everCommitted = c.everCommitted := rfl
@[simp] theorem Chip.counters_setTrust (c : Chip) (t : TrustRegion) : (c.setTrust t).counters = c.counters := rfl
@[simp] theorem Chip.copies_setTrust (c : Chip) (t : TrustRegion) : (c.setTrust t).copies = c.copies := rfl
@[simp] theorem Chip.latch_setTrust (c : Chip) (t : TrustRegion) : (c.setTrust t).latch = c.latch := rfl
@[simp] theorem Chip.hold_setTrust (c : Chip) (t : TrustRegion) : (c.setTrust t).hold = c.hold := rfl
@[simp] theorem Chip.posted_setTrust (c : Chip) (t : TrustRegion) : (c.setTrust t).posted = c.posted := rfl
@[simp] theorem Chip.timers_setTrust (c : Chip) (t : TrustRegion) : (c.setTrust t).timers = c.timers := rfl
@[simp] theorem Chip.lastFrame_setTrust (c : Chip) (t : TrustRegion) : (c.setTrust t).lastFrame = c.lastFrame := rfl
@[simp] theorem Chip.freeCtr_setTrust (c : Chip) (t : TrustRegion) : (c.setTrust t).freeCtr = c.freeCtr := rfl
@[simp] theorem Chip.emitted_setTrust (c : Chip) (t : TrustRegion) : (c.setTrust t).emitted = c.emitted := rfl
@[simp] theorem Chip.power_setTrust (c : Chip) (t : TrustRegion) : (c.setTrust t).power = c.power := rfl
@[simp] theorem Chip.itm_setTrust (c : Chip) (t : TrustRegion) : (c.setTrust t).itm = c.itm := rfl
@[simp] theorem Chip.pins_setTrust (c : Chip) (t : TrustRegion) : (c.setTrust t).pins = c.pins := rfl
@[simp] theorem Chip.tal_setTrust (c : Chip) (t : TrustRegion) : (c.setTrust t).tal = c.tal := rfl
@[simp] theorem Chip.lineA_setTrust (c : Chip) (t : TrustRegion) : (c.setTrust t).lineA = c.lineA := rfl
@[simp] theorem Chip.lineB_setTrust (c : Chip) (t : TrustRegion) : (c.setTrust t).lineB = c.lineB := rfl
@[simp] theorem Chip.twoEnded_setTrust (c : Chip) (t : TrustRegion) : (c.setTrust t).twoEnded = c.twoEnded := rfl
@[simp] theorem Chip.sorter_setTrust (c : Chip) (t : TrustRegion) : (c.setTrust t).sorter = c.sorter := rfl
@[simp] theorem Chip.cooper_setTrust (c : Chip) (t : TrustRegion) : (c.setTrust t).cooper = c.cooper := rfl
@[simp] theorem Chip.meters_setTrust (c : Chip) (t : TrustRegion) : (c.setTrust t).meters = c.meters := rfl
@[simp] theorem Chip.drover_setTrust (c : Chip) (t : TrustRegion) : (c.setTrust t).drover = c.drover := rfl
@[simp] theorem Chip.boot_setTrust (c : Chip) (t : TrustRegion) : (c.setTrust t).boot = c.boot := rfl
@[simp] theorem Chip.flash_setTrust (c : Chip) (t : TrustRegion) : (c.setTrust t).flash = c.flash := rfl
@[simp] theorem Chip.tribs_setTrust (c : Chip) (t : TrustRegion) : (c.setTrust t).tribs = c.tribs := rfl
@[simp] theorem Chip.conts_setTrust (c : Chip) (t : TrustRegion) : (c.setTrust t).conts = c.conts := rfl
@[simp] theorem Chip.tsi_setTrust (c : Chip) (t : TrustRegion) : (c.setTrust t).tsi = c.tsi := rfl
@[simp] theorem Chip.time_setTrust (c : Chip) (t : TrustRegion) : (c.setTrust t).time = c.time := rfl
@[simp] theorem Chip.cfg_setTrust (c : Chip) (t : TrustRegion) : (c.setTrust t).cfg = c.cfg := rfl
@[simp] theorem Chip.ports_setTrust (c : Chip) (t : TrustRegion) : (c.setTrust t).ports = c.ports := rfl
@[simp] theorem Chip.mdio_setTrust (c : Chip) (t : TrustRegion) : (c.setTrust t).mdio = c.mdio := rfl
@[simp] theorem Chip.stampLatch_setTrust (c : Chip) (t : TrustRegion) : (c.setTrust t).stampLatch = c.stampLatch := rfl
@[simp] theorem Chip.host_setTrust (c : Chip) (t : TrustRegion) : (c.setTrust t).host = c.host := rfl
@[simp] theorem Chip.keys_setTrust (c : Chip) (t : TrustRegion) : (c.setTrust t).keys = c.keys := rfl
@[simp] theorem Chip.i2c_setTrust (c : Chip) (t : TrustRegion) : (c.setTrust t).i2c = c.i2c := rfl
@[simp] theorem Chip.mgtWrote_setTrust (c : Chip) (t : TrustRegion) : (c.setTrust t).mgtWrote = c.mgtWrote := rfl
@[simp] theorem Chip.lockWritten_setTrust (c : Chip) (t : TrustRegion) : (c.setTrust t).lockWritten = c.lockWritten := rfl

/-! ## A line changed -/

@[simp] theorem Chip.now_modLine (c : Chip) (x : Line) (g : LineState → LineState) : (c.modLine x g).now = c.now := by cases x <;> rfl
@[simp] theorem Chip.nt_modLine (c : Chip) (x : Line) (g : LineState → LineState) : (c.modLine x g).nt = c.nt := by cases x <;> rfl
@[simp] theorem Chip.regs_modLine (c : Chip) (x : Line) (g : LineState → LineState) : (c.modLine x g).regs = c.regs := by cases x <;> rfl
@[simp] theorem Chip.store_modLine (c : Chip) (x : Line) (g : LineState → LineState) : (c.modLine x g).store = c.store := by cases x <;> rfl
@[simp] theorem Chip.staged_modLine (c : Chip) (x : Line) (g : LineState → LineState) : (c.modLine x g).staged = c.staged := by cases x <;> rfl
@[simp] theorem Chip.tables_modLine (c : Chip) (x : Line) (g : LineState → LineState) : (c.modLine x g).tables = c.tables := by cases x <;> rfl
@[simp] theorem Chip.tableStore_modLine (c : Chip) (x : Line) (g : LineState → LineState) : (c.modLine x g).tableStore = c.tableStore := by cases x <;> rfl
@[simp] theorem Chip.tableStaged_modLine (c : Chip) (x : Line) (g : LineState → LineState) : (c.modLine x g).tableStaged = c.tableStaged := by cases x <;> rfl
@[simp] theorem Chip.everCommitted_modLine (c : Chip) (x : Line) (g : LineState → LineState) : (c.modLine x g).everCommitted = c.everCommitted := by cases x <;> rfl
@[simp] theorem Chip.counters_modLine (c : Chip) (x : Line) (g : LineState → LineState) : (c.modLine x g).counters = c.counters := by cases x <;> rfl
@[simp] theorem Chip.copies_modLine (c : Chip) (x : Line) (g : LineState → LineState) : (c.modLine x g).copies = c.copies := by cases x <;> rfl
@[simp] theorem Chip.latch_modLine (c : Chip) (x : Line) (g : LineState → LineState) : (c.modLine x g).latch = c.latch := by cases x <;> rfl
@[simp] theorem Chip.hold_modLine (c : Chip) (x : Line) (g : LineState → LineState) : (c.modLine x g).hold = c.hold := by cases x <;> rfl
@[simp] theorem Chip.posted_modLine (c : Chip) (x : Line) (g : LineState → LineState) : (c.modLine x g).posted = c.posted := by cases x <;> rfl
@[simp] theorem Chip.timers_modLine (c : Chip) (x : Line) (g : LineState → LineState) : (c.modLine x g).timers = c.timers := by cases x <;> rfl
@[simp] theorem Chip.lastFrame_modLine (c : Chip) (x : Line) (g : LineState → LineState) : (c.modLine x g).lastFrame = c.lastFrame := by cases x <;> rfl
@[simp] theorem Chip.freeCtr_modLine (c : Chip) (x : Line) (g : LineState → LineState) : (c.modLine x g).freeCtr = c.freeCtr := by cases x <;> rfl
@[simp] theorem Chip.emitted_modLine (c : Chip) (x : Line) (g : LineState → LineState) : (c.modLine x g).emitted = c.emitted := by cases x <;> rfl
@[simp] theorem Chip.power_modLine (c : Chip) (x : Line) (g : LineState → LineState) : (c.modLine x g).power = c.power := by cases x <;> rfl
@[simp] theorem Chip.itm_modLine (c : Chip) (x : Line) (g : LineState → LineState) : (c.modLine x g).itm = c.itm := by cases x <;> rfl
@[simp] theorem Chip.pins_modLine (c : Chip) (x : Line) (g : LineState → LineState) : (c.modLine x g).pins = c.pins := by cases x <;> rfl
@[simp] theorem Chip.tal_modLine (c : Chip) (x : Line) (g : LineState → LineState) : (c.modLine x g).tal = c.tal := by cases x <;> rfl
@[simp] theorem Chip.trust_modLine (c : Chip) (x : Line) (g : LineState → LineState) : (c.modLine x g).trust = c.trust := by cases x <;> rfl
@[simp] theorem Chip.twoEnded_modLine (c : Chip) (x : Line) (g : LineState → LineState) : (c.modLine x g).twoEnded = c.twoEnded := by cases x <;> rfl
@[simp] theorem Chip.sorter_modLine (c : Chip) (x : Line) (g : LineState → LineState) : (c.modLine x g).sorter = c.sorter := by cases x <;> rfl
@[simp] theorem Chip.cooper_modLine (c : Chip) (x : Line) (g : LineState → LineState) : (c.modLine x g).cooper = c.cooper := by cases x <;> rfl
@[simp] theorem Chip.meters_modLine (c : Chip) (x : Line) (g : LineState → LineState) : (c.modLine x g).meters = c.meters := by cases x <;> rfl
@[simp] theorem Chip.drover_modLine (c : Chip) (x : Line) (g : LineState → LineState) : (c.modLine x g).drover = c.drover := by cases x <;> rfl
@[simp] theorem Chip.boot_modLine (c : Chip) (x : Line) (g : LineState → LineState) : (c.modLine x g).boot = c.boot := by cases x <;> rfl
@[simp] theorem Chip.flash_modLine (c : Chip) (x : Line) (g : LineState → LineState) : (c.modLine x g).flash = c.flash := by cases x <;> rfl
@[simp] theorem Chip.tribs_modLine (c : Chip) (x : Line) (g : LineState → LineState) : (c.modLine x g).tribs = c.tribs := by cases x <;> rfl
@[simp] theorem Chip.conts_modLine (c : Chip) (x : Line) (g : LineState → LineState) : (c.modLine x g).conts = c.conts := by cases x <;> rfl
@[simp] theorem Chip.tsi_modLine (c : Chip) (x : Line) (g : LineState → LineState) : (c.modLine x g).tsi = c.tsi := by cases x <;> rfl
@[simp] theorem Chip.time_modLine (c : Chip) (x : Line) (g : LineState → LineState) : (c.modLine x g).time = c.time := by cases x <;> rfl
@[simp] theorem Chip.cfg_modLine (c : Chip) (x : Line) (g : LineState → LineState) : (c.modLine x g).cfg = c.cfg := by cases x <;> rfl
@[simp] theorem Chip.ports_modLine (c : Chip) (x : Line) (g : LineState → LineState) : (c.modLine x g).ports = c.ports := by cases x <;> rfl
@[simp] theorem Chip.mdio_modLine (c : Chip) (x : Line) (g : LineState → LineState) : (c.modLine x g).mdio = c.mdio := by cases x <;> rfl
@[simp] theorem Chip.stampLatch_modLine (c : Chip) (x : Line) (g : LineState → LineState) : (c.modLine x g).stampLatch = c.stampLatch := by cases x <;> rfl
@[simp] theorem Chip.host_modLine (c : Chip) (x : Line) (g : LineState → LineState) : (c.modLine x g).host = c.host := by cases x <;> rfl
@[simp] theorem Chip.keys_modLine (c : Chip) (x : Line) (g : LineState → LineState) : (c.modLine x g).keys = c.keys := by cases x <;> rfl
@[simp] theorem Chip.i2c_modLine (c : Chip) (x : Line) (g : LineState → LineState) : (c.modLine x g).i2c = c.i2c := by cases x <;> rfl
@[simp] theorem Chip.mgtWrote_modLine (c : Chip) (x : Line) (g : LineState → LineState) : (c.modLine x g).mgtWrote = c.mgtWrote := by cases x <;> rfl
@[simp] theorem Chip.lockWritten_modLine (c : Chip) (x : Line) (g : LineState → LineState) : (c.modLine x g).lockWritten = c.lockWritten := by cases x <;> rfl

@[simp] theorem Chip.line_modLine_same (c : Chip) (x : Line) (g : LineState → LineState) : (c.modLine x g).line x = g (c.line x) := by cases x <;> rfl
@[simp] theorem Chip.line_modLine_other (c : Chip) (x : Line) (g : LineState → LineState) : (c.modLine x g).line x.other = c.line x.other := by cases x <;> rfl

end Sys2Proof.Machine
end

