-- ==== Sys2Proof/Laws/Registers.lean ====
section
/-! SUPPORT. The laws of registers, their fields, counters and timers: a read after a write, and what a write leaves. -/

namespace Sys2Proof.Machine
open Sys2Proof

/-! ## Registers -/

@[simp] theorem Chip.reg_setReg_same (c : Chip) (a : Nat) (w : Word) : (c.setReg a w).reg a = w := Map.get_set_same _ _ _ _

theorem Chip.reg_setReg_other (c : Chip) {a i : Nat} (w : Word) (h : i ≠ a) : (c.setReg a w).reg i = c.reg i :=
  Map.get_set_other _ _ _ _ h

/-- A field written leaves every register at another address. -/
theorem Chip.reg_put_other (c : Chip) (x : Fld) (v : Nat) {i : Nat} (h : i ≠ x.addr) : (c.put x v).reg i = c.reg i :=
  c.reg_setReg_other _ h

/-- Two chips with the same register table read alike. -/
theorem Chip.reg_congr {c d : Chip} (h : d.regs = c.regs) (a : Nat) : d.reg a = c.reg a := by simp [Chip.reg, h]

theorem Chip.f_congr {c d : Chip} (h : d.regs = c.regs) (x : Fld) : d.f x = c.f x := by simp [Chip.f, Chip.reg, h]

theorem Chip.flag_congr {c d : Chip} (h : d.regs = c.regs) (x : Fld) : d.flag x = c.flag x := by simp [Chip.flag, Chip.f_congr h]

theorem Chip.isOn_congr {c d : Chip} (h : d.regs = c.regs) (k : Nat) : d.isOn k = c.isOn k := by simp [Chip.isOn, Chip.f_congr h]

/-! ## Fields -/

/-- A field written reads as the value, cut to its width. -/
theorem Chip.f_put_same (c : Chip) (x : Fld) (v : Nat) (h : x.lo + x.width ≤ 32) : (c.put x v).f x = v % 2 ^ x.width := by
  simp only [Chip.f, Chip.put, Chip.reg_setReg_same]
  exact wordBits_wordPut_same _ _ h

/-- A field written leaves every field of another register. -/
theorem Chip.f_put_other (c : Chip) (x y : Fld) (v : Nat) (h : y.addr ≠ x.addr) : (c.put x v).f y = c.f y := by
  simp only [Chip.f, Chip.reg_put_other c x v h]

/-- A field written leaves the fields of its register that it does not meet. -/
theorem Chip.f_put_apart (c : Chip) (x y : Fld) (v : Nat) (hw : x.lo + x.width ≤ 32)
    (h : y.addr = x.addr) (ha : y.lo + y.width ≤ x.lo ∨ x.lo + x.width ≤ y.lo) : (c.put x v).f y = c.f y := by
  simp only [Chip.f, Chip.put, h, Chip.reg_setReg_same]
  exact wordBits_wordPut_apart _ _ hw ha

theorem Chip.flag_raise_same (c : Chip) (x : Fld) (h : x.lo + x.width ≤ 32) (hw : 0 < x.width) : (c.raise x).flag x = true := by
  simp only [Chip.flag, Chip.raise, Chip.f_put_same c x 1 h, beq_iff_eq]
  exact Nat.mod_eq_of_lt (Nat.one_lt_two_pow (Nat.pos_iff_ne_zero.1 hw))

theorem Chip.flag_lower_same (c : Chip) (x : Fld) (h : x.lo + x.width ≤ 32) : (c.lower x).flag x = false := by
  simp [Chip.flag, Chip.lower, Chip.f_put_same c x 0 h]

/-! ## Counters -/

@[simp] theorem Chip.ctr_setCtr_same (c : Chip) (a : Nat) (v : DWord) : (c.setCtr a v).ctr a = v := Map.get_set_same _ _ _ _

theorem Chip.ctr_setCtr_other (c : Chip) {a i : Nat} (v : DWord) (h : i ≠ a) : (c.setCtr a v).ctr i = c.ctr i :=
  Map.get_set_other _ _ _ _ h

/-! ## Timers -/

/-- A timer started ends after its time. -/
@[simp] theorem Chip.deadline_start_same (c : Chip) (k : TimerKey) (n : Nat) : (c.start k n).deadline k = some (c.now + n) := by
  simp [Chip.deadline, Chip.start]

theorem Chip.deadline_stop_same (c : Chip) (k : TimerKey) : (c.stop k).deadline k = none := by
  simp [Chip.deadline, Chip.stop]

/-- A timer stopped leaves every other timer. -/
theorem Chip.deadline_stop_other (c : Chip) {k i : TimerKey} (h : i ≠ k) : (c.stop k).deadline i = c.deadline i := by
  simp only [Chip.deadline, Chip.stop]
  congr 1
  induction c.timers with
  | nil => rfl
  | cons e r ih =>
    by_cases hk : e.1 = k
    · simp [hk, Ne.symm h, ih]
    · have : (e.1 != k) = true := by simp [hk]
      simp only [List.filter, this, List.find?]
      rw [ih]

/-- A timer started leaves every other timer. -/
theorem Chip.deadline_start_other (c : Chip) {k i : TimerKey} (n : Nat) (h : i ≠ k) : (c.start k n).deadline i = c.deadline i := by
  rw [← c.deadline_stop_other h]
  have hk : (k == i) = false := by simp [Ne.symm h]
  simp only [Chip.deadline, Chip.start, List.find?_cons, hk]

end Sys2Proof.Machine
end

