-- ==== Sys2Proof/Laws/Frame.lean ====
section
/-! SUPPORT. The calculus of what an operation leaves as it was: `Chip.Within` for every shared operation, so that what a command
leaves follows from the operations it is made of. -/

namespace Sys2Proof.Machine
open Sys2Proof

variable {R C : Nat → Bool} {K : TimerKey → Bool} {ps : List Piece} {c d e : Chip}

namespace Chip.Within

theorem refl (R C K ps) (c : Chip) : Chip.Within R C K ps c c := ⟨fun _ _ _ _ => rfl, fun _ _ _ => rfl, fun _ _ _ => rfl, rfl⟩

theorem trans (h : Chip.Within R C K ps c d) (k : Chip.Within R C K ps d e) : Chip.Within R C K ps c e where
  reg a h1 h2 h3 := (k.reg a h1 h2 h3).trans (h.reg a h1 h2 h3)
  ctr a h1 h2 := (k.ctr a h1 h2).trans (h.ctr a h1 h2)
  timer t h1 h2 := (k.timer t h1 h2).trans (h.timer t h1 h2)
  body := k.body.trans h.body

/-- A piece changed, with the registers, the counters and the timers as they were. -/
theorem piece (hr : d.regs = c.regs) (hc : d.counters = c.counters) (ht : d.timers = c.timers) (hb : d.body ps = c.body ps) :
    Chip.Within R C K ps c d where
  reg a _ _ _ := Chip.reg_congr hr a
  ctr a _ _ := by simp [Chip.ctr, hc]
  timer t _ _ := by simp [Chip.deadline, ht]
  body := hb

/-- A register written that is named, or follows other state. -/
theorem setReg {a : Nat} (w : Word) (h : R a = true ∨ standingReg a = true ∨ tallyPage a = true) : Chip.Within R C K ps c (c.setReg a w) where
  reg i h1 h2 h3 := c.reg_setReg_other w fun e => by subst e; simp_all
  ctr _ _ _ := rfl
  timer _ _ _ := rfl
  body := rfl

theorem put {x : Fld} (v : Nat) (h : R x.addr = true ∨ standingReg x.addr = true ∨ tallyPage x.addr = true) :
    Chip.Within R C K ps c (c.put x v) := setReg _ h

theorem raise {x : Fld} (h : R x.addr = true ∨ standingReg x.addr = true ∨ tallyPage x.addr = true) :
    Chip.Within R C K ps c (c.raise x) := put _ h

theorem lower {x : Fld} (h : R x.addr = true ∨ standingReg x.addr = true ∨ tallyPage x.addr = true) :
    Chip.Within R C K ps c (c.lower x) := put _ h

theorem putB {x : Fld} (b : Bool) (h : R x.addr = true ∨ standingReg x.addr = true ∨ tallyPage x.addr = true) :
    Chip.Within R C K ps c (c.putB x b) := put _ h

theorem raiseBit {x : Fld} (k : Nat) (h : R x.addr = true ∨ standingReg x.addr = true ∨ tallyPage x.addr = true) :
    Chip.Within R C K ps c (c.raiseBit x k) := put _ h

theorem lowerBit {x : Fld} (k : Nat) (h : R x.addr = true ∨ standingReg x.addr = true ∨ tallyPage x.addr = true) :
    Chip.Within R C K ps c (c.lowerBit x k) := put _ h

theorem setCtr {a : Nat} (v : DWord) (h : C a = true ∨ tallyPage a = true) : Chip.Within R C K ps c (c.setCtr a v) where
  reg _ _ _ _ := rfl
  ctr i h1 h2 := c.ctr_setCtr_other v fun e => by subst e; simp_all
  timer _ _ _ := rfl
  body := rfl

theorem stop {k : TimerKey} (h : K k = true ∨ standingWait k = true) : Chip.Within R C K ps c (c.stop k) where
  reg _ _ _ _ := rfl
  ctr _ _ _ := rfl
  timer i h1 h2 := c.deadline_stop_other fun e => by subst e; simp_all
  body := rfl

theorem start {k : TimerKey} (n : Nat) (h : K k = true ∨ standingWait k = true) : Chip.Within R C K ps c (c.start k n) where
  reg _ _ _ _ := rfl
  ctr _ _ _ := rfl
  timer i h1 h2 := c.deadline_start_other n fun e => by subst e; simp_all
  body := rfl

/-- A line changed whose state is named. -/
theorem modLine {x : Line} (g : LineState → LineState) (h : Piece.line x ∈ ps) : Chip.Within R C K ps c (c.modLine x g) :=
  piece (by simp) (by simp) (by simp) (by cases x <;> simp [Chip.body, keep, Chip.modLine, Chip.setLine, h])

/-- An output sent, where outputs are named. -/
theorem emit (o : Output) (h : Piece.sent ∈ ps) : Chip.Within R C K ps c (c.emit o) :=
  piece rfl rfl rfl (by simp [Chip.body, keep, Chip.emit, h])

/-- A message sent. -/
theorem message (a : Nat) (w : Word) : Chip.Within R C K ps c (c.emit (.msix a w)) :=
  piece rfl rfl rfl (by simp [Chip.body, Chip.emit, Output.isMessage])

end Chip.Within

end Sys2Proof.Machine
end

