-- ==== Sys2Proof/Laws/Tallyman.lean ====
section
/-! SUPPORT. The Tallyman counts every command's events and changes nothing else: the frame of pulses and counts. -/

namespace Sys2Proof.Machine
open Sys2Proof

variable {R C : Nat → Bool} {K : TimerKey → Bool} {ps : List Piece} {c : Chip}

/-- A loop leaves what each of its rounds leaves. -/
theorem Chip.Within.foldl {α : Type} (f : Chip → α → Chip) (l : List α) (h : ∀ c, ∀ x ∈ l, Chip.Within R C K ps c (f c x)) (c : Chip) :
    Chip.Within R C K ps c (l.foldl f c) := by
  induction l generalizing c with
  | nil => exact .refl ..
  | cons x r ih =>
    rw [List.foldl_cons]
    exact (h c x List.mem_cons_self).trans (ih (fun c y hy => h c y (List.mem_cons_of_mem _ hy)) _)

/-- Only the Tallyman's own state changed. -/
theorem Chip.Within.tal (c : Chip) (t : TalState) : Chip.Within R C K ps c { c with tal := t } := .piece rfl rfl rfl rfl

theorem Chip.storeSample_only (c : Chip) (g k skid : Nat) (a : PacketAttr) : Chip.Within R C K ps c (c.storeSample g k skid a) := by
  unfold Chip.storeSample
  split
  · exact ((Chip.Within.tal c _).trans (.put _ (.inr (.inr (by decide))))).trans (.raise (.inr (.inr (by decide))))
  · exact ((Chip.Within.tal c _).trans (.setCtr _ (.inr (by decide)))).trans (.raise (.inr (.inr (by decide))))

theorem Chip.talAdd_only (c : Chip) {a g : Nat} (o n : Nat) (ha : tallyPage a = true) (hg : g < 64) :
    Chip.Within R C K ps c (c.talAdd a o g n).1 := by
  have hov : tallyPage (TAL_G_OVF g) = true := by
    simp only [tallyPage, TAL_G_OVF, beq_iff_eq, Bool.or_eq_true]; omega
  unfold Chip.talAdd
  dsimp only
  split
  · exact .setCtr _ (.inr ha)
  · exact (Chip.Within.setCtr _ (.inr ha)).trans (.setReg _ (.inr (.inr hov)))

theorem Chip.awaitSample_only (c : Chip) (g k : Nat) (a : Option PacketAttr) : Chip.Within R C K ps c (c.awaitSample g k a) := by
  unfold Chip.awaitSample
  dsimp only
  split
  · exact .refl ..
  · split
    · exact (Chip.Within.tal c _).trans (Chip.storeSample_only ..)
    · split
      · exact .tal ..
      · exact (Chip.Within.tal c _).trans (Chip.storeSample_only ..)

theorem tallyPage_cnt {g k : Nat} (hg : g < 63) (hk : k < 8) : tallyPage (TAL_G_CNT_LO g k) = true := by
  simp only [tallyPage, TAL_G_CNT_LO, beq_iff_eq, Bool.or_eq_true]; omega

/-- A programmable counter counts. -/
theorem Chip.talCount_only (c : Chip) {g k : Nat} (n : Nat) (a : Option PacketAttr) (hg : g < 63) (hk : k < 8) :
    Chip.Within R C K ps c (c.talCount g k n a) := by
  unfold Chip.talCount
  have h1 := Chip.awaitSample_only (R := R) (C := C) (K := K) (ps := ps) c g k a
  have h2 := fun d => Chip.talAdd_only (R := R) (C := C) (K := K) (ps := ps) (c.awaitSample g k a) (a := TAL_G_CNT_LO g k) (g := g) k d
    (tallyPage_cnt hg hk) (by omega)
  dsimp only
  split
  · split
    · exact (h1.trans (h2 _)).trans (Chip.storeSample_only ..)
    · exact (h1.trans (h2 _)).trans (.tal ..)
  · exact h1.trans (h2 _)

/-- An event's pulses change the Tallyman alone. -/
theorem Chip.pulse_only (c : Chip) {g : Nat} (e : Nat) (sel : Option Nat) (n : Nat) (a : Option PacketAttr) (hg : g < 63) :
    Chip.Within R C K ps c (c.pulse g e sel n a) := by
  unfold Chip.pulse
  split
  · exact .refl ..
  · refine .foldl _ _ (fun c k hk => ?_) c
    dsimp only
    split
    · exact Chip.talCount_only c n a hg (List.mem_range.1 hk)
    · exact .refl ..

theorem talSource_lt {a g e : Nat} {sel : Option Nat} (h : talSource a = some (g, e, sel)) : g < 63 := by
  unfold talSource at h
  simp only at h
  split at h <;> first
    | (simp only [Option.some.injEq, Prod.mk.injEq] at h; omega)
    | (split at h <;> simp only [Option.some.injEq, Prod.mk.injEq] at h <;> first | omega | (split at h <;> omega))
    | (cases h)

/-- A block counter counts: it and the Tallyman change. -/
theorem Chip.count_only (c : Chip) {a : Nat} (n : Nat) (at_ : Option PacketAttr) (h : C a = true) :
    Chip.Within R C K ps c (c.count a n at_) := by
  unfold Chip.count
  have h1 : Chip.Within R C K ps c (c.setCtr a (c.ctr a + BitVec.ofNat 64 n)) := .setCtr _ (.inl h)
  dsimp only
  split
  · rename_i g e sel hs
    split
    · exact h1
    · exact h1.trans (Chip.pulse_only _ e sel n at_ (talSource_lt hs))
  · exact h1

/-- The counter itself counts on, whatever the Tallyman does. -/
theorem Chip.ctr_count (c : Chip) {a : Nat} (n : Nat) (at_ : Option PacketAttr) (h : tallyPage a = false) :
    (c.count a n at_).ctr a = c.ctr a + BitVec.ofNat 64 n := by
  unfold Chip.count
  dsimp only
  split
  · rename_i g e sel hs
    split
    · simp
    · have := (Chip.pulse_only (R := fun _ => false) (C := fun _ => false) (K := fun _ => false) (ps := []) (c.setCtr a (c.ctr a + BitVec.ofNat 64 n)) e sel n at_ (talSource_lt hs)).ctr a
        (by simp) h
      simpa using this
  · simp

end Sys2Proof.Machine
end

