-- ==== Sys2Proof/Laws/Settle.lean ====
section
/-! SUPPORT. What follows every command: the standing registers and waits come in line and messages are sent, and nothing else
changes; and what the three ways of running a command leave. -/

namespace Sys2Proof.Machine
open Sys2Proof

variable {R C : Nat → Bool} {K : TimerKey → Bool} {ps : List Piece}

theorem standingReg_sel {k : Nat} (h : k < 32) : standingReg (TWE_SEL_STATUS k) = true := by
  have : ((List.range 32).any fun j => TWE_SEL_STATUS k == TWE_SEL_STATUS j) = true :=
    List.any_eq_true.2 ⟨k, List.mem_range.2 h, by simp⟩
  simp [standingReg, this]

theorem Chip.judgeClock_only (c : Chip) : Chip.Within R C K ps c c.judgeClock := by
  have h1 : standingReg CLK_STATUS = true := by decide
  have h2 : standingReg CLK_ALARM = true := by decide
  have ha : ∀ (d : Chip) (n : Nat), Chip.Within R C K ps d (if d.f CLK_STATUS_CORE_SRC = n then d else (d.put CLK_STATUS_CORE_SRC n).raise CLK_ALARM_SRC_CHG) := by
    intro d n
    split
    · exact .refl ..
    · exact (Chip.Within.put (x := CLK_STATUS_CORE_SRC) _ (.inr (.inl h1))).trans (.raise (x := CLK_ALARM_SRC_CHG) (.inr (.inl h2)))
  have hb : ∀ (d : Chip) (b : Bool), Chip.Within R C K ps d
      (if d.flag CLK_STATUS_PLL_LOCK && !b then (d.lower CLK_STATUS_PLL_LOCK).raise CLK_ALARM_PLL_UNLOCK else d.putB CLK_STATUS_PLL_LOCK b) := by
    intro d b
    split
    · exact (Chip.Within.lower (x := CLK_STATUS_PLL_LOCK) (.inr (.inl h1))).trans (.raise (x := CLK_ALARM_PLL_UNLOCK) (.inr (.inl h2)))
    · exact .putB (x := CLK_STATUS_PLL_LOCK) _ (.inr (.inl h1))
  exact (ha c _).trans (hb _ _)

theorem Chip.judgeTraceable_only (c : Chip) : Chip.Within R C K ps c c.judgeTraceable :=
  .putB _ (.inr (.inl (by decide)))

theorem Chip.waitWhile_only (c : Chip) (k : TimerKey) (on : Bool) (n : Nat) (h : standingWait k = true) :
    Chip.Within R C K ps c (c.waitWhile k on n) := by
  unfold Chip.waitWhile
  split
  · split
    · exact .refl ..
    · exact .start _ (.inr h)
  · exact .stop (.inr h)

theorem Chip.judgeWaits_only (c : Chip) : Chip.Within R C K ps c c.judgeWaits := by
  unfold Chip.judgeWaits
  dsimp only
  have h : ∀ x : Fld, x.addr = TWE_STATUS → standingReg x.addr = true := fun x hx => by rw [hx]; decide
  exact ((((((Chip.waitWhile_only c _ _ _ rfl).trans (Chip.waitWhile_only _ _ _ _ rfl)).trans (.putB _ (.inr (.inl (h _ rfl))))).trans
    (.putB _ (.inr (.inl (h _ rfl))))).trans (.putB _ (.inr (.inl (h _ rfl))))).trans (.putB _ (.inr (.inl (h _ rfl)))))

theorem Chip.judgePair_only (c : Chip) {k : Nat} (hk : k < 32) : Chip.Within R C K ps c (c.judgePair k) := by
  have h : ∀ x : Fld, x.addr = TWE_SEL_STATUS k → standingReg x.addr = true := fun x hx => by rw [hx]; exact standingReg_sel hk
  unfold Chip.judgePair
  split
  · exact ((Chip.Within.stop (.inr rfl)).trans (.stop (.inr rfl))).trans (.setReg _ (.inr (.inl (standingReg_sel hk))))
  · dsimp only
    refine .trans ?_ (.putB _ (.inr (.inl (h (TWE_SEL_STATUS_WTR_RUN k) rfl))))
    refine .trans ?_ (Chip.waitWhile_only _ _ _ _ rfl)
    refine .trans ?_ (Chip.waitWhile_only _ _ _ _ rfl)
    exact (Chip.Within.putB _ (.inr (.inl (h (TWE_SEL_STATUS_DEF_A k) rfl)))).trans (.putB _ (.inr (.inl (h (TWE_SEL_STATUS_DEF_B k) rfl))))

theorem Chip.judgeLeaves_only (c : Chip) : Chip.Within R C K ps c c.judgeLeaves := by
  unfold Chip.judgeLeaves
  split
  · exact (Chip.Within.raise (.inr (.inl (by decide)))).trans (.raise (.inr (.inl (by decide))))
  · exact .refl ..

/-- What holds at every moment is held in the standing registers and waits alone. -/
theorem Chip.stand_only (c : Chip) : Chip.Within R C K ps c c.stand := by
  unfold Chip.stand
  dsimp only
  have h1 : ∀ d : Chip, Chip.Within R C K ps d (if d.isOn 47 then d.judgeClock.judgeTraceable else d) := by
    intro d
    split
    · exact (Chip.judgeClock_only d).trans (Chip.judgeTraceable_only _)
    · exact .refl ..
  have h2 : ∀ d : Chip, Chip.Within R C K ps d (if d.isOn 7 then d.judgeWaits else d) := by
    intro d
    split
    · exact Chip.judgeWaits_only d
    · exact .refl ..
  have h3 : ∀ (d : Chip) (l : List Nat), (∀ k ∈ l, k < 32) → Chip.Within R C K ps d (l.foldl Chip.judgePair d) :=
    fun d l hl => .foldl _ _ (fun e k hk => Chip.judgePair_only e (hl k hk)) d
  have h4 : ∀ d : Chip, Chip.Within R C K ps d (if d.boot.started then d.judgeLeaves else d) := by
    intro d
    split
    · exact Chip.judgeLeaves_only d
    · exact .refl ..
  refine (h1 c).trans ((h2 _).trans ((h3 _ _ fun k hk => ?_).trans (h4 _)))
  exact List.mem_range.1 (List.mem_filter.1 hk).1

/-! ## Messages -/

theorem Chip.vector_only (c : Chip) (v : Nat) : Chip.Within R C K ps c (c.vector v) := by
  unfold Chip.vector
  split
  · exact .refl ..
  · split
    · exact .piece rfl rfl rfl (by simp [Chip.body, Chip.modHost])
    · exact .message ..

theorem Chip.blockMessage_only (c : Chip) (k : Nat) : Chip.Within R C K ps c (c.blockMessage k) := by
  unfold Chip.blockMessage
  split
  · exact Chip.vector_only ..
  · exact .refl ..

/-- What follows every command changes no other piece of the terminal. -/
theorem settle_only (b c : Chip) : Chip.Within R C K ps c (settle b c) := by
  unfold settle
  refine (Chip.stand_only c).trans (.foldl _ _ (fun d k _ => ?_) _)
  split
  · exact Chip.blockMessage_only ..
  · exact .refl ..

/-! ## The three ways of running a command -/

theorem run_does {s : State} {act : Chip → Chip} {P : Chip → Prop} (h : P (settle s.chip (act s.chip))) :
    ∃ t, run s act = .next t ∧ t.pending = s.pending ∧ t.otp = s.otp ∧ P t.chip := ⟨_, rfl, rfl, rfl, h⟩

theorem runFuse_does {s : State} {act : Otp → Chip → Chip × Otp} {P : Chip → Otp → Prop}
    (h : P (settle s.chip (act s.otp s.chip).1) (act s.otp s.chip).2) :
    ∃ t, runFuse s act = .next t ∧ t.pending = s.pending ∧ P t.chip t.otp := ⟨_, rfl, rfl, h⟩

/-- A register that follows nothing reads after a command as the command left it. -/
theorem reg_settle (b c : Chip) {a : Nat} (h : standingReg a = false) (ht : tallyPage a = false) : (settle b c).reg a = c.reg a :=
  (settle_only (R := fun _ => false) (C := fun _ => false) (K := fun _ => false) (ps := []) b c).reg a (by simp) h ht

theorem f_settle (b c : Chip) (x : Fld) (h : standingReg x.addr = false) (ht : tallyPage x.addr = false) : (settle b c).f x = c.f x := by
  simp [Chip.f, reg_settle b c h ht]

theorem flag_settle (b c : Chip) (x : Fld) (h : standingReg x.addr = false) (ht : tallyPage x.addr = false) : (settle b c).flag x = c.flag x := by
  simp [Chip.flag, f_settle b c x h ht]

theorem ctr_settle (b c : Chip) {a : Nat} (ht : tallyPage a = false) : (settle b c).ctr a = c.ctr a :=
  (settle_only (R := fun _ => false) (C := fun _ => false) (K := fun _ => false) (ps := []) b c).ctr a (by simp) ht

theorem deadline_settle (b c : Chip) {k : TimerKey} (h : standingWait k = false) : (settle b c).deadline k = c.deadline k :=
  (settle_only (R := fun _ => false) (C := fun _ => false) (K := fun _ => false) (ps := []) b c).timer k (by simp) h

theorem body_settle (b c : Chip) (ps : List Piece) : (settle b c).body ps = c.body ps :=
  (settle_only (R := fun _ => false) (C := fun _ => false) (K := fun _ => false) (ps := ps) b c).body

end Sys2Proof.Machine
end

