-- ==== Sys2Proof/WellFormed.lean ====
section
/-! DEFINITION. Which commands are well formed: the ranges and lengths the spec gives the operands that Lean's types leave wider
(register addresses, indices of ports, tributaries, domains and entries, fields of messages, descriptors and requests). -/

namespace Sys2Proof
open Sys2Proof.Machine

/-- A word of the register map, in the privileged or the user view (R345, R347). -/
def regAddr (a : Nat) : Bool := decide (a < 2 ^ 25) && decide (a % 4 = 0)

/-- A message whose fields fit Table 3.4. -/
def Machine.Msg.wf (m : Msg) : Bool :=
  decide (m.fn < 2 ^ 48) && decide (m.tid < 1024) && decide (m.seq < 2 ^ 32) && decide (m.mic.length = 8)

/-- A frame whose payload has the 1,416,070 bytes of Table 2.1, or whose symbols are PAM4 levels. -/
def Machine.FrameRx.wf : FrameRx → Bool
  | .decoded f => decide (f.payload.length = 1416070)
  | .symbols levels => levels.all fun l => decide (l < 4)

/-- Whether a command's operands lie in their ranges. -/
def Instr.wf (i : Instr) : Bool :=
  match i with
  | .powerOnReset => true
  | .aonBrownout => true
  | .startup r => decide (r.flashMode < 3) && r.noWake.all (fun e => e.1 < 50)
  | .registerWrite _ a _ => regAddr a
  | .w1cWrite _ a _ => regAddr a
  | .maskedWrite _ a _ _ => regAddr a
  | .shadowWrite _ a _ => regAddr a
  | .pairLoRead _ a => regAddr a
  | .pairHiRead _ a => regAddr a
  | .pairLoWrite _ a _ => regAddr a
  | .pairHiWrite _ a _ => regAddr a
  | .postedWrite _ a _ => regAddr a
  | .postedWriteTaken _ => true
  | .eventFire => true
  | .slotArm _ _ _ _ _ _ => true
  | .slotFree _ _ => true
  | .requirementWrite _ _ _ => true
  | .expressGrantWrite _ _ _ _ => true
  | .ntuTableRead _ _ _ => true
  | .ntCapture _ => true
  | .commitRequest _ _ _ => true
  | .commitCheckEnd => true
  | .commitApply => true
  | .commitCancel _ => true
  | .stagedDiscard _ => true
  | .rootBind _ _ => true
  | .objectStart _ _ _ => true
  | .objectEnd _ => true
  | .configImageDelivered _ _ => true
  | .configDeltaDelivered _ => true
  | .firmwareDelivered _ _ => true
  | .savePrepare _ _ _ => true
  | .saveReady => true
  | .saveSignature _ _ => true
  | .nvmReadWord _ _ => true
  | .nvmProgramWord _ _ _ => true
  | .nvmEraseSector _ _ => true
  | .nvmCmdDone _ => true
  | .mgtWrite _ _ => true
  | .mgtRead _ => true
  | .mgtStatus => true
  | .mgtBadCommand _ => true
  | .fwHeartbeat load0 load1 => decide (load0 ≤ 100) && decide (load1 ≤ 100)
  | .faultLogCopy _ => true
  | .losRise _ _ => true
  | .losClear _ _ => true
  | .acquisition _ foms taps => decide (foms.length = 16) && decide (taps.length = 15)
  | .acquisitionRestart _ => true
  | .lofReacquire _ => true
  | .fomUpdate _ _ => true
  | .eqOverrideWrite _ _ _ _ => true
  | .syncField _ _ _ errors hdr cif => decide (errors ≤ 64) && decide (hdr.length = 32) && decide (cif < 187500)
  | .directedReacq _ e0 h0 e1 h1 => decide (e0 ≤ 64) && decide (h0.length = 32) && decide (e1 ≤ 64) && decide (h1.length = 32)
  | .downstreamFrame _ r => r.wf
  | .berWindowEnd _ _ => true
  | .profile _ m ps => m.wf && decide (ps.length = 4) && ps.all (fun p => p.len < 2 ^ 16)
  | .tidAssign _ m serial tid => m.wf && decide (serial < 2 ^ 64) && decide (tid < 1024)
  | .eqdAssign _ m eqd fn => m.wf && decide (eqd < 2 ^ 22) && decide (fn < 2 ^ 48)
  | .eqdAdjust _ m _ fn => m.wf && decide (fn < 2 ^ 48)
  | .eqdTakeEffect _ => true
  | .allocAssign _ m n es => m.wf && decide (n < 256) && decide (es.length ≤ 8) && es.all (fun e => e.alloc < 2 ^ 16 && e.port < 256 && e.flags < 256)
  | .nonce _ m bytes => m.wf && decide (bytes.length = 32)
  | .attestSigned _ _ => true
  | .headEndProof _ => true
  | .bulkAnnounce _ m type size hash => m.wf && decide (type < 256) && decide (size < 2 ^ 32) && decide (hash.length = 32)
  | .keyRoll _ m first last gen fn => m.wf && decide (first < 2 ^ 16) && decide (last < 2 ^ 16) && decide (gen < 256) && decide (fn < 2 ^ 48)
  | .keyRollOverlapEnd _ => true
  | .sleepGrant _ m mode start wake => m.wf && decide (mode < 256) && decide (start < 2 ^ 48) && decide (wake < 2 ^ 48)
  | .sleepStart _ => true
  | .tod _ m fn sec ns => m.wf && decide (fn < 2 ^ 48) && decide (sec < 2 ^ 48) && decide (ns < 2 ^ 32)
  | .emergencyStop _ m serial _ => m.wf && decide (serial < 2 ^ 64)
  | .silenceEntry _ _ => true
  | .silenceRecordRetry _ _ => true
  | .silenceRelease _ m serial size => m.wf && decide (serial < 2 ^ 64) && decide (size < 2 ^ 32)
  | .silenceReleaseObject _ => true
  | .silenceReleaseTimeout _ => true
  | .deactivate _ m serial => m.wf && decide (serial < 2 ^ 64)
  | .regAccess _ m n es => m.wf && decide (n < 256) && decide (es.length ≤ 4) && es.all (fun e => e.op < 256 && e.addr < 2 ^ 24)
  | .regAccessRun _ => true
  | .lomTimeout _ => true
  | .annWaitExpiry _ => true
  | .rangeToExpiry _ => true
  | .proveToExpiry _ => true
  | .holdExpiry _ => true
  | .announceHoldoffEnd _ => true
  | .announce _ => true
  | .rangingResp _ => true
  | .upstreamBurst _ => true
  | .activeLineSwitch => true
  | .actWtrExpiry => true
  | .mergePacket => true
  | .mergeStateRead _ _ => true
  | .gapExpiry flow => decide (flow < 4096)
  | .flowIdleExpiry flow => decide (flow < 4096)
  | .referenceAgeing => true
  | .trackUpdate _ _ _ => true
  | .tmSwitch => true
  | .tmRevert => true
  | .selSwitch k => decide (k < 32)
  | .containerDelivery => true
  | .carriageFrame _ hdr _ _ _ => decide (hdr.length = 10)
  | .reasmTimeout _ => true
  | .bulkSegment _ => true
  | .flowTableWrite _ _ _ => true
  | .flowTableRead _ _ => true
  | .codewordRebuild _ _ => true
  | .codewordCommit _ => true
  | .expressStage _ p => decide (p < 64)
  | .classify _ => true
  | .fragEntryAged => true
  | .ruleEntryWrite _ _ ws => decide (ws.length = 25)
  | .ruleEntryRead _ _ => true
  | .fragEntryRead _ _ => true
  | .actionCounterRead _ _ => true
  | .actionCounterClear _ _ => true
  | .meterUpdate => true
  | .admission => true
  | .schedulerSelect p => decide (p < 152)
  | .queueEntryWrite _ _ ws => decide (ws.length = 2)
  | .queueEntryRead _ _ _ => true
  | .meterEntryWrite _ _ ws => decide (ws.length = 5)
  | .meterEntryRead _ _ => true
  | .meterCounterRead _ _ => true
  | .meterCounterClear _ _ => true
  | .schedEntryWrite _ _ _ ws => decide (ws.length = 5)
  | .schedEntryRead _ _ _ => true
  | .ethRxFrame n r => decide (n < 20) && decide (r.frac < 256)
  | .pauseTimerExpiry n => decide (n < 20)
  | .xoffChange n => decide (n < 20)
  | .xoffRefresh n => decide (n < 20)
  | .ethTxFrame n _ frac => decide (n < 20) && decide (frac < 256)
  | .preemption n _ frac => decide (n < 4) && decide (frac < 256)
  | .mmVerify n _ => decide (n < 4)
  | .linkChange n r => decide (n < 20) && decide (r.lanes.length ≤ 4)
  | .polarityTryExpiry l => decide (l < 24)
  | .laneAlignmentLock map => decide (map < 256)
  | .largeSend _ _ _ _ => true
  | .listenFrame n _ => decide (n < 20)
  | .tsqRead _ n => decide (n < 20)
  | .mdioC22Write _ k _ _ _ => decide (k < 2)
  | .mdioC22Read _ k _ _ => decide (k < 2)
  | .mdioC45Address _ k _ _ _ => decide (k < 2)
  | .mdioC45Write _ k _ _ _ => decide (k < 2)
  | .mdioC45ReadInc _ k _ _ => decide (k < 2)
  | .mdioC45Read _ k _ _ => decide (k < 2)
  | .mdioFrameEnd k _ _ => decide (k < 2)
  | .wakePatternWrite _ _ _ _ _ => true
  | .wakePatternRead _ _ _ _ => true
  | .tribE1Frame n row => decide (n < 32) && decide (row.length = 32)
  | .tribClockLoss n => decide (n < 32)
  | .mfSearchExpiry n => decide (n < 32)
  | .intwkDeclare n => decide (n < 32)
  | .usContainerBuild => true
  | .tsiFrame ecc => ecc.all (fun e => e.1 < 4096)
  | .cmStandbyWrite _ _ _ => true
  | .cmActiveWrite _ _ _ => true
  | .cmRead _ _ _ => true
  | .monitorCountRead _ _ => true
  | .monitorCountClear _ _ => true
  | .cmCopy _ => true
  | .cmCopyDone => true
  | .ntSet _ => true
  | .ntLock => true
  | .holdoverEntry => true
  | .holdoverAged => true
  | .holdoverExit _ _ => true
  | .hoWindowEnd _ => true
  | .ppsOutPulse => true
  | .ppsInEdge frac => decide (frac < 256)
  | .ppsInLoss => true
  | .ptpSync n => decide (n < 20)
  | .ptpAnnounce n => decide (n < 20)
  | .ptpDelayReq n _ _ => decide (n < 20)
  | .lineWakeStart _ => true
  | .boundLost n => decide (n < 4)
  | .configRequest _ => true
  | .hostLinkDown _ => true
  | .flr => true
  | .busMasterDisable => true
  | .doorbellWrite off _ => decide (off < 2 ^ 18) && decide (off % 4 = 0)
  | .ringEnable _ p _ => decide (p < 48)
  | .txRingFrame descs _ => descs.all (fun d => d.1.length = 32)
  | .rxRingDeliver descs _ _ => descs.all (fun d => d.length = 32)
  | .msixSend p => decide (p < 48)
  | .msixUnmask v => decide (v < 64)
  | .hostTdmRead half => half.all (fun b => b.length = 512)
  | .hostTdmWrite => true
  | .xtsEncrypt req _ _ => decide (req.length = 64)
  | .xtsDecrypt req _ _ => decide (req.length = 64)
  | .gcmEncrypt req _ _ _ => decide (req.length = 64)
  | .gcmDecrypt req _ _ _ => decide (req.length = 64)
  | .sha384 req _ _ => decide (req.length = 64)
  | .keyLoad _ _ => true
  | .keyErase _ _ => true
  | .keyXpub _ => true
  | .keyImport _ _ => true
  | .keyInfo _ _ => true
  | .keyBufAccess _ _ => true
  | .counterSnapshot _ => true
  | .counterFreeze _ => true
  | .counterRelease _ => true
  | .counterOverflow g k _ _ => decide (g < 24) && decide (k < 8)
  | .sampleRead _ => true
  | .bwWindowEnd => true
  | .powerRequestDomain _ _ _ => true
  | .listenEnter _ _ => true
  | .listenLeave _ _ => true
  | .quiesceEnd d => decide (d < 50)
  | .drainTimeout d => decide (d < 50)
  | .drainRetry => true
  | .wakeStepReady d _ => decide (d < 50)
  | .wakeStepTimeout d => decide (d < 50)
  | .wakeComplete d _ => decide (d < 50)
  | .wakeEvent k => decide (k < 23)
  | .faultDetected reports => reports.all (fun r => r.cls < 18 && r.dom < 64)
  | .safeExit _ => true
  | .watchdogExpiry p => decide (p < 2)
  | .watchdogKick _ _ => true
  | .monitorHeartbeatMiss => true
  | .tempSample _ _ _ _ => true
  | .cregSweep regs _ => regs.all (fun u => regAddr u.1)
  | .ruleSweep upsets => upsets.all (fun u => u.1 < 12288)
  | .periodicSelftest _ _ => true
  | .porterViolation _ _ => true
  | .porterClear _ _ _ _ => true
  | .logRead _ _ => true
  | .i2cWrite _ k _ _ _ _ => decide (k < 2)
  | .i2cRead _ k _ _ _ => decide (k < 2)
  | .i2cTransactionEnd k _ _ => decide (k < 2)
  | .i2cBusHeld k => decide (k < 2)
  | .jtagInstruction _ => true
  | .tapReset => true
  | .dozeWake _ => true
  | .tribTxE1Frame n => decide (n < 32)
  | .hostLinkUp speed width _ => decide (speed < 16) && decide (width ≤ 8)
  | .clockInputChange _ _ => true
  | .railReturn rail => decide (rail < 9)

end Sys2Proof
end

