-- ==== Sys2Proof/Tests/Slice0.lean ====
section
/-! SUPPORT. The tests: an ill-formed term for each check of WellFormed; for each statement that has hypotheses, states and operands
that meet all of them; and a few steps worked by hand from the spec. -/

namespace Sys2Proof.Tests

set_option Elab.async false

open Sys2Proof Sys2Proof.Machine

/-! ## Small states -/

/-- A terminal with domains ON. -/
def on (ds : List Nat) : Chip := ds.foldl (fun c d => c.put (PWR_STATE_PRESENT d) 2) {}

/-- A state around a terminal. -/
def at_ (c : Chip) : State := { State.reset with chip := c }

/-- Line A in Sync with its domains ON, in an activation state, with TID 5. -/
def lineIn (st : Nat) : Chip :=
  (((on [1, 2, 3, 7, 24, 25]).put (LNx_RX_STATUS_FRAME_STATE .a) 2).put (LPx_ACT_STATUS_STATE .a) st).put (LPx_IDENT_TID .a) 5

/-- The same line in Working with a message key and both kinds of sleep allowed. -/
def keyed : Chip :=
  (((lineIn 5).put (LPx_SLEEP_CFG_DOZE_EN .a) 1).put (LPx_SLEEP_CFG_DEEP_EN .a) 1).modLine .a fun l => { l with micKey := some [1], lastSeq := some 3 }

/-- A line as `lineIn` gives it with its state beside the registers changed. -/
def lineWith (st : Nat) (g : LineState → LineState) : State := at_ ((lineIn st).modLine .a g)

/-- The same line with a timer that runs for 100 ccy. -/
def timing (st : Nat) (k : TimerKey) : State := at_ ((lineIn st).start k 100)

/-- A message for TID 5 without a MIC. -/
def open5 : Msg := { fn := 10, tid := 5, mic := List.replicate 8 0 }

/-- A message for TID 5 with the MIC that the key of `keyed` gives it. -/
def sealed (type : Nat) (content : List Byte) : Msg :=
  { fn := 10, tid := 5, seq := 7, mic := micOf [1] 10 false .a (msgBytes 5 type false 7 content) }

/-! ## Activation -/

theorem hears_sealed (type : Nat) (content : List Byte) : keyed.HearsKeyed .a (sealed type content) type content :=
  ⟨by decide +kernel, show 5 = keyed.f (LPx_IDENT_TID .a) by decide +kernel, show 5 ≠ 0x3FF by decide, rfl, beq_self_eq_true _, rfl⟩

theorem witness_profile : (at_ (lineIn 1)).chip.HearsOpen .a open5 ∧ (at_ (lineIn 1)).chip.actState .a ≠ stDark := by decide +kernel

theorem witness_tid_assign : (at_ (lineIn 2)).chip.HearsOpen .a open5 ∧ 0 = (at_ (lineIn 2)).otp.serial ∧ (at_ (lineIn 2)).chip.actState .a = stAnnouncing ∧
    (at_ (lineIn 3)).chip.HearsOpen .a open5 ∧ (at_ (lineIn 3)).chip.actState .a = stRanging := by decide +kernel

theorem witness_eqd_assign : (at_ (lineIn 3)).chip.HearsOpen .a open5 ∧ open5.tid ≠ 0x3FF ∧ (at_ (lineIn 3)).chip.actState .a = stRanging := by decide +kernel

theorem witness_nonce : (at_ (lineIn 4)).chip.HearsOpen .a open5 ∧ (at_ (lineIn 4)).chip.actState .a = stProving ∧ (at_ (lineIn 4)).chip.trust.nextLeaf < 2 ^ 20 := by
  decide +kernel

/-- EQD_ADJUST, ALLOC_ASSIGN, KEY_ROLL, SLEEP_GRANT, DEACTIVATE and REG_ACCESS: `hears_sealed` with these. -/
theorem witness_under_the_key : (at_ keyed).chip.actState .a = stWorking ∧ 0 = (at_ keyed).otp.serial ∧ (at_ keyed).chip.flag (LPx_ACT_STATUS_DISABLED .a) = false ∧
    (at_ keyed).chip.flag (LPx_SLEEP_CFG_DOZE_EN .a) = true ∧ (at_ keyed).chip.flag (LPx_SLEEP_CFG_DEEP_EN .a) = true ∧ max 0 (10 + 2) < 12 + 268435455 ∧
    ((List.range (0xFFE + 1 - 0xFFE)).all fun i => (((at_ keyed).chip.line .a).rolled (0xFFE + i) + 1) % 2 == 1 % 2) = true ∧
    (((at_ keyed).chip.line .a).rolls.any fun r => decide (r.first ≤ 0xFFE) && decide (0xFFE ≤ r.last)) = false ∧
    bitOf 1 0 = true ∧ ((at_ keyed).chip.line .a).regQueue.length < 16 := by decide +kernel

theorem witness_emergency_stop : (at_ (lineIn 1)).chip.HearsOpen .a open5 ∧ 0 = (at_ (lineIn 1)).otp.serial ∧ 1 ≤ (at_ (lineIn 1)).chip.actState .a ∧
    (at_ keyed).chip.actState .a ≠ stProving ∧ (at_ keyed).chip.actState .a ≤ 5 := by decide +kernel

theorem witness_silence_entry : ((lineWith 5 fun l => { l with stopSrc := some 1 }).chip.line .a).stopSrc = some 1 ∧
    ((lineWith 5 fun l => { l with stopSrc := some 1 }).chip.line .a).burstEnd = none := by decide +kernel

theorem witness_silence_record_retry : (timing 7 (.line .a .silRetry)).chip.deadline (.line .a .silRetry) = some 100 := by decide +kernel

theorem witness_silence_release : (at_ (lineIn 7)).chip.HearsOpen .a open5 ∧ 0 = (at_ (lineIn 7)).otp.serial ∧ (at_ (lineIn 7)).chip.actState .a = stSilenced := by
  decide +kernel

theorem witness_silence_release_object :
    ((lineWith 7 fun l => { l with bulkDone := some ⟨3, [], none, []⟩ }).chip.line .a).bulkDone = some ⟨3, [], none, []⟩ ∧
    (lineWith 7 fun l => { l with bulkDone := some ⟨3, [], none, []⟩ }).chip.actState .a = stSilenced := by decide +kernel

theorem witness_silence_release_timeout : (timing 7 (.line .a .release)).chip.deadline (.line .a .release) = some 100 := by decide +kernel

theorem witness_activation_timers :
    (timing 2 (.line .a .annWait)).chip.deadline (.line .a .annWait) = some 100 ∧ (timing 2 (.line .a .annWait)).chip.actState .a = stAnnouncing ∧
    (timing 3 (.line .a .rangeTo)).chip.deadline (.line .a .rangeTo) = some 100 ∧ (timing 3 (.line .a .rangeTo)).chip.actState .a = stRanging ∧
    (timing 4 (.line .a .proveTo)).chip.deadline (.line .a .proveTo) = some 100 ∧ (timing 4 (.line .a .proveTo)).chip.actState .a = stProving ∧
    (timing 6 (.line .a .hold)).chip.deadline (.line .a .hold) = some 100 ∧ (timing 6 (.line .a .hold)).chip.actState .a = stHolding ∧
    (timing 1 (.line .a .holdoff)).chip.deadline (.line .a .holdoff) = some 100 := by decide +kernel

theorem witness_lom_timeout : (at_ (keyed.start (.line .a .lom) 100)).chip.deadline (.line .a .lom) = some 100 ∧
    ((at_ (keyed.start (.line .a .lom) 100)).chip.line .a).micKey = some [1] ∧
    (at_ (keyed.start (.line .a .lom) 100)).chip.flag (LPx_ACT_ALARM_STATE_LOM .a) = false := by decide +kernel

theorem witness_eqd_take_effect : ((lineWith 5 fun l => { l with eqds := [⟨3, -1, true⟩] }).chip.line .a).eqds = ⟨3, -1, true⟩ :: [] := by decide +kernel

theorem witness_key_roll_overlap_end : ((lineWith 5 fun l => { l with rolls := [⟨1, 4, 7⟩] }).chip.line .a).rolls = ⟨1, 4, 7⟩ :: [] := by decide +kernel

/-- A line in Working with a sleep granted, in the sleep state given. -/
def sleeping (mode now : Nat) : State := at_ (((lineIn 5).put (LPx_ACT_STATUS_SLEEP .a) now).modLine .a fun l => { l with sleep := some ⟨mode, 5, 9⟩ })

theorem witness_sleep_start : ((sleeping 2 0).chip.line .a).sleep = some ⟨2, 5, 9⟩ ∧ (sleeping 2 0).chip.actState .a = stWorking ∧
    (sleeping 2 0).chip.f (LPx_ACT_STATUS_SLEEP .a) = 0 ∧ (sleeping 2 0).chip.power.jobs = [] := by decide +kernel

theorem witness_doze_wake : ((sleeping 1 1).chip.line .a).sleep = some ⟨1, 5, 9⟩ ∧ (sleeping 1 1).chip.f (LPx_ACT_STATUS_SLEEP .a) = 1 ∧
    (sleeping 1 1).chip.power.jobs = [] := by decide +kernel

/-- A line in Proving with a proof in progress and a head-end proof object received. -/
def proving : State := lineWith 4 fun l => { l with proof := some ⟨[], 1, 2, 3, 4, false, false⟩, bulkDone := some ⟨1, [], none, []⟩ }

theorem witness_proof : (proving.chip.line .a).proof = some ⟨[], 1, 2, 3, 4, false, false⟩ ∧ proving.chip.actState .a = stProving ∧
    proving.chip.trust.nextLeaf < 2 ^ 20 ∧ (proving.chip.line .a).bulkDone = some ⟨1, [], none, []⟩ := by decide +kernel

theorem witness_bulk_announce : (at_ (lineIn 7)).chip.HearsOpen .a open5 ∧ open5.tid ≠ 0x3FF ∧ (at_ (lineIn 7)).chip.actState .a = stSilenced ∧
    (at_ (lineIn 4)).chip.actState .a = stProving ∧ (at_ keyed).chip.actState .a = stWorking := by decide +kernel

/-- Messages that R72 refuses: to another TID, errored, with a MIC where there is no key, with a wrong MIC (for whichever value the
key gives one of the two MICs is wrong), and replayed. -/
theorem witness_messages_refused :
    lineMessage (.deactivate .a { open5 with tid := 6 } 0) = some (.a, { open5 with tid := 6 }, 0x12, beBytes 8 0) ∧
    (lineIn 5).hearsMessages .a = true ∧ (6 ≠ (lineIn 5).f (LPx_IDENT_TID .a) ∧ 6 ≠ 0x3FF) ∧
    ({ open5 with errored := true } : Msg).tid = (lineIn 5).f (LPx_IDENT_TID .a) ∧
    ((lineIn 5).line .a).micKey = none ∧ [1] ≠ List.replicate 1 (0 : Byte) ∧
    keyed.hearsMessages .a = true ∧ (keyed.line .a).micKey = some [1] ∧ (keyed.line .a).micRun + 1 < max 1 (keyed.f (LPx_ACT_CFG_LOM_MIC_LIM .a)) ∧
    (keyed.line .a).lastSeq.any (fun q => decide (3 ≤ q)) = true := by decide +kernel

theorem witness_wrong_mic (content : List Byte) : micOf [1] 10 false .a (msgBytes 5 0x12 false 7 content) ≠ [1] ∨
    micOf [1] 10 false .a (msgBytes 5 0x12 false 7 content) ≠ [2] := by
  by_cases h : micOf [1] 10 false .a (msgBytes 5 0x12 false 7 content) = [1]
  · right; rw [h]; decide
  · left; exact h

/-! ## The line receiver -/

/-- Line A with its receiver working: LOS and RX_READY as given, and a frame state. -/
def receiving (los ready frame : Nat) : Chip :=
  (((((lineIn 1).put (LNx_RX_CTRL_SD_USE .a) 0).put (LNx_RX_CTRL_RX_EN .a) 1).put (LNx_RX_STATUS_LOS .a) los).put (LNx_RX_STATUS_RX_READY .a) ready).put (LNx_RX_STATUS_FRAME_STATE .a) frame

theorem witness_signal :
    (at_ (receiving 0 1 2)).chip.flag (LNx_RX_STATUS_LOS .a) = false ∧ (at_ (receiving 0 1 2)).chip.isOn (protoDom .a) = true ∧
    (at_ (receiving 0 1 2)).chip.f (LPx_ACT_STATUS_SLEEP .a) ≠ 2 ∧
    (at_ (receiving 1 0 0)).chip.rxWorks .a = true ∧ (at_ (receiving 1 0 0)).chip.flag (LNx_RX_STATUS_LOS .a) = true ∧
    (at_ (receiving 1 0 0)).chip.flag (LNx_RX_CTRL_SD_USE .a) = false ∧
    (at_ (receiving 0 0 0)).chip.rxWorks .a = true ∧ (at_ (receiving 0 0 0)).chip.flag (LNx_RX_STATUS_LOS .a) = false ∧
    (at_ (receiving 0 0 0)).chip.flag (LNx_RX_STATUS_RX_READY .a) = false ∧ (at_ (receiving 0 0 0)).chip.flag (LNx_RX_CTRL_ADAPT_FREEZE .a) = false ∧
    (at_ (receiving 0 0 0)).chip.flag (LNx_EQ_CTRL_CTLE_OVR .a) = false ∧ (at_ (receiving 0 0 0)).chip.flag (LNx_EQ_CTRL_DFE_OVR .a) = false ∧
    (at_ (receiving 0 0 0)).chip.flag (LNx_EQ_CTRL_FFE_OVR .a) = false := by decide +kernel

theorem witness_sd_use : (at_ ((receiving 0 1 2).put (LNx_RX_CTRL_SD_USE .a) 1)).chip.flag (LNx_RX_CTRL_SD_USE .a) = true := by decide +kernel

theorem witness_acquisition_timers :
    (at_ ((receiving 0 0 0).start (.line .a .acquire) 100)).chip.deadline (.line .a .acquire) = some 100 ∧
    (at_ ((receiving 0 1 0).start (.line .a .lofAcq) 100)).chip.deadline (.line .a .lofAcq) = some 100 ∧
    (at_ ((receiving 0 1 0).start (.line .a .lofAcq) 100)).chip.inSync .a = false ∧
    (at_ ((receiving 0 1 0).start (.line .a .lofAcq) 100)).chip.flag (LNx_RX_STATUS_RX_READY .a) = true := by decide +kernel

theorem witness_measurements : (at_ (receiving 0 1 2)).chip.flag (LNx_RX_STATUS_RX_READY .a) = true ∧ (at_ (receiving 0 1 2)).chip.inSync .a = true ∧
    ((at_ ((receiving 0 1 2).modLine .a fun l => { l with sdFrames := 65535, sfFrames := 65535 })).chip.sdParams .a).2 ≤ 65535 ∧
    ((at_ ((receiving 0 1 2).modLine .a fun l => { l with sdFrames := 65535, sfFrames := 65535 })).chip.sfParams .a).2 ≤ 65535 := by decide +kernel

/-- A frame header of Table 3.2 with its CRC: FN, flags and the three counts. -/
def header (fn flags nb nm nc : Nat) : List Byte :=
  let h := beBytes 6 fn ++ beBytes 2 7 ++ beBytes 1 flags ++ beBytes 1 0x10 ++ beBytes 2 nb ++ beBytes 1 nm ++ beBytes 2 nc ++ fill 13 0
  h ++ beBytes 4 (crc32c h)

/-- A hunting line with candidates. -/
def hunting (cs : List Cand) : State := at_ ((receiving 0 1 0).modLine .a fun l => { l with cands := cs })

theorem witness_hunt : (hunting []).chip.flag (LNx_RX_STATUS_RX_READY .a) = true ∧ (hunting []).chip.isOn (protoDom .a) = true ∧ (hunting []).chip.inSync .a = false ∧
    ((hunting []).chip.line .a).cands.find? (fun k => k.pos + 6000000 == 4) = none ∧
    ((hunting [⟨4, 10, false, 0, 3⟩]).chip.line .a).cands.find? (fun q => q.pos + 6000000 == 4 + 6000000) = some ⟨4, 10, false, 0, 3⟩ ∧
    (at_ (receiving 0 1 2)).chip.inSync .a = true := by decide +kernel

theorem witness_candidate_checks : checkPasses ⟨4, 10, false, 0, 3⟩ false 4 (header 4 0 0 0 0) = true ∧ checkPasses ⟨4, 10, false, 1, 3⟩ false 4 (header 4 0 0 0 0) = true ∧
    checkPasses ⟨4, 10, false, 1, 3⟩ false 5 (header 4 0 0 0 0) = false := by decide +kernel

/-- A line in deep sleep with an equaliser word saved. -/
def deepSleep : State :=
  at_ ((lineIn 5).modLine .a fun l => { l with sleep := some ⟨2, 5, 9⟩, saved := { eq := [(LNx_EQ_CTRL .a, 7), (LNx_EQ_DFE .a 0, 5)], pinv := true, cif := 7 } })

theorem witness_directed_reacq : (deepSleep.chip.line .a).sleep = some ⟨2, 5, 9⟩ ∧ deepSleep.chip.isOn (rxDom .a) = true ∧ deepSleep.chip.isOn (protoDom .a) = true ∧
    ((deepSleep.chip.line .a).saved.eq.map (·.1)).Nodup ∧ (∀ e ∈ (deepSleep.chip.line .a).saved.eq, e.1 ∈ equaliserRegs .a) := by decide +kernel

/-- A frame with a header, one BWmap entry and a packet area. -/
def frameOf (h entry : List Byte) : FrameBody := { payload := h ++ entry ++ fill 64 0 }

/-- A BWmap entry of Table 3.3 with its CRC. -/
def bwEntry (alloc start len flags : Nat) : List Byte :=
  let e := beBytes 2 alloc ++ beBytes 3 start ++ beBytes 3 len ++ beBytes 1 flags ++ fill 5 0
  e ++ beBytes 2 (crc16 e)

/-- A line in Working that checks neither LINE_ID nor HE_ID. -/
def unchecked : State := at_ (((lineIn 5).put (LPx_FRAME_CFG_LINE_ID_CHK .a) 0).put (LPx_FRAME_CFG_HE_ID_CHK .a) 0)

theorem witness_downstream_frame : unchecked.chip.inSync .a = true ∧ unchecked.chip.isOn (protoDom .a) = true ∧ headerCrcOk (slice (fill 64 0) 0 32) = false ∧
    headerCrcOk (slice (frameOf (header 1 0x60 1 0 0) (bwEntry 5 187486 14 0)).payload 0 32) = true ∧
    headerFn (frameOf (header 1 0x60 1 0 0) (bwEntry 5 187486 14 0)).payload = ((unchecked.chip.line .a).fn + 1) % 2 ^ 48 ∧
    byteAt (frameOf (header 1 0x60 1 0 0) (bwEntry 5 187486 14 0)).payload 9 / 16 = 1 ∧
    beAt (frameOf (header 1 0x60 1 0 0) (bwEntry 5 187486 14 0)).payload 10 2 % 1024 = 1 ∧
    unchecked.chip.flag (LPx_FRAME_CFG_LINE_ID_CHK .a) = false ∧ unchecked.chip.flag (LPx_FRAME_CFG_HE_ID_CHK .a) = false := by decide +kernel

/-- The grant clause: the last START and the shortest LEN, for the default allocation. -/
theorem witness_grant : unchecked.chip.addressed .a (parseEntry (bwEntry 5 187486 14 0)).alloc = some .default ∧
    (parseEntry (bwEntry 5 187486 14 0)).ecrcOk = true ∧ unchecked.chip.entryInRange .a .default (parseEntry (bwEntry 5 187486 14 0)) = true ∧
    (unchecked.chip.line .a).grants = [] ∧ unchecked.chip.f (LPx_ACT_STATUS_SLEEP .a) = 0 ∧ unchecked.chip.actState .a = stWorking ∧
    unchecked.chip.flag ITM_SAFE_ACTIVE = false ∧ bitOf (byteAt (header 1 0x60 1 0 0) 8) 4 = false ∧ bitOf (byteAt (header 1 0x70 1 0 0) 8) 4 = true := by decide +kernel

/-! ## The two lines and network time -/

/-- Both lines in Sync with valid FNs and a time state; line A is time master where `master` is 1. -/
def timed (state master : Nat) : Chip :=
  let c := [Line.a, .b].foldl (fun c x => (c.put (LNx_RX_STATUS_FRAME_STATE x) 2).put (LNx_RX_STATUS_FN_VALID x) 1) (on [1, 2, 3, 4, 5, 6, 7, 24, 46, 47])
  (((c.put NTU_STATUS_STATE state).put NTU_STATUS_NT_VALID 1).put TWE_CFG_MODE 1).put TWE_STATUS_NO_MASTER (1 - master)

theorem witness_active_line : (at_ (timed 2 1)).chip.isOn 7 = true ∧ (at_ (timed 2 1)).chip.mode ≠ 0 ∧
    (at_ ((timed 2 1).start .actWtr 100)).chip.deadline .actWtr = some 100 := by decide +kernel

/-- A terminal with one packet at the merge and a flow whose HIGH is 7 with a gap. -/
def merging (seq : Nat) : State :=
  at_ { timed 2 1 with twoEnded := { waiting := [⟨.b, 3, seq, false, 4, [1], [], 0⟩], flows := [(3, { h := 7, seen := true, gaps := [⟨2, 3, 0⟩], last := 5 })] } }

theorem witness_merge : (merging 8).chip.isOn 7 = true ∧ nextMerge (merging 8).chip.twoEnded.waiting = some ⟨.b, 3, 8, false, 4, [1], [], 0⟩ ∧
    (merging 8).chip.flowMode 3 = 0 ∧ (Map.get {} (merging 8).chip.twoEnded.flows 3).seen = true ∧
    (Map.get {} (merging 8).chip.twoEnded.flows 3).gaps = ⟨2, 3, 0⟩ :: [] ∧ Gap.holds ⟨2, 3, 0⟩ 4 = true ∧ Gap.holds ⟨2, 3, 0⟩ 5 = false := by decide +kernel

/-- A queue of allocation port 0 of line A in the scheduler's tables. -/
def lineQueue : State := at_ { timed 2 1 with tables := [(3 * 65536 + 7, 2 ^ 31 + 2 ^ 30 + 24)] }

theorem witness_reference_ageing : lineQueue.chip.isOn 24 = true ∧ lineQueue.chip.queueLine 7 = some .a := by decide +kernel

theorem witness_time_master : (at_ (timed 2 1)).chip.flag TWE_STATUS_NO_MASTER = false ∧ (at_ (timed 2 1)).chip.timeState = 2 ∧
    (at_ ((timed 2 1).raiseBit (LNx_ALARM_STATE_LEVEL .a) 1)).chip.lineLost (at_ ((timed 2 1).raiseBit (LNx_ALARM_STATE_LEVEL .a) 1)).chip.master = true ∧
    (at_ ((timed 2 1).raiseBit (LNx_ALARM_STATE_LEVEL .a) 1)).chip.qualifies .b = true := by decide +kernel

/-- A terminal whose WTR of R131 runs. -/
def reverting : State := at_ ((((timed 2 1).put TWE_CFG_TM_LINE 1).put TWE_CFG_TM_REVERT 1).start .tmRevert 100)

theorem witness_tm_revert : reverting.chip.deadline .tmRevert = some 100 ∧ reverting.chip.flag TWE_STATUS_NO_MASTER = false ∧
    lineOf (reverting.chip.f TWE_CFG_TM_LINE) ≠ reverting.chip.master ∧ reverting.chip.qualifies (lineOf (reverting.chip.f TWE_CFG_TM_LINE)) = true ∧
    reverting.chip.flag TWE_CFG_TM_REVERT = true := by decide +kernel

theorem witness_no_master : (at_ ((timed 2 1).raise TWE_STATUS_NO_MASTER)).chip.isOn 7 = true ∧
    (at_ ((timed 2 1).raise TWE_STATUS_NO_MASTER)).chip.flag TWE_STATUS_NO_MASTER = true := by decide +kernel

theorem witness_sel_switch : (at_ (((timed 2 1).put (TWE_SEL_VALID 31) 1).start (.selHold 31) 100)).chip.isOn 7 = true ∧
    (at_ (((timed 2 1).put (TWE_SEL_VALID 31) 1).start (.selHold 31) 100)).chip.flag (TWE_SEL_VALID 31) = true ∧
    (at_ (((timed 2 1).put (TWE_SEL_VALID 31) 1).start (.selHold 31) 100)).chip.deadline (.selHold 31) = some 100 ∧
    (at_ (((timed 2 1).put (TWE_SEL_VALID 31) 1).start (.selWtr 31) 100)).chip.deadline (.selHold 31) = none ∧
    (at_ (((timed 2 1).put (TWE_SEL_VALID 31) 1).start (.selWtr 31) 100)).chip.deadline (.selWtr 31) = some 100 := by decide +kernel

theorem witness_network_time : (at_ (timed 0 0)).chip.qualifies .a = true ∧ (at_ (timed 0 0)).chip.timeState = 0 ∧ (at_ (timed 1 1)).chip.timeState = 1 ∧
    (at_ ((timed 1 1).put (LNx_RX_STATUS_FRAME_STATE .a) 0)).chip.qualifies .a = false ∧
    (at_ (((timed 1 1).put (LNx_RX_STATUS_FRAME_STATE .a) 0).put (LNx_RX_STATUS_FRAME_STATE .b) 0)).chip.qualifies .b = false ∧
    (at_ ((timed 3 0).start .hoAged 100)).chip.deadline .hoAged = some 100 ∧ (at_ ((timed 3 0).start .hoAged 100)).chip.timeState = 3 ∧
    (at_ (timed 3 0)).chip.qualifies .b = true := by decide +kernel

theorem witness_tod_state : keyed.actState .a = stWorking ∧ (at_ keyed).chip.time.tod = none ∧
    (at_ { keyed with time := { tod := some 5 } }).chip.tod3 = some 5 := by decide +kernel

theorem witness_pps : (at_ { (timed 2 1).put NTU_PPS_CFG_PPS_EN 1 with time := { tod := some 5 } }).chip.flag NTU_PPS_CFG_PPS_EN = true ∧
    (at_ (timed 2 1)).chip.ntValid = true ∧ (at_ ((timed 2 1).start .ppsIn 100)).chip.deadline .ppsIn = some 100 := by decide +kernel

/-- A port with its link up that sends PTP messages. -/
def ptpPort (n : Nat) : State := at_ ((((timed 2 1).put NTU_PTP_PORTS_EN 0xFFFFF).put (ETH_STATUS_LINK n) 1).put NTU_STATUS_TOD_VALID 1)

theorem witness_ptp : (ptpPort 19).chip.ptpSends 19 = true ∧ (ptpPort 0).chip.ptpSends 0 = true ∧ (ptpPort 0).chip.isOn 46 = true ∧
    bitOf ((ptpPort 0).chip.f NTU_PTP_PORTS_EN) 0 = true ∧ (ptpPort 0).chip.flag (ETH_STATUS_LINK 0) = true ∧
    (ptpPort 0).chip.flag NTU_PTP_CFG_P2P = false := by decide +kernel


/-! ## Carriage and bursts -/

/-- A line with a packet area in progress, a reassembly context, a bulk packet and an object in progress. -/
def carrying : State := at_ (((on [8]).modLine .a fun l => { l with
  area := some 100, contexts := [⟨5, 7, 1, [], [], false, 100⟩], bulkRx := [[2, 3]], bulkIn := some { type := 3, size := 5, hash := [] } }))

theorem witness_downstream_carriage : (carrying.chip.line .a).area = some 100 ∧ carrying.chip.isOn 8 = true ∧
    correctHeader (carrying.chip.flag CAR_CFG_HEC_CORR) (List.replicate 10 0) = none ∧
    correctHeader (carrying.chip.flag CAR_CFG_HEC_CORR) (CarriageHeader.bytes ⟨4, 5, true, true, 0, false, 1, 0⟩) =
      some (CarriageHeader.bytes ⟨4, 5, true, true, 0, false, 1, 0⟩, false) ∧
    (carrying.chip.line .a).contexts = ⟨5, 7, 1, [], [], false, 100⟩ :: [] ∧ (carrying.chip.line .a).bulkRx = [2, 3] :: [] ∧
    (carrying.chip.line .a).bulkIn = some { type := 3, size := 5, hash := [] } ∧ byteAt [2, 3] 0 ≠ 1 := by decide +kernel

/-- A grant of 3,000 words. -/
def grant (k : GrantKind) : Grant := ⟨k, 5, 10, 3000, true, false, false, true, 0, 8, 0, 32, 7, none, [], 0, false, false⟩

/-- Line A in an activation state with one grant, its lane transmitting. -/
def granted (st : Nat) (k : GrantKind) (g : LineState → LineState) : State :=
  at_ { (((on [2, 8, 24, 25, 26]).put (LPx_ACT_STATUS_STATE .a) st).put (LNx_TX_CTRL_TX_EN .a) 1).modLine .a fun l => g { l with grants := [grant k] } with
    boot := { started := true } }

theorem witness_codeword_commit : (granted 5 .default id).chip.isOn (txDom .a) = true ∧
    (granted 5 .default id).chip.nextCommit .a = some (grant .default) := by decide +kernel

/-- A default grant with a line message waiting for it. -/
def bulkWaiting : State := granted 5 .default fun l => { l with bulkOut := [⟨1, true, 0x81, [], 0, 0, false, false, none⟩] }

theorem witness_codeword_rebuild : bulkWaiting.chip.firstGrant .a (bulkWaiting.chip.uncommitted .a) = some (grant .default) ∧
    bulkWaiting.chip.isOn 8 = true ∧ (bulkWaiting.chip.line .a).bulkOut.find? (fun b => !b.taken) = some ⟨1, true, 0x81, [], 0, 0, false, false, none⟩ ∧
    bulkWaiting.chip.sendable .a 0xFFE (grant .default).fn = true ∧
    (bulkWaiting.chip.bulkPacket .a (grant .default) ⟨1, true, 0x81, [], 0, 0, false, false, none⟩).length + bulkWaiting.chip.frameCost .a 0xFFE ≤
      burstCapacity (grant .default).len - bulkWaiting.chip.regionLength .a (grant .default) := by decide +kernel

/-- A grant of allocation port 0 with an express frame of the bulk flow, which needs no tag, in the port's queue 7. -/
def expressWaiting : State :=
  let s := granted 5 (.port 0) id
  at_ { s.chip with
    cooper := { frames := [{ id := 1, bytes := [1], banks := [], uflow := 0xFFE }], queues := [(7, [{ frame := 1, enq := 0 }])] }
    tables := [(3 * 65536 + 7, 2 ^ 31 + 2 ^ 30 + 24)] }

theorem witness_express_stage : expressWaiting.chip.expressQueues (allocPort .a 0) none ≠ [] ∧
    expressWaiting.chip.firstGrant .a (fun h => h.kind == .port 0 && h.e && expressWaiting.chip.uncommitted .a h) = some (grant (.port 0)) ∧
    expressWaiting.chip.canAssemble (grant (.port 0)) = true ∧
    (expressWaiting.chip.selectExpress (allocPort .a 0) (some (grant (.port 0)).fn)).map (·.2.1) = some 7 ∧
    expressWaiting.chip.headRef 7 = some { frame := 1, enq := 0 } ∧
    expressWaiting.chip.frame? 1 = some { id := 1, bytes := [1], banks := [], uflow := 0xFFE } ∧
    expressWaiting.chip.readable { id := 1, bytes := [1], banks := [], uflow := 0xFFE } = true ∧
    expressWaiting.chip.flowUp .a 0xFFE = true ∧ expressWaiting.chip.sendable .a 0xFFE (grant (.port 0)).fn = true ∧
    1 + 26 ≤ burstCapacity (grant (.port 0)).len - expressWaiting.chip.regionLength .a (grant (.port 0)) := by decide +kernel

theorem witness_bursts :
    (granted 2 .announce id).chip.firstGrant .a (fun g => g.kind == .announce) = some (grant .announce) ∧
    (granted 2 .announce id).chip.actState .a = stAnnouncing ∧ ((granted 2 .announce id).chip.line .a).skip = 0 ∧ 26 ≤ (grant .announce).len ∧
    (granted 2 .announce id).chip.ldoff .a = false ∧ 0 < ((granted 2 .announce fun l => { l with skip := 3 }).chip.line .a).skip ∧
    (granted 3 .default id).chip.firstGrant .a (fun g => g.kind == .default) = some (grant .default) ∧
    (granted 3 .default id).chip.actState .a = stRanging ∧ (granted 3 .default id).chip.ldoff .a = false ∧
    (granted 5 .default id).chip.firstGrant .a ((granted 5 .default id).chip.assembled .a) = some (grant .default) ∧
    (granted 5 .default id).chip.ldoff .a = false := by decide +kernel

/-! ## The classifier, the meters, admission and the scheduler -/

/-- A packet at the classifier's input, and a fragment entry. -/
def sorting (p : Packet) : State := at_ { on [11, 24] with now := 10000, sorter := { input := [p], frags := [⟨0, 1, 2, 3, 4, 5, 20000, 6⟩] } }

theorem witness_classify : ((sorting { ingress := 3, tag := 0, bytes := [1] }).chip.elapse 1).nextPacket = some { ingress := 3, tag := 0, bytes := [1] } ∧
    (sorting { ingress := 3, tag := 0, bytes := [1] }).chip.isOn 11 = true ∧ (sorting { ingress := 3, tag := 0, bytes := [1] }).chip.isOn 24 = true ∧
    ((sorting { ingress := 3, tag := 0, bytes := [1], pass := 1, epoch := 1 }).chip.elapse 1).nextPacket =
      some { ingress := 3, tag := 0, bytes := [1], pass := 1, epoch := 1 } ∧
    1 ≠ (sorting { ingress := 3, tag := 0, bytes := [1], pass := 1, epoch := 1 }).chip.f SRT_EPOCH_STATUS_ACTIVE ∧
    (sorting { ingress := 3, tag := 0, bytes := [1] }).chip.sorter.frags = ⟨0, 1, 2, 3, 4, 5, 20000, 6⟩ :: [] := by decide +kernel

/-- Frames whose action is fixed: queue 7 belongs to port 3, queue 8 to none; and port 3 with a frame to send. -/
def switching (metered : Bool) (q : Nat) : State :=
  at_ { ((on [24, 25, 26, 30, 35]).put (ETH_MODE_MODE 3) 2).put (ETH_STATUS_LINK 3) 1 with
    sorter := { acted := [{ bytes := [1], inLen := 64, queue := q, metered := metered, meter := some 5 }] }
    cooper := { frames := [{ id := 1, bytes := [1], banks := [] }], queues := [(7, [{ frame := 1, enq := 0 }])], nextId := 2 }
    tables := [(3 * 65536 + 7, 2 ^ 31 + 5), (4 * 65536 + 5, 2 ^ 31 + 1), (5 * 65536 + 1, 2 ^ 31 + 3)] }

theorem witness_metering_and_admission :
    (switching false 7).chip.sorter.acted.find? (fun a => !a.metered) = some { bytes := [1], inLen := 64, queue := 7, metered := false, meter := some 5 } ∧
    (switching true 7).chip.sorter.acted = { bytes := [1], inLen := 64, queue := 7, meter := some 5 } :: [] ∧
    (switching true 7).chip.isOn 24 = true ∧ (switching true 7).chip.isOn 26 = true ∧
    (switching true 7).chip.portOf 7 = some 3 ∧ (switching true 7).chip.isExpress 7 = false ∧ (switching true 8).chip.portOf 8 = none := by decide +kernel

theorem witness_scheduler_select : (switching true 7).chip.schedulerWorks = true ∧ (switching true 7).chip.asks 3 = true ∧
    ((switching true 7).chip.drover.chosen.any fun e => e.1 == 3) = false ∧ ((switching true 7).chip.select 3 none).map (·.2.1) = some 7 ∧
    (switching true 7).chip.headRef 7 = some { frame := 1, enq := 0 } ∧ (switching true 7).chip.frame? 1 = some { id := 1, bytes := [1], banks := [] } ∧
    (switching true 7).chip.readable { id := 1, bytes := [1], banks := [] } = true := by decide +kernel

/-! ## Ethernet ports -/

/-- Port U3 at 10 Gb/s with its link up, and its state beside the registers. -/
def port (e : EthPort) : Chip :=
  ((((on [24, 25, 26, 27, 30, 35]).put (ETH_MODE_MODE 3) 4).put (ETH_STATUS_LINK 3) 1).put (ETH_STATUS_MM_VERIFY 3) 1).modPort 3 fun _ => e

/-- The same port with preemption in use and an express frame in queue 7. -/
def preempting : State :=
  at_ { (port { tx := some { total := 1000, start := 0 } }).put (ETH_STATUS_MM_ACTIVE 3) 1 with
    cooper := { frames := [{ id := 1, bytes := [1], banks := [] }], queues := [(7, [{ frame := 1, enq := 0 }])] }
    tables := [(3 * 65536 + 7, 2 ^ 31 + 2 ^ 30 + 3)] }

/-- The same port with a frame selected for it. -/
def sending (up : Nat) : State :=
  at_ { (((port {}).put (ETH_STATUS_LINK 3) up).put (ETH_MODE_LINKDOWN_DROP 3) 1) with drover := { chosen := [(3, { id := 1, bytes := [1], banks := [] })] } }

theorem witness_ethernet_receive : (at_ (port {})).chip.portWorks 3 = true ∧ (at_ (port {})).chip.flag (ETH_STATUS_LINK 3) = true := by decide +kernel

theorem witness_ethernet_transmit :
    (sending 1).chip.asks 3 = true ∧ (sending 1).chip.flag (ETH_STATUS_LINK 3) = true ∧ ((sending 1).chip.port 3).parked = none ∧
    (sending 1).chip.drover.chosen.find? (fun e => e.1 == 3) = some (3, { id := 1, bytes := [1], banks := [] }) ∧
    (sending 0).chip.asks 3 = true ∧ (sending 0).chip.flag (ETH_STATUS_LINK 3) = false ∧
    (at_ (port { parked := some { total := 1000, start := 0 } })).chip.asks 3 = true ∧
    ((at_ (port { parked := some { total := 1000, start := 0 } })).chip.port 3).parked = some { total := 1000, start := 0 } ∧
    (at_ (port { parked := some { total := 1000, start := 0 } })).chip.flag (ETH_STATUS_MM_ACTIVE 3) = false ∧
    preempting.chip.flag (ETH_STATUS_MM_ACTIVE 3) = true ∧ preempting.chip.asks 3 = true ∧ preempting.chip.expressQueues 3 none ≠ [] ∧
    (preempting.chip.port 3).tx = some { total := 1000, start := 0 } ∧
    cutPoint { total := 1000, start := 0 } (preempting.chip.f (ETH_MM_ADD_FRAG_SIZE 3))
      (0 + (ceilDiv ((preempting.chip.now - 0) * preempting.chip.ethRate 3) 12000 - 8)) = some 64 ∧
    (at_ (port {})).chip.f (ETH_STATUS_MM_VERIFY 3) = 1 ∧ (at_ ((port {}).start (.verify 3) 100)).chip.deadline (.verify 3) = some 100 := by decide +kernel

theorem witness_pause_and_link : (at_ ((port {}).start (.pause 3) 100)).chip.deadline (.pause 3) = some 100 ∧
    (at_ (((port {}).put (ETH_STATUS_PAUSING 3) 1).start (.xoff 3) 100)).chip.deadline (.xoff 3) = some 100 ∧
    (at_ (((port {}).put (ETH_STATUS_PAUSING 3) 1).start (.xoff 3) 100)).chip.flag (ETH_STATUS_PAUSING 3) = true ∧
    (at_ ((on []).start (.polarity 23) 100)).chip.deadline (.polarity 23) = some 100 ∧
    (at_ ((on [27, 35]).put (ETH_MODE_MODE 0) 6)).chip.portWorks 0 = true ∧
    (at_ ((on [27, 35]).put (ETH_MODE_MODE 0) 6)).chip.f (ETH_MODE_MODE 0) = 6 := by decide +kernel

/-! ## Tributaries, containers and the time-slot interchange -/

/-- Tributary 31 in use in a mode, with its state beside the registers. -/
def trib31 (mode : Nat) (t : Trib) : Chip :=
  ((((on [43, 44]).put (TDM_CFG_EN 31) 1).put (TDM_CFG_MODE 31) mode).put (TDM_CFG_INTWK_EN 31) 1).setTrib 31 t

theorem witness_tributaries : (at_ (trib31 0 {})).chip.tribOn 31 = true ∧ (List.replicate 32 (0 : Byte)).length = 32 ∧
    (at_ ((trib31 1 { at_ := some 3 }).start (.mfSearch 31) 100)).chip.deadline (.mfSearch 31) = some 100 ∧
    (at_ ((trib31 1 { at_ := some 3 }).start (.mfSearch 31) 100)).chip.f (TDM_CFG_MODE 31) = 1 ∧
    (at_ (trib31 1 { at_ := some 3 })).chip.flag (TDM_STATUS_MF_ALIGN 31) = false ∧ (at_ (trib31 1 { at_ := some 3 })).chip.flag (TDM_STATUS_INTWK 31) = false ∧
    ((at_ (trib31 1 { at_ := some 3 })).chip.trib 31).at_ = some 3 ∧ ((at_ (trib31 1 { heldFrom := some 0 })).chip.trib 31).heldFrom = some 0 ∧
    (at_ (trib31 1 { heldFrom := some 0 })).chip.flag (TDM_CFG_INTWK_EN 31) = true := by decide +kernel

/-- Container slot 63 mapped both ways with the output of FN 2^48 - 1 ready, and a copy of the active page in progress. -/
def weaving : State :=
  at_ (((((((on [44]).put TCM_CFG_DLY_B 1).put (TCM_DS_SLOT_VALID 63) 1).put (TCM_US_SLOT_VALID 63) 1).setSlot 63 { frames := [(2 ^ 48 - 1, none, true), (0, none, true)] })).start .cmCopy 100)

theorem witness_interchange : weaving.chip.isOn 44 = true ∧ weaving.chip.isOn 7 = false ∧ weaving.chip.flag (TCM_DS_SLOT_VALID 63) = true ∧
    ((weaving.chip.slot 63).frames.find? fun e => e.1 == ((weaving.chip.nextFrame 10).nt.fn + 2 ^ 48 - weaving.chip.deliveryDelay (lineOf (63 / 32))) % 2 ^ 48).map
      (·.2) = some (none, true) ∧
    weaving.chip.flag (TCM_US_SLOT_VALID 63) = true ∧ weaving.chip.deadline .cmCopy = some 100 ∧ weaving.chip.tsi.active ≤ 1 := by decide +kernel

/-! ## The host interface and the cipher service -/

/-- The host interface with its link up and Bus Master Enable set. -/
def hosting : Chip :=
  { ((on [10, 24, 25, 26, 40, 41]).put HST_LINK_DL_UP 1).put CLK_STATUS_PCIE_REFCLK_OK 1 with host := { busMaster := true } }

/-- The same with one entry posted to a ring or queue, which waits for its message. -/
def ringing (p : Nat) : Chip := (hosting.setReg (ringCfg p) 0x80010004).modRing p fun r => { r with prod := 1, waits := true }

theorem witness_host_endpoint : (at_ hosting).chip.isOn 41 = true ∧ (at_ hosting).chip.isOn 40 = true ∧ (at_ hosting).chip.boot.recovery = false ∧
    (at_ hosting).chip.flag CLK_STATUS_PCIE_REFCLK_OK = true ∧ (at_ hosting).chip.flag HST_LINK_DL_UP = true ∧ (at_ hosting).otp.hcs = false ∧
    (at_ hosting).chip.isOn 10 = true ∧ ((at_ (ringing 47)).chip.ring 47).waits = true := by decide +kernel

/-- A transmit descriptor of one frame of one byte. -/
def oneByte : List Byte := leBytes 8 0 ++ leBytes 4 1 ++ [3, 0] ++ leBytes 2 0 ++ leBytes 16 0

/-- A frame selected for the host port, and the host channels' table in use. -/
def delivering : State :=
  at_ { (ringing 16).put HST_TDM_CFG_EN 1 with
    nt := ⟨7, 0⟩, host := { (ringing 16).host with tdmOut := [(6, [])] }, drover := { chosen := [(20, { id := 1, bytes := [1], banks := [] })] } }

theorem witness_host_packets : (at_ (ringing 15)).chip.dma = true ∧ (at_ (ringing 15)).chip.nextTxRing = some 15 ∧
    descFlag oneByte 0 = true ∧ descFlag oneByte 1 = true ∧ descFlag oneByte 2 = false ∧ descLen oneByte ≤ 16000 ∧
    delivering.chip.asks 20 = true ∧ delivering.chip.drover.chosen.find? (fun e => e.1 == 20) = some (20, { id := 1, bytes := [1], banks := [] }) ∧
    delivering.chip.dma = true ∧ delivering.chip.flag HST_TDM_CFG_EN = true ∧
    delivering.chip.host.tdmOut.find? (fun e => (e.1 + 1) % 2 ^ 48 == delivering.chip.nt.fn) = some (6, []) := by decide +kernel

/-- A request of an operation under a slot. -/
def request (op slot len : Nat) : List Byte :=
  leBytes 1 op ++ leBytes 1 0 ++ leBytes 2 slot ++ leBytes 4 len ++ leBytes 8 0 ++ leBytes 8 0x1000 ++ leBytes 8 0x2000 ++ leBytes 4 0 ++ leBytes 28 0

/-- Cipher queue 15 with a request, slot 1 an XTS key and slot 2 a GCM key. -/
def ciphering : State := at_ { ringing 47 with keys := { slots := [(1, some ⟨2, 15, []⟩), (2, some ⟨1, 15, []⟩)] } }

theorem witness_cipher_service : ciphering.otp.hcs = false ∧ ciphering.chip.isOn 10 = true ∧ ciphering.chip.dma = true ∧ ciphering.chip.nextQueue = some 15 ∧
    (parseRequest (request 1 1 16)).op = 1 ∧ ciphering.chip.checkRequest 15 (parseRequest (request 1 1 16)) = 0 ∧
    (parseRequest (request 2 1 16)).op = 2 ∧ ciphering.chip.checkRequest 15 (parseRequest (request 2 1 16)) = 0 ∧
    (parseRequest (request 3 2 16)).op = 3 ∧ ciphering.chip.checkRequest 15 (parseRequest (request 3 2 16)) = 0 ∧
    (parseRequest (request 4 2 16)).op = 4 ∧ ciphering.chip.checkRequest 15 (parseRequest (request 4 2 16)) = 0 ∧
    (parseRequest (request 5 0 0)).op = 5 ∧ ciphering.chip.checkRequest 15 (parseRequest (request 5 0 0)) = 0 ∧
    ciphering.chip.checkRequest 15 (parseRequest (request 1 2 16)) ≠ 0 ∧ ciphering.chip.checkRequest 15 (parseRequest (request 0 2 16)) ≠ 0 := by decide +kernel

/-! ## Register accesses and table windows -/

/-- Every domain ON, for the configuration image's master, which has every privilege. -/
def open_ : Chip := on (List.range 50)

theorem witness_register_writes :
    (at_ open_).chip.admits .config true [TWE_ALARM] ∧ (at_ open_).chip.admits .config true [HST_PRIV] ∧
    (at_ open_).chip.admits .config true [SDS_LANE_TXEQ 23] ∧
    ((target TWE_ALARM).any fun t => !t.staged && t.row.pair == .none && (windowOf t.row t.reg).isNone && plainReg t.reg) = true ∧
    ((target HST_PRIV).any fun t => t.row.cls == .c) = true ∧
    ((target (SDS_LANE_TXEQ 23)).any fun t => !t.staged && t.row.pair == .none && windowOf t.row t.reg == some (.lane 23)) = true := by decide +kernel

theorem witness_posted_write_taken :
    (at_ { open_ with posted := [⟨.lane 23, .config, SDS_LANE_TXEQ 23, 1, 0xFFFFFFFF⟩] }).chip.posted.find? (fun p => p.window == .lane 23) =
      some ⟨.lane 23, .config, SDS_LANE_TXEQ 23, 1, 0xFFFFFFFF⟩ ∧
    plainReg (SDS_LANE_TXEQ 23) = true ∧ SDS_LANE_TXEQ 23 ≠ (PostedWindow.lane 23).busy.addr := by decide +kernel

theorem witness_register_pairs :
    (at_ open_).chip.admits .config false [HST_TDM_BASE_LO] ∧ (at_ open_).chip.admits .config false [HST_TDM_BASE_LO + 4] ∧
    (at_ open_).chip.admits .config true [HST_TDM_BASE_LO] ∧ (at_ open_).chip.admits .config true [HST_TDM_BASE_LO + 4] ∧
    ((target HST_TDM_BASE_LO).any fun t => !t.shadow && !t.staged && t.row.pair == .lo && t.writablePair) = true ∧
    ((target (HST_TDM_BASE_LO + 4)).any fun t => !t.shadow && !t.staged && t.row.pair == .hi && t.writablePair && t.reg != CFG_COMMIT_HI) = true := by
  decide +kernel

theorem witness_accesses_refused :
    (at_ open_).chip.reaches .mgt = true ∧ (at_ open_).chip.boot.recovery = false ∧ (at_ (open_.put TOP_LOCK_LOCK 1)).chip.reaches .config = true ∧
    ((target TOP_LOCK).any fun t => (at_ open_).chip.violates .mgt t true && (at_ open_).chip.violates .mgt t false) = true ∧
    ((target HST_PRIV).any fun t => !(at_ (open_.put TOP_LOCK_LOCK 1)).chip.violates .config t true && (at_ (open_.put TOP_LOCK_LOCK 1)).chip.barred t) = true ∧
    ((target TWE_ALARM).any fun t => !(at_ {}).chip.violates .config t true && !(at_ {}).chip.barred t && !t.shadow && !t.staged && (at_ {}).chip.isOff t) = true := by
  decide +kernel

theorem witness_table_windows :
    (at_ open_).chip.admits .config true [CAR_FT_DATA, CAR_FT_ADDR] ∧ (at_ open_).chip.admits .config true [TWE_FLOW_ADDR] ∧
    (at_ open_).chip.admits .config true (SRT_TBL_ADDR :: tableData (SRT_TBL_DATA 0) 25) ∧
    (at_ open_).chip.admits .config true [COP_Q_DATA 0, COP_Q_DATA 1, COP_Q_ADDR] ∧
    (at_ open_).chip.admits .config true (TOL_TBL_ADDR :: tableData (TOL_TBL_DATA 0) 5) ∧
    (at_ open_).chip.admits .config true (DRV_TBL_ADDR :: tableData (DRV_TBL_DATA 0) 5) ∧
    (at_ open_).chip.admits .config true [TSI_CM_DATA, TSI_CM_ADDR] ∧ (at_ open_).chip.admits .config true [TSI_CTRL] ∧
    (at_ open_).chip.admits .config true (NTU_TBL_ADDR :: tableData (NTU_TBL_DATA 0) 4) ∧ (at_ open_).chip.admits .config true [NTU_CAP] := by decide +kernel

/-- A fragment entry, and the two kinds of armed slot. -/
def fragment : FragEntry := ⟨255, 1, 2, 3, 4, 5, 6, 7⟩
def armed (action : Nat) : State := at_ { open_.put NTU_STATUS_NT_VALID 1 with time := { slots := [(63, ⟨10, 187499, action, 1, 2, 1⟩)] } }

theorem witness_event_slots :
    ((at_ { open_ with sorter := { frags := [fragment] } }).chip.sorter.frags.find? fun e => e.slot == 255) = some fragment ∧
    (armed 6).chip.ntValid = true ∧ (armed 6).chip.nextSlot = some (63, ⟨10, 187499, 6, 1, 2, 1⟩) ∧
    (armed 2).chip.ntValid = true ∧ (armed 2).chip.nextSlot = some (63, ⟨10, 187499, 2, 1, 2, 1⟩) ∧ (armed 2).chip.isOn 48 = true ∧
    ({ open_ with time := { tod := some 7 } } : Chip).tod3 = some 7 := by decide +kernel

theorem witness_serial :
    (at_ open_).chip.admits .config true [ETH_MDIO_DATA 1, ETH_MDIO_CMD 1] ∧ Map.get none (at_ open_).chip.mdio 1 = none ∧
    Map.get none (at_ { open_ with mdio := [(1, some true)] }).chip.mdio 1 = some true ∧
    (at_ open_).chip.admits .config true [TOP_I2C_DATA 1, TOP_I2C_CMD 1] ∧ Map.get 0 (at_ { open_ with i2c := [(1, 2)] }).chip.i2c 1 ≠ 0 := by decide +kernel

theorem witness_stores_and_logs :
    (at_ open_).chip.admits .config true [ETH_WK_DATA, ETH_WK_ADDR] ∧ (at_ open_).chip.flag PostedWindow.wake.busy = false ∧
    (at_ open_).chip.posted = [] ∧ (at_ open_).chip.admits .config true [eqAddr .b 15] ∧ (at_ open_).chip.flag (PostedWindow.line .b).busy = false ∧
    (at_ open_).chip.admits .config false [ETH_TSQ_W0 19] ∧ ((at_ open_).chip.port 19).stamps = [] ∧
    ((at_ { open_ with ports := [(19, { stamps := [⟨false, 2, 6, 3, 9, 10⟩] })] }).chip.port 19).stamps = [⟨false, 2, 6, 3, 9, 10⟩] ∧
    (at_ open_).chip.admits .config true [ITM_LOG_ADDR] := by decide +kernel

theorem witness_key_commands :
    (at_ open_).chip.admits .config true [KEY_CMD] ∧ (at_ open_).otp.hcs = false ∧ ({ Otp.named with hcs := true } : Otp).hcs = true ∧
    (at_ open_).chip.admits .config true [KEY_BUF_DATA] ∧ (at_ open_).chip.admits .config false [KEY_BUF_DATA] ∧
    (at_ { open_ with keys := { pair := some 0 } }).chip.keys.pair = some 0 ∧ (at_ open_).chip.keys.pair = none ∧
    (at_ open_).chip.admits .config true [ringCfg 47] := by decide +kernel

/-- Counter 7 of group 23 one step before its carry, with samples, and a bandwidth window running. -/
def counting : Chip :=
  { ((open_.setReg (TAL_G_CTL 23 7) 0xC0000000).put TAL_BW_CFG_EN 1) with
    counters := [(TAL_G_CNT_LO 23 7, 2 ^ 64 - 1)], tal := { bwRun := true } }

theorem witness_tallyman_counts :
    (at_ counting).chip.admits .config true [TAL_CTRL] ∧ (at_ counting).chip.isOn 48 = true ∧ (at_ counting).chip.tal.frozen = false ∧
    wordBits ((at_ counting).chip.reg (TAL_G_CTL 23 7)) 31 1 = 1 ∧ (at_ counting).chip.tal.await = [] ∧
    2 ^ 64 ≤ ((at_ counting).chip.ctr (TAL_G_CNT_LO 23 7)).toNat +
      talAmount (wordBits ((at_ counting).chip.reg (TAL_G_CTL 23 7)) 24 3) ((at_ counting).chip.f (TAL_G_THR_THR 23 7)) 1 ∧
    (at_ counting).chip.admits .config false [TAL_SMP_W0] ∧ (at_ counting).chip.flag TAL_BW_CFG_EN = true := by decide +kernel

/-! ## Configuration -/

/-- A commit of one register for frame 120, and the terminal around it. -/
def commit120 : Commit := { fn := 120, regs := [(NTU_XCFG, 77)], version := some 9, region := some 1 }
def configuring (f : Scrivener → Scrivener) : State := at_ { open_ with cfg := f {} }

theorem witness_commit_requests :
    (at_ open_).chip.admits .config true [CFG_COMMIT_LO, CFG_COMMIT_HI] ∧ (at_ open_).chip.admits .config true [CFG_CTRL] ∧
    (configuring fun f => { f with checking := some commit120 }).chip.cfg.checking.isSome = true ∧
    (configuring fun f => { f with pending := [commit120, commit120] }).chip.cfg.checking = none ∧
    2 ≤ (configuring fun f => { f with pending := [commit120, commit120] }).chip.cfg.pending.length ∧
    (at_ {}).chip.ntValid = false ∧ (configuring fun f => { f with pending := [commit120] }).chip.cfg.pending.length = 1 ∧
    (configuring fun f => { f with checking := some commit120 }).chip.cfg.checking = some commit120 := by decide +kernel

theorem witness_commit_applies : (configuring fun f => { f with pending := [commit120] }).chip.cfg.pending = commit120 :: [] := by decide +kernel

/-- A host object, and a bulk object whose hash no SHA-384 value of 48 bytes can begin with the whole of. -/
def object10 : HostObj := ⟨0x10, 5, [1, 2, 3]⟩

theorem witness_objects_and_saves :
    (at_ open_).chip.admits .config true [CFG_ROOT_BIND] ∧ (at_ open_).chip.admits .config true [CFG_OBJ_SIZE, CFG_OBJ_CTRL] ∧
    (configuring fun f => { f with object := some object10 }).chip.cfg.object = some object10 ∧
    (at_ open_).chip.admits .config true [CFG_SAVE_VER, CFG_SAVE] ∧ (at_ (open_.put CFG_SAVE_STATE 1)).chip.f CFG_SAVE_STATE = 1 ∧
    (at_ (open_.put CFG_SAVE_STATE 2)).chip.f CFG_SAVE_STATE = 2 := by decide +kernel

/-- A flash of 64 MiB around a command, with the loaded regions. -/
def flashing (op a : Nat) : State :=
  at_ { (open_.put NVM_STATUS_CS0_MIB 64).put NVM_ADDR_ADDR a with cfg := { flashCmd := some op }, boot := { fwRegion := some 0, cfgRegion := some 1 } }

/-- Line A's queue with one access, for an address that is not aligned. -/
def accessing (e : RegEntry) : State :=
  at_ (((open_.put (MBX_STATUS_RUN 1) 1).put (LPx_ACT_STATUS_KEYED .a) 1).put (LPx_ACT_STATUS_STATE .a) 5 |>.modLine .a fun l => { l with regQueue := [⟨9, [e]⟩] })

theorem witness_flash_commands :
    (at_ open_).chip.admits .config true [NVM_ADDR, NVM_CMD] ∧ (at_ open_).chip.admits .config true [NVM_ADDR, NVM_DATA, NVM_CMD] ∧
    (at_ open_).chip.flag NVM_PW_STATUS_BUSY = false ∧ (at_ open_).chip.posted = [] ∧
    (flashing 3 0x1800005).chip.cfg.flashCmd = some 3 ∧ (flashing 3 5).chip.boot.recovery = false ∧ (flashing 3 5).chip.boot.fwRegion = some 0 ∧
    (flashing 3 5).chip.boot.cfgRegion = some 1 ∧ (at_ { open_ with boot := { recovery := true } }).chip.boot.recovery = true := by decide +kernel

/-- The same with pair 1 running and the management SPI target privileged. -/
def managing : Chip := (open_.put (MBX_STATUS_RUN 1) 1).put MGT_CFG_MGT_PRIV 1

theorem witness_management :
    (at_ managing).chip.admits .mgt true [NVM_ADDR] ∧
    ((target NVM_ADDR).any fun t => !t.staged && t.row.pair == .none && plainReg t.reg) = true ∧
    ((target (NTU_XCFG + 0x8000)).any fun t => t.shadow && !t.fixedOn) = true ∧ (at_ managing).chip.admits .mgt false [NTU_XCFG + 0x8000] ∧
    (at_ open_).chip.boot.recovery = false ∧ ((target TOP_LOCK).any fun t => (at_ open_).chip.violates .mgt t false) = true ∧
    (0x03 : BitVec 8) ≠ 0x02 := by decide +kernel

theorem witness_fault_log_copy : (at_ (open_.put (MBX_STATUS_RUN 1) 1)).chip.isOn 46 = true ∧
    (at_ (open_.put (MBX_STATUS_RUN 1) 1)).chip.flag (MBX_STATUS_RUN 1) = true ∧
    (at_ { open_ with itm := { uncopied := 2 } }).chip.itm.uncopied ≠ 0 := by decide +kernel

theorem witness_reg_access_run :
    ((accessing ⟨1, 6, 5⟩).chip.line .a).regQueue = ⟨9, [⟨1, 6, 5⟩]⟩ :: [] ∧ (accessing ⟨1, 6, 5⟩).chip.reaches (headOf .a) = true ∧
    (6 : Nat) % 4 ≠ 0 ∧ ((target TOP_LOCK).any fun t => (accessing ⟨1, TOP_LOCK, 5⟩).chip.violates (headOf .a) t false) = true ∧
    (accessing ⟨1, NTU_XCFG + 0x8000, 5⟩).chip.admits (headOf .a) false [NTU_XCFG + 0x8000] ∧
    (accessing ⟨2, NTU_XCFG, 5⟩).chip.admits (headOf .a) true [NTU_XCFG] ∧
    ((target NTU_XCFG).any fun t => t.row.cls == .c && !t.fixedOn) = true := by decide +kernel

/-! ## Power -/

/-- The domains that `ds` names are OFF, all others ON. -/
def without (ds : List Nat) : Chip := on ((List.range 50).filter fun d => !ds.contains d)

/-- A request for one domain in progress, in its quiesce. -/
def quiescing (d t : Nat) (src : ReqSource) : State :=
  at_ { (open_.put (PWR_STATE_PHASE d) 1).start (.drain d) 777 with power := { jobs := [{ src := src, todo := [⟨d, t⟩], dom := d }] } }

/-- A domain in a step of its wake. -/
def waking (d p : Nat) : State := at_ (((without [d]).put (PWR_STATE_PHASE d) p).start (.wake d) 777)

theorem witness_power_requests :
    (at_ open_).chip.admits .config true [PWR_REQ] ∧ (at_ open_).chip.flag PWR_PW_STATUS_BUSY = false ∧ (at_ open_).chip.posted = [] ∧
    (at_ open_).chip.power.jobs = [] ∧ (at_ open_).chip.power.queued = [] ∧ (at_ open_).chip.f (PWR_STATE_PHASE 48) ≠ 1 ∧
    (at_ open_).chip.inUse 1 = true ∧ (at_ open_).chip.inUse 40 = false ∧ 40 ∈ parents 41 ∧ (at_ open_).chip.isOn 41 = true ∧
    (at_ (without [16])).chip.f (PWR_STATE_PRESENT 16) = 0 ∧ (at_ (without [16])).chip.slotFree = true ∧
    (at_ (without [16])).chip.targetState 16 2 = 2 ∧ (∀ p ∈ ancestors 16 ++ [16], (at_ (without [16])).chip.f (PWR_STATE_PHASE p) ≠ 1) := by decide +kernel

theorem witness_listen_requests :
    (at_ open_).chip.canListen 4 = true ∧ (at_ { open_ with store := [(ETH_MODE 0, 3)] }).chip.canListen 0 = false ∧
    (∀ d ∈ listenDomains 1, (at_ open_).chip.isOn d = true ∧ (at_ open_).chip.inTransition d = false) ∧
    (∀ d ∈ listenDomains 1, (at_ (without [31, 36])).chip.isOn d = false ∧ (at_ (without [31, 36])).chip.inTransition d = false) ∧
    (at_ (without [31, 36])).chip.slotFree = true := by decide +kernel

theorem witness_power_steps :
    (quiescing 48 0 .commit).chip.f (PWR_STATE_PHASE 48) = 1 ∧ (quiescing 48 0 .commit).chip.drained 48 = true ∧
    (quiescing 48 0 .commit).chip.power.jobs = [{ src := .commit, todo := [⟨48, 0⟩], dom := 48 }] ∧ (quiescing 48 0 .commit).chip.power.queued = [] ∧
    (quiescing 48 0 .commit).chip.deadline (.drain 48) = some 777 ∧
    (waking 16 5).chip.f (PWR_STATE_PHASE 16) = 5 ∧ (waking 16 2).chip.f (PWR_STATE_PHASE 16) = 2 ∧ (waking 16 5).chip.running (.wake 16) = true ∧
    (waking 16 5).chip.deadline (.wake 16) = some 777 ∧ (waking 16 5).chip.power.waiting = [] ∧ (waking 16 5).chip.power.jobs = [] ∧
    (waking 16 5).chip.reaction 16 < 2 ∧ (waking 16 6).chip.f (PWR_STATE_PHASE 16) = 6 := by decide +kernel

/-- A drain that a commit asked for and that timed out once, tried again in phase 1. -/
def draining (phase : Nat) : State :=
  at_ { (open_.put (PWR_STATE_PHASE 48) phase).start (.drain 48) 777 with power := { retry := [⟨48, 0⟩], jobs := if phase = 1 then [{ src := .retry, todo := [⟨48, 0⟩] }] else [] } }

theorem witness_drain_retry :
    (draining 1).chip.f (PWR_STATE_PHASE 48) = 1 ∧ (draining 1).chip.deadline (.drain 48) = some 777 ∧ (draining 1).chip.power.queued = [] ∧
    (draining 1).chip.power.jobs = [{ src := .retry, todo := [⟨48, 0⟩] }] ∧ (draining 0).chip.power.jobs = [] ∧
    (draining 0).chip.power.retry = [⟨48, 0⟩] ∧ (draining 0).chip.isOn 48 = true ∧ (draining 0).chip.inTransition 48 = false ∧
    (∀ k ∈ children 48, (draining 0).chip.onOrWaking k = false) ∧ (draining 0).chip.grantsPend 48 = false := by decide +kernel

/-- Group 0 in listen, line A in doze and line B in deep sleep, every wake source with the same action. -/
def wakeable (action : Word) : State :=
  at_ (((((((without [4, 5, 6, 27, 28, 29, 30, 35]).put (ETH_STATUS_LISTEN 0) 1).put PWR_LISTEN_GROUPS 1).put (LPx_ACT_STATUS_SLEEP .a) 1).put
    (LPx_ACT_STATUS_SLEEP .b) 2).setReg (PWR_WAKE_CFG 0) action).setReg (PWR_WAKE_CFG 1) action
    |>.modLine .b fun l => { l with sleep := some ⟨2, 0, 9⟩ })

theorem witness_wake_events :
    (wakeable 0x55555555).chip.wakeAction 22 ≠ 0 ∧ (wakeable 0x55555555).chip.wakeAction 0 ≠ 0 ∧ (wakeable 0x55555555).chip.power.jobs = [] ∧
    (wakeable 0x55555555).chip.wakeAction 0 = 1 ∧ (wakeable 0x55555555).chip.power.queued = [] ∧ (wakeable 0x55555555).chip.slotFree = true ∧
    (∀ d ∈ listenDomains 0, (wakeable 0x55555555).chip.isOn d = false ∧ (wakeable 0x55555555).chip.inTransition d = false) ∧
    (wakeable 0).chip.flag (ETH_STATUS_LISTEN 0) = true ∧ (wakeable 0).chip.f (LPx_ACT_STATUS_SLEEP .a) = 1 ∧
    (wakeable 0).chip.wakeAction 22 = 0 ∧ (wakeable 0).chip.isOn (macDom 0) = false ∧ (wakeable 0).chip.f (ETH_WAKE_STATUS_LAST 0) = 0 ∧
    ((wakeable 0).chip.put (ETH_WAKE_STATUS_LAST 0) 3).f (ETH_WAKE_STATUS_LAST 0) ≠ 0 ∧
    ((wakeable 0).chip.line .b).sleep = some ⟨2, 0, 9⟩ ∧ (wakeable 0).chip.f (LPx_ACT_STATUS_SLEEP .b) = 2 ∧
    (∀ d ∈ [rxDom .b, protoDom .b, txDom .b], (wakeable 0).chip.isOn d = false ∧ (wakeable 0).chip.inTransition d = false) ∧
    (wakeable 0).chip.slotFree = true := by decide +kernel

/-! ## Integrity -/

/-- Every class with the same reaction where Table 16.1 allows it, line A in Sync in an activation state with a burst. -/
def monitored (react : Word) (st : Nat) : Chip :=
  ((((((open_.setReg (ITM_REACT 0) react).setReg (ITM_REACT 1) react).put (LPx_ACT_STATUS_STATE .a) st).put (LNx_RX_STATUS_FRAME_STATE .a) 2).put
    (LNx_TX_STATUS_BEN .a) 1).modLine .a fun l => { l with burstEnd := some 400 })

/-- A rule that its copy agrees with. -/
def ruled : State := at_ { monitored 0 5 with sorter := { rules := [(5, 9)], copy := [(5, 9)] } }

theorem witness_fault_reports :
    (at_ (monitored 0 5)).chip.isOn 49 = true ∧ (at_ (monitored 0 5)).chip.reaction 0 < 2 ∧ (at_ (monitored 0 5)).chip.reaction 1 < 2 ∧
    (at_ (monitored 0 5)).chip.reaction 13 < 2 ∧ (at_ {}).chip.isOn 49 = false ∧ (at_ (monitored 0 5)).chip.reaction 9 < 2 ∧
    (at_ (monitored 0 5)).chip.reaction 11 < 2 ∧ (at_ (monitored 0 5)).chip.reaction 15 < 2 ∧ ruled.chip.isOn (12 + 5 / 3072) = true ∧
    ruled.chip.reaction 2 < 2 ∧ ruled.chip.sorter.rules = ruled.chip.sorter.copy ∧ ruleAt ruled.chip.sorter.copy 5 ≠ 7 := by decide +kernel

theorem witness_safe_state :
    (at_ (monitored 0 5)).chip.reaction 4 = 2 ∧ (at_ (monitored 0 5)).chip.flag ITM_SAFE_ACTIVE = false ∧
    (at_ (monitored 0x300 5)).chip.reaction 4 = 3 ∧ (at_ (monitored 0x300 5)).chip.reaction 6 = 2 ∧ (at_ (monitored 0x300 5)).chip.itm.next < 256 ∧
    (at_ { monitored 0x300 5 with itm := { resets := [0, 0, 0] } }).chip.flag ITM_SAFE_ACTIVE = false ∧
    3 ≤ ((at_ { monitored 0x300 5 with itm := { resets := [0, 0, 0] } }).chip.itm.resets.filter fun t => decide (0 < t + 600 * secCcy)).length ∧
    (at_ (monitored 0x300 5)).chip.itm.resets.length < 3 ∧ (at_ (monitored 0 5)).chip.admits .config true [ITM_SAFE] ∧
    (at_ ((monitored 0 5).start (.watchdog 1) 9)).chip.deadline (.watchdog 1) = some 9 ∧ (at_ (monitored 0 5)).chip.reaction 10 = 2 ∧
    (at_ (monitored 0x300000 5)).chip.reaction 10 = 3 ∧ (at_ (monitored 0 5)).chip.admits .config true [ITM_WDOG_KICK] ∧
    (at_ ((monitored 0 5).setReg (ITM_REACT 1) 0xF)).chip.reaction 17 = 3 ∧ (at_ ((monitored 0 5).setReg (ITM_REACT 1) 0xF)).chip.isOn 49 = true ∧
    (at_ ((monitored 0 5).setReg (ITM_REACT 1) 0xF)).chip.flag ITM_SAFE_ACTIVE = false ∧ (at_ (monitored 0x300 5)).chip.itm.monitorLost = false := by decide +kernel

theorem witness_porter_violations :
    (1 : BitVec 6) ≠ 0 ∧ (at_ (monitored 0 5)).chip.reaction 14 < 2 ∧ (at_ (monitored 0 5)).chip.actState .a ≠ stSilenced ∧
    (at_ (monitored 0 7)).chip.actState .a = stSilenced ∧ (at_ (monitored 0 5)).chip.admits .config true [ITM_PTR_CTRL .a] := by decide +kernel

/-! ## Reset, start-up and pins -/

/-- Before start-up, with the firmware's self-tests interrupting. -/
def booting (p : PinState) : State := at_ { (({} : Chip).setReg (ITM_REACT 0) 0).setReg (ITM_REACT 1) 0 with pins := p }

theorem witness_start_up :
    (booting {}).chip.boot.started = false ∧ (booting {}).chip.boot.recovery = false ∧ (booting {}).chip.pins.refclk = true ∧
    (booting {}).chip.pins.holdOsc = true ∧ (booting {}).chip.flag CFG_BOOT_READY = false ∧
    (∀ d < 50, (booting {}).chip.isOn d = decide (d = 0)) ∧ (booting {}).chip.itm.faultLow = true ∧ (booting {}).chip.f CFG_STATUS_SRC = 0 ∧
    (booting {}).chip.power = {} ∧ (booting {}).chip.reaction 15 < 3 ∧ (booting {}).chip.reaction 16 < 3 ∧
    (booting { refclk := false }).chip.pins.refclk = false := by decide +kernel

/-- After start-up, with the clock inputs as they are. -/
def started (p : PinState) : State := at_ { (monitored 0 5).put HST_LINK_DL_UP 1 with pins := p, boot := { started := true } }

theorem witness_pin_events :
    (booting {}).chip.boot.ended = false ∧ (started {}).chip.boot.ended = true ∧
    (started {}).chip.pins = { (started {}).chip.pins with refclk := true, holdOsc := true } ∧ (started {}).chip.reaction 7 < 2 ∧
    (started { refclk := false }).chip.pins.setClock .refclk true ≠ (started { refclk := false }).chip.pins ∧
    (started {}).chip.pins.pcieRef = true ∧ (started {}).chip.isOn 41 = true ∧ (started {}).chip.flag HST_LINK_DL_UP = true := by decide +kernel

/-! ## Rules stated whole -/

theorem witness_net_time : ({ fn := 2 ^ 48 - 1, cif := 187499 } : NetTime).cif < 187500 ∧ ({ fn := 2 ^ 48 - 1, cif := 187499 } : NetTime).fn < 2 ^ 48 ∧
    ({} : Chip).nt.cif < 187500 ∧ ({} : Chip).nt.fn < 2 ^ 48 := by decide +kernel

/-- Flow 4 open on line A. -/
def opened : State := at_ { carrying.chip with tables := [(4, 2 ^ 31)] }
def header4 : List Byte := CarriageHeader.bytes ⟨5, 4, true, true, 0, false, 1, 0⟩

theorem witness_errored_carriage :
    (opened.chip.line .a).area = some 100 ∧ opened.chip.isOn 8 = true ∧
    correctHeader (opened.chip.flag CAR_CFG_HEC_CORR) header4 = some (header4, false) ∧ parseHeader header4 = ⟨5, 4, true, true, 0, false, 1, 0⟩ ∧
    100 + 10 + 5 + 16 ≤ packetAreaEnd ∧ natBits (opened.chip.tab 0 4) (31 - Line.idx .a) 1 = 1 := by decide +kernel

theorem witness_shadow_privilege :
    (at_ open_).chip.reaches .mgt = true ∧ (at_ open_).chip.boot.recovery = false ∧
    ((target (NTU_XCFG + 0x8000)).any fun t => t.row.cls == .c && (at_ open_).chip.rankAt .mgt t == 1) = true := by decide +kernel

theorem witness_faults_of_one_ccy :
    (at_ (monitored 0x300 5)).chip.isOn 49 = true ∧ (at_ (monitored 0x300 5)).chip.itm.next < 256 ∧
    (at_ (monitored 0x300 5)).chip.reaction 4 = 3 ∧ (at_ (monitored 0x300 5)).chip.reaction 6 = 2 := by decide +kernel

/-! ## The terminal as a whole -/

/-- Fuses, floors and flash at work: every state meets the premises of the statements about them, this one among them. -/
theorem witness_legal_fuses : State.reset.otp.Legal ∧ Map.wf (fun _ => (0xFF : Byte)) State.reset.chip.flash = true := by
  exact ⟨by decide, rfl⟩

/-! ## Well-formedness: a term that each check refuses, and terms that pass -/

/-- Terms whose register address is not word-aligned or lies above the user view. -/
theorem test_wf_refuses_addresses :
    ([.registerWrite .config 6 0, .w1cWrite .config 0x2000000 0, .maskedWrite .config 1 0 0, .shadowWrite .config 2 0, .pairLoRead .config 3,
      .pairHiRead .config 6, .pairLoWrite .config 2 0, .pairHiWrite .config 1 0, .postedWrite .config 7 0, .cregSweep [(3, 0)] [],
      .doorbellWrite 0x40000 0, .doorbellWrite 2 0] : List Instr).all (fun i => !i.wf) = true := by decide +kernel

/-- Messages whose own fields, or whose content, do not fit Tables 3.4 and 3.5. -/
theorem test_wf_refuses_messages :
    ([.nonce .a open5 [], .nonce .a { open5 with fn := 2 ^ 48 } (fill 32 0), .nonce .a { open5 with tid := 1024 } (fill 32 0),
      .nonce .a { open5 with seq := 2 ^ 32 } (fill 32 0), .nonce .a { open5 with mic := [] } (fill 32 0), .profile .a open5 [⟨32, 0⟩],
      .tidAssign .a open5 (2 ^ 64) 0, .tidAssign .a open5 0 1024, .eqdAssign .a open5 (2 ^ 22) 0, .eqdAssign .a open5 0 (2 ^ 48),
      .eqdAdjust .a open5 0 (2 ^ 48), .allocAssign .a open5 256 [], .allocAssign .a open5 1 [⟨2 ^ 16, 0, 0⟩], .bulkAnnounce .a open5 256 0 (fill 32 0),
      .bulkAnnounce .a open5 0 (2 ^ 32) (fill 32 0), .bulkAnnounce .a open5 0 0 [], .keyRoll .a open5 (2 ^ 16) 0 0 0, .keyRoll .a open5 0 0 256 0,
      .sleepGrant .a open5 256 0 0, .tod .a open5 0 0 (2 ^ 32), .emergencyStop .a open5 (2 ^ 64) false, .silenceRelease .a open5 0 (2 ^ 32),
      .deactivate .a open5 (2 ^ 64), .regAccess .a open5 1 [⟨1, 2 ^ 24, 0⟩], .regAccess .a open5 5 (List.replicate 5 {})] : List Instr).all
      (fun i => !i.wf) = true := by decide +kernel

/-- Frames, headers and entries of a wrong length. -/
theorem test_wf_refuses_lengths :
    ([.acquisition .a [] [], .syncField .a 0 false 0 [] 0, .syncField .a 0 false 0 (fill 32 0) 187500, .syncField .a 0 false 65 (fill 32 0) 0,
      .directedReacq .a 0 [] 0 (fill 32 0), .downstreamFrame .a (.decoded { payload := [] }), .downstreamFrame .a (.symbols [4]), .carriageFrame .a [] false [] false,
      .ruleEntryWrite .config 0 [], .queueEntryWrite .config 0 [], .meterEntryWrite .config 0 [], .schedEntryWrite .config 0 0 [], .tribE1Frame 0 [],
      .txRingFrame [([], [])] .none, .rxRingDeliver [[]] .none {}, .hostTdmRead (some []), .xtsEncrypt [] [] .none, .xtsDecrypt [] [] .none,
      .gcmEncrypt [] [] [] .none, .gcmDecrypt [] [] [] .none, .sha384 [] [] .none, .linkChange 0 { sync := true, lanes := List.replicate 5 (true, true, true) }] :
      List Instr).all (fun i => !i.wf) = true := by decide +kernel

/-- Ports, tributaries, domains, timers and entries that the terminal does not have. -/
theorem test_wf_refuses_numbers :
    ([.startup { flashMode := 3 }, .startup { noWake := [(50, 0, false)] }, .fwHeartbeat 101 0, .fwHeartbeat 0 101, .gapExpiry 4096, .flowIdleExpiry 4096,
      .selSwitch 32, .expressStage .a 64, .schedulerSelect 152, .ethRxFrame 20 { bytes := [] }, .ethRxFrame 0 { bytes := [], frac := 256 }, .pauseTimerExpiry 20,
      .xoffChange 20, .xoffRefresh 20, .ethTxFrame 20 {} 0, .preemption 4 {} 0, .mmVerify 4 false, .linkChange 20 { sync := true }, .polarityTryExpiry 24,
      .laneAlignmentLock 256, .listenFrame 20 [], .tsqRead .config 20, .mdioC22Write .config 2 0 0 0, .mdioC22Read .config 2 0 0, .mdioC45Address .config 2 0 0 0,
      .mdioC45Write .config 2 0 0 0, .mdioC45ReadInc .config 2 0 0, .mdioC45Read .config 2 0 0, .mdioFrameEnd 2 true 0, .tribClockLoss 32, .mfSearchExpiry 32,
      .intwkDeclare 32, .tsiFrame [(4096, false)], .ppsInEdge 256, .ptpSync 20, .ptpAnnounce 20, .ptpDelayReq 20 false 0, .boundLost 4, .ringEnable .config 48 0,
      .msixSend 48, .msixUnmask 64, .counterOverflow 24 0 0 none, .counterOverflow 0 8 0 none, .quiesceEnd 50, .drainTimeout 50, .wakeStepReady 50 false,
      .wakeStepTimeout 50, .wakeComplete 50 [], .wakeEvent 23, .faultDetected [{ cls := 18 }], .watchdogExpiry 2, .ruleSweep [(12288, 0)],
      .i2cWrite .config 2 0 0 0 0, .i2cRead .config 2 0 0 0, .i2cTransactionEnd 2 .complete 0, .i2cBusHeld 2, .tribTxE1Frame 32, .hostLinkUp 16 4 false,
      .hostLinkUp 4 9 false, .railReturn 9] : List Instr).all (fun i => !i.wf) = true := by decide +kernel

theorem test_wf_accepts :
    ([.registerWrite .config NTU_XCFG 0, .registerWrite .mgt 0x1000000 0, .nonce .a open5 (fill 32 0), .ethRxFrame 19 { bytes := [] }, .wakeComplete 49 [],
      .faultDetected [{ cls := 17 }], .startup {}, .xtsEncrypt (fill 64 0) [] .none] : List Instr).all (fun i => i.wf) = true := by decide +kernel

/-! ## Worked by hand from the spec -/

/-- The worked example of R6: 100,000 ccy and 2 ms after 78,204,311:93,750. -/
theorem test_nt_example : (⟨78204311, 93750⟩ : NetTime).add 100000 = ⟨78204312, 6250⟩ ∧ (⟨78204311, 93750⟩ : NetTime).add 3000000 = ⟨78204327, 93750⟩ := by
  decide +kernel

/-- The worked example of Table 3.11: 3,744 data bytes in a grant of 1,014 words; codeword 16 at words 1,000 on and bytes 3,712 on. -/
theorem test_burst_example : burstCapacity 1014 = 3744 ∧ codewordStart 16 = 1000 ∧ codewordStart 5 = 312 ∧ codewordBytes 1014 16 = 3712 ∧ codewordBytes 1014 17 = 3744 := by
  decide +kernel

/-- The bandwidth example of Table 14.7: 80,000 frames of 1,514 bytes in 8,000 frames of NT are 968,960 kb/s. -/
theorem test_bandwidth_example : 80000 * 1514 * 64 / 8000 = 968960 ∧ frameCcy * 8000 = 1500000000 := by decide

/-- The check value of IEEE 802.3's FCS over the nine ASCII digits, as for any CRC-32, and that of CRC-32C. -/
theorem test_crc_check : fcs32 ([0x31, 0x32, 0x33, 0x34, 0x35, 0x36, 0x37, 0x38, 0x39] : List Byte) = 0xCBF43926 ∧
    crc32c ([0x31, 0x32, 0x33, 0x34, 0x35, 0x36, 0x37, 0x38, 0x39] : List Byte) = 0xE3069283 := by decide +kernel

/-- R2, Tables 16.1 and 17.14: registers at reset. -/
theorem test_reset_registers : State.reset.chip.reg TOP_CHIP_ID = 0x09640B01 ∧ State.reset.chip.f (LPx_IDENT_TID .b) = 0x3FF ∧
    State.reset.chip.reaction 4 = 3 ∧ State.reset.chip.reaction 0 = 0 := by decide +kernel

/-- R345, R348: a user master's write to a privileged register changes nothing but the record of it. -/
theorem test_user_write_refused :
    (match exec (.registerWrite .mgt (PWR_WAKE_CFG 0) 5) (at_ open_) with
      | .next t => decide (t.chip.reg (PWR_WAKE_CFG 0) = open_.reg (PWR_WAKE_CFG 0) ∧ t.chip.flag TOP_ACC_STATUS_ACC_VIOL = true)
      | _ => false) = true := by decide +kernel

/-- R417: a brown-out forgets what was written. -/
theorem test_brownout :
    (match exec .aonBrownout (at_ (open_.put TOP_LOCK_LOCK 1)) with
      | .next t => decide (t.chip.f TOP_LOCK_LOCK = 0 ∧ t.chip.isOn 8 = false)
      | _ => false) = true := by decide +kernel

/-- The queue is first in, first out: a step runs its front. -/
theorem test_step_takes_the_front :
    (match step { at_ open_ with pending := [.tapReset, .mgtStatus] } with
      | .next t => decide (t.pending = [.mgtStatus])
      | _ => false) = true := by decide +kernel

end Sys2Proof.Tests
end

section
/-! SUPPORT. What a frame says of single fields and pieces, and of a command that has settled. -/

namespace Sys2Proof.Machine
open Sys2Proof

variable {R C : Nat → Bool} {K : TimerKey → Bool} {ps : List Piece} {c d : Chip}

/-! ## Fields -/

theorem Chip.Within.f (h : Chip.Within R C K ps c d) (x : Fld) (hr : R x.addr = false) (hs : standingReg x.addr = false)
    (ht : tallyPage x.addr = false) : d.f x = c.f x := by
  simp only [Chip.f, h.reg _ hr hs ht]

theorem Chip.Within.flag (h : Chip.Within R C K ps c d) (x : Fld) (hr : R x.addr = false) (hs : standingReg x.addr = false)
    (ht : tallyPage x.addr = false) : d.flag x = c.flag x := by
  simp only [Chip.flag, h.f x hr hs ht]

/-! ## Single pieces -/

theorem Chip.Within.now (h : Chip.Within R C K ps c d) (hp : Piece.clock ∉ ps) : d.now = c.now := by
  simpa [Chip.body, keep, hp] using congrArg Chip.now h.body

theorem Chip.Within.nt (h : Chip.Within R C K ps c d) (hp : Piece.clock ∉ ps) : d.nt = c.nt := by
  simpa [Chip.body, keep, hp] using congrArg Chip.nt h.body

theorem Chip.Within.boot (h : Chip.Within R C K ps c d) (hp : Piece.boot ∉ ps) : d.boot = c.boot := by
  simpa [Chip.body, keep, hp] using congrArg Chip.boot h.body

theorem Chip.Within.posted (h : Chip.Within R C K ps c d) (hp : Piece.access ∉ ps) : d.posted = c.posted := by
  simpa [Chip.body, keep, hp] using congrArg Chip.posted h.body

theorem Chip.Within.staged (h : Chip.Within R C K ps c d) (hp : Piece.staged ∉ ps) : d.staged = c.staged := by
  simpa [Chip.body, keep, hp] using congrArg Chip.staged h.body

theorem Chip.Within.lockWritten (h : Chip.Within R C K ps c d) (hp : Piece.staged ∉ ps) : d.lockWritten = c.lockWritten := by
  simpa [Chip.body, keep, hp] using congrArg Chip.lockWritten h.body

theorem Chip.Within.store (h : Chip.Within R C K ps c d) (hp : Piece.config ∉ ps) : d.store = c.store := by
  simpa [Chip.body, keep, hp] using congrArg Chip.store h.body

/-- A shadow reads alike where neither the staged values nor the configuration store changed. -/
theorem Chip.Within.shadow (h : Chip.Within R C K ps c d) (hs : Piece.staged ∉ ps) (hc : Piece.config ∉ ps) (a : Nat) :
    d.shadow a = c.shadow a := by
  simp only [Chip.shadow, Chip.stored, h.staged hs, h.store hc]

/-- The posted writes alone changed. -/
theorem Chip.Within.postedOnly (c : Chip) (q : List Posted) (h : Piece.access ∈ ps) : Chip.Within R C K ps c { c with posted := q } :=
  .piece rfl rfl rfl (by simp [Chip.body, keep, h])

/-! ## Commands -/

/-- What a command leaves after it has settled, from what it leaves before. -/
theorem within_settle {b : Chip} (h : Chip.Within R C K ps c d) : Chip.Within R C K ps c (settle b d) := h.trans (settle_only b d)

/-- A command that may write the fuses, and leaves them: what holds of the terminal once it has settled. -/
theorem does_of_runFuse {i : Instr} {s : State} {act : Otp → Chip → Chip × Otp} {P : Chip → Prop} (hi : exec i s = runFuse s act)
    (h : act s.otp s.chip = (d, s.otp)) (hP : P (settle s.chip d)) : Does i s P :=
  ⟨_, hi, rfl, congrArg Prod.snd h, by simpa only [h] using hP⟩

end Sys2Proof.Machine
end

section
/-! SUPPORT. The register map as the rules about power use it: every register lies in one of the domains PD00 to PD49. -/

namespace Sys2Proof.Machine
open Sys2Proof

/-- Every list of indexes that a register of a row with some dimensions can have. -/
def indexLists : List (Nat × Nat) → List (List Nat)
  | [] => [[]]
  | (n, _) :: r => (List.range n).flatMap fun i => (indexLists r).map (i :: ·)

theorem mem_indexLists {dims : List (Nat × Nat)} {off : Nat} {is : List Nat} (h : matchDims dims off = some is) : is ∈ indexLists dims := by
  induction dims generalizing off is with
  | nil =>
    simp only [matchDims, Option.ite_none_right_eq_some, Option.some.injEq] at h
    simp [indexLists, ← h.2]
  | cons e r ih =>
    obtain ⟨n, stride⟩ := e
    simp only [matchDims, Option.ite_none_right_eq_some, Option.map_eq_some_iff] at h
    obtain ⟨hi, js, hjs, rfl⟩ := h
    simpa [indexLists] using ⟨hi, ih hjs⟩

theorem findIn_some {a : Nat} {rows : List RegRow} {r : RegRow} {is : List Nat} (h : findIn a rows = some (r, is)) :
    r ∈ rows ∧ is ∈ indexLists r.dims := by
  induction rows with
  | nil => cases h
  | cons q qs ih =>
    unfold findIn at h
    split at h
    · rename_i js hq
      obtain ⟨rfl, rfl⟩ := Prod.mk.inj (Option.some.inj h)
      simp only [RegRow.indexes, Option.ite_none_right_eq_some] at hq
      exact ⟨List.mem_cons_self, mem_indexLists hq.2⟩
    · exact ⟨List.mem_cons_of_mem _ (ih h).1, (ih h).2⟩

theorem rowsOfPage_above {p : Nat} (h : 38 ≤ p) : rowsOfPage p = [] := by
  obtain ⟨k, rfl⟩ := Nat.exists_eq_add_of_le' h
  rfl

theorem rows_dom_lt : ∀ p < 38, ∀ r ∈ rowsOfPage p, ∀ is ∈ indexLists r.dims, r.dom.of is < 50 := by decide +kernel

theorem findReg_dom_lt {a : Nat} {r : RegRow} {is : List Nat} (h : findReg a = some (r, is)) : r.dom.of is < 50 := by
  obtain ⟨hr, his⟩ := findIn_some h
  by_cases hp : a / 65536 < 38
  · exact rows_dom_lt _ hp r hr is his
  · rw [rowsOfPage_above (by omega)] at hr
    cases hr

/-- The row and the indexes that an address names are those of its active address in the map. -/
theorem target_some {a : Nat} {t : Target} (h : target a = some t) : findReg t.reg = some (t.row, t.idx) := by
  unfold target at h
  extract_lets user p sh b at h
  split at h
  · cases h
  · split at h
    · rename_i row idx hb
      split at h
      · cases h
      · cases h
        exact hb
    · cases h

theorem target_dom_lt {a : Nat} {t : Target} (h : target a = some t) : t.row.dom.of t.idx < 50 := findReg_dom_lt (target_some h)

end Sys2Proof.Machine
end

section
/-! SUPPORT. The passing of time: what `n` ccy change beside the clock, and how NT advances (R6). -/

namespace Sys2Proof.Machine
open Sys2Proof

variable {R C : Nat → Bool} {K : TimerKey → Bool} {ps : List Piece}

/-! ## What time passing changes -/

theorem tallyPage_cyc {g : Nat} (h : g < 63) : tallyPage (TAL_G_CYC_LO g) = true := by
  simp only [tallyPage, TAL_G_CYC_LO, beq_iff_eq, Bool.or_eq_true]; omega

theorem Chip.pulses_only (c : Chip) {g : Nat} (e k : Nat) (hg : g < 63) : Chip.Within R C K ps c (c.pulses g e k) := by
  unfold Chip.pulses
  split
  · exact .refl ..
  · refine .foldl _ _ (fun d j hj => ?_) c
    dsimp only
    split
    · exact Chip.talAdd_only d _ _ (tallyPage_cnt hg (List.mem_range.1 hj)) (by omega)
    · exact .refl ..

/-- Cycle and level counters count in the Tallyman alone. -/
theorem Chip.talElapse_only (c : Chip) (n : Nat) : Chip.Within R C K ps c (c.talElapse n) := by
  unfold Chip.talElapse
  split
  · exact .refl ..
  · refine .foldl _ _ (fun d g hg => ?_) c
    have hg : g < 24 := List.mem_range.1 hg
    refine .trans (d := if Map.get 0 d.regs (TAL_G_CFG g) == 1 then (d.talAdd (TAL_G_CYC_LO g) 8 g n).1 else d) ?_
      (.foldl _ _ (fun e j hj => ?_) _)
    · split
      · exact Chip.talAdd_only d _ _ (tallyPage_cyc (by omega)) (by omega)
      · exact .refl ..
    · dsimp only
      split
      · exact (Chip.Within.tal e _).trans (Chip.talAdd_only _ _ _ (tallyPage_cnt (by omega) (List.mem_range.1 hj)) (by omega))
      · exact .refl ..

theorem Chip.endBurst_only (c : Chip) (x : Line) (hR : R (LNx_TX_STATUS x) = true) (hp : Piece.line x ∈ ps) :
    Chip.Within R C K ps c (c.endBurst x) := by
  unfold Chip.endBurst
  split
  · split
    · exact ((Chip.Within.lower (.inl hR)).trans (.lower (.inl hR))).trans (.modLine _ hp)
    · exact .refl ..
  · exact .refl ..

theorem Chip.judgeDrained_only (c : Chip) (hs : R SRT_EPOCH_STATUS = true) (ha : R SRT_ALARM = true) :
    Chip.Within R C K ps c c.judgeDrained := by
  unfold Chip.judgeDrained
  split
  · exact .refl ..
  · split
    · exact ((Chip.Within.raise (.inl hs)).trans (.raise (.inl ha))).trans (.put _ (.inl hs))
    · exact .put _ (.inl hs)

theorem Chip.finishFrame_only (c : Chip) (n : Nat) (e : EthPort) (hp : Piece.ports ∈ ps) (hb : C (N_ETHP_TX_BAD_FCS n) = true)
    (hf : C (N_ETHP_TX_FRAMES n) = true) (hy : C (N_ETHP_TX_BYTES n) = true) : Chip.Within R C K ps c (c.finishFrame n e) := by
  unfold Chip.finishFrame
  split
  · exact .refl ..
  · rename_i t _
    split
    · have h : Chip.Within R C K ps c { c with ports := Map.set {} c.ports n { e with tx := none } } :=
        .piece rfl rfl rfl (by simp [Chip.body, keep, hp])
      dsimp only
      split
      · exact h.trans (Chip.count_only _ _ _ hb)
      · exact h.trans ((Chip.count_only _ _ _ hf).trans (Chip.count_only _ _ _ hy))
    · exact .refl ..

/-- What the passing of time leads to once the clock has moved on by so many frames: the pulse of each frame, the end of bursts and of
Ethernet frames, and DRAINED. -/
def Chip.afterClock (c : Chip) (frames : Nat) : Chip :=
  let c := (((c.pulses 23 0 frames).endBurst .a).endBurst .b).judgeDrained
  c.ports.foldl (fun c e => c.finishFrame e.1 e.2) c

/-- The clock moved on, with what the Tallyman counts on the way. -/
def Chip.moveClock (c : Chip) (n : Nat) : Chip := { c.talElapse n with now := (c.talElapse n).now + n, nt := (c.talElapse n).nt.add n }

theorem Chip.elapse_zero (c : Chip) : c.elapse 0 = c := rfl

theorem Chip.elapse_pos (c : Chip) {n : Nat} (h : n ≠ 0) :
    c.elapse n = (c.moveClock n).afterClock (((c.talElapse n).nt.cif + n) / frameCcy) := by
  unfold Chip.elapse
  rw [if_neg h]
  rfl

theorem Chip.afterClock_only (c : Chip) (frames : Nat) (hx : ∀ x, R (LNx_TX_STATUS x) = true) (hs : R SRT_EPOCH_STATUS = true)
    (ha : R SRT_ALARM = true) (hC : ∀ n, C (N_ETHP_TX_BAD_FCS n) = true ∧ C (N_ETHP_TX_FRAMES n) = true ∧ C (N_ETHP_TX_BYTES n) = true)
    (hl : ∀ x, Piece.line x ∈ ps) (hp : Piece.ports ∈ ps) : Chip.Within R C K ps c (c.afterClock frames) := by
  have bursts := ((Chip.pulses_only (R := R) (C := C) (K := K) (ps := ps) c 0 frames (g := 23) (by omega)).trans
    (Chip.endBurst_only _ .a (hx .a) (hl .a))).trans (Chip.endBurst_only _ .b (hx .b) (hl .b))
  refine (bursts.trans (Chip.judgeDrained_only _ hs ha)).trans (.foldl _ _ (fun d e _ => ?_) _)
  obtain ⟨hb, hf, hy⟩ := hC e.1
  exact Chip.finishFrame_only d e.1 e.2 hp hb hf hy

/-- After some ccy the clock and NT stand that much later. -/
theorem Chip.elapse_clock (c : Chip) {n : Nat} (h : n ≠ 0) : (c.elapse n).now = c.now + n ∧ (c.elapse n).nt = c.nt.add n := by
  have counted : Chip.Only [] [] [] [] c (c.talElapse n) := Chip.talElapse_only c n
  have after : ∀ (d : Chip) k, Chip.Within (fun _ => true) (fun _ => true) (fun _ => false) [.line .a, .line .b, .ports] d (d.afterClock k) :=
    fun d k => Chip.afterClock_only d k (fun _ => rfl) rfl rfl (fun _ => ⟨rfl, rfl, rfl⟩) (by rintro ⟨⟩ <;> simp) (by simp)
  rw [c.elapse_pos h, (after _ _).now (by simp), (after _ _).nt (by simp), ← counted.now (by simp), ← counted.nt (by simp)]
  exact ⟨rfl, rfl⟩

/-! ## The arithmetic of NT -/

theorem NetTime.add_zero {t : NetTime} (hc : t.cif < 187500) (hf : t.fn < 2 ^ 48) : t.add 0 = t := by
  obtain ⟨fn, cif⟩ := t
  simp only [NetTime.add, frameCcy, NetTime.mk.injEq] at *
  omega

/-- One ccy at a time: CIF counts up, and past 187,499 it returns to 0 and FN counts. -/
theorem NetTime.add_one {t : NetTime} (hc : t.cif < 187500) (hf : t.fn < 2 ^ 48) :
    t.add 1 = if t.cif = 187499 then ⟨(t.fn + 1) % 2 ^ 48, 0⟩ else ⟨t.fn, t.cif + 1⟩ := by
  obtain ⟨fn, cif⟩ := t
  split <;> simp only [NetTime.add, frameCcy, NetTime.mk.injEq] at * <;> omega

theorem NetTime.add_succ (t : NetTime) (n : Nat) : t.add (n + 1) = (t.add n).add 1 := by
  simp only [NetTime.add, frameCcy, NetTime.mk.injEq]
  omega

theorem NetTime.before_iff (a b : NetTime) : a.before b = true ↔ a.fn < b.fn ∨ (a.fn = b.fn ∧ a.cif < b.cif) := by
  simp [NetTime.before]

end Sys2Proof.Machine
end

section
/-! SUPPORT. Writes to registers: how one that is let through is judged, what a plain register takes, and what the shadows and the slow
windows take (R7, R9, R348 to R353). -/

namespace Sys2Proof.Machine
open Sys2Proof

variable {R C : Nat → Bool} {K : TimerKey → Bool} {ps : List Piece} {c d : Chip}

/-! ## The blocks' power and clocks -/

theorem clockServes_lt (k : Nat) : ∀ d ∈ clockServes k, d < 50 := by
  unfold clockServes
  split <;> decide

theorem powerState_follows_nothing : ∀ n < 50, standingReg (PWR_STATE n) = false ∧ tallyPage (PWR_STATE n) = false := by decide +kernel

/-- Whether a register's block is off rests on PWR_STATEn and CLK_GATE (R357, R384). -/
theorem Chip.Within.isOff (h : Chip.Within R C K ps c d) (hp : ∀ n < 50, R (PWR_STATE n) = false) (hg : R CLK_GATE = false) {a : Nat}
    {t : Target} (ht : target a = some t) : d.isOff t = c.isOff t := by
  have hon : ∀ n < 50, d.isOn n = c.isOn n := fun n hn => by
    obtain ⟨hs, hl⟩ := powerState_follows_nothing n hn
    simp only [Chip.isOn, h.f (PWR_STATE_PRESENT n) (hp n hn) hs hl]
  have hphase : ∀ n < 50, d.f (PWR_STATE_PHASE n) = c.f (PWR_STATE_PHASE n) := fun n hn => by
    obtain ⟨hs, hl⟩ := powerState_follows_nothing n hn
    exact h.f (PWR_STATE_PHASE n) (hp n hn) hs hl
  have hserved : ∀ k, ((clockServes k).any fun n => d.isOn n || decide (3 ≤ d.f (PWR_STATE_PHASE n))) =
      (clockServes k).any fun n => c.isOn n || decide (3 ≤ c.f (PWR_STATE_PHASE n)) := fun k => by
    rw [Bool.eq_iff_iff, List.any_eq_true, List.any_eq_true]
    exact exists_congr fun n => and_congr_right fun hn => by rw [hon n (clockServes_lt k n hn), hphase n (clockServes_lt k n hn)]
  simp only [Chip.isOff, Chip.clockRuns, hon _ (target_dom_lt ht), h.reg CLK_GATE hg (by decide) (by decide), hserved]

/-! ## The judgement of a write -/

/-- A master's privilege rests on registers that only their own writes and the activation of the lines change (Table 14.1). -/
theorem Chip.rank_of_still (h : Chip.Only [] [] [] [] c d) (m : Master) : d.rank m = c.rank m := by
  have hflag : ∀ x : Fld, standingReg x.addr = false → tallyPage x.addr = false → d.flag x = c.flag x := fun x => h.flag x rfl
  have hact : ∀ x, d.actState x = c.actState x ∧ d.flag (LPx_ACT_STATUS_KEYED x) = c.flag (LPx_ACT_STATUS_KEYED x) := fun x => by
    cases x <;> exact ⟨h.f _ rfl (by decide) (by decide), hflag _ (by decide) (by decide)⟩
  cases m <;>
    simp only [Chip.rank, (hact _).1, (hact _).2, h.boot (by simp), hflag HST_PRIV_HOST_PRIV (by decide) (by decide),
      hflag MGT_CFG_MGT_PRIV (by decide) (by decide)]

/-- Whether a write violates privilege rests on the master's rank alone (R348). -/
theorem Chip.violates_of_still (h : Chip.Only [] [] [] [] c d) (m : Master) (t : Target) :
    d.violates m t true = c.violates m t true := by
  have hrank : d.rankAt m t = c.rankAt m t := by simp only [Chip.rankAt, Chip.rank_of_still h m]
  simp only [Chip.violates, hrank, Bool.true_or, Bool.and_true]

theorem Chip.barred_of_still (h : Chip.Only [] [] [] [] c d) (t : Target) : d.barred t = c.barred t := by
  simp only [Chip.barred, Chip.locked, h.f TOP_LOCK_LOCK rfl (by decide) (by decide), h.lockWritten (by simp)]

/-- The terminal after the judgement of an access that goes on: the access is counted, and the management SPI target shows it. -/
def Chip.judged (c : Chip) (m : Master) : Chip := (c.pulse 22 0 none 1).showMgt m false

theorem Chip.judged_only (c : Chip) (m : Master) (h : R MGT_STATUS = true) : Chip.Within R C K ps c (c.judged m) := by
  unfold Chip.judged Chip.showMgt
  refine (Chip.pulse_only c 0 none 1 none (g := 22) (by decide)).trans ?_
  split
  · exact .refl ..
  · exact .putB _ (.inl h)

/-- A write that is admitted goes on to the register it names. -/
theorem Chip.judgeAccess_admitted {m : Master} {a : Nat} {t : Target} (h : c.admits m true [a]) (ht : target a = some t) :
    c.judgeAccess m a true = (c.judged m, .done, some t) := by
  obtain ⟨hreach, hrec, hall⟩ := h
  simp only [List.all_cons, List.all_nil, Bool.and_true, Chip.admits1, ht, Option.any_some, Bool.and_eq_true, Bool.not_eq_true',
    Bool.true_and, Bool.or_eq_true] at hall
  obtain ⟨⟨hviol, hbar⟩, hoff⟩ := hall
  have still : Chip.Only [] [] [] [] c (c.pulse 22 0 none 1) := Chip.pulse_only c 0 none 1 none (by decide)
  have hmgt : (m == .mgt && (c.pulse 22 0 none 1).boot.recovery) = false := by
    rw [still.boot (by simp)]
    cases m <;> simp_all
  have hpower : (!(t.shadow || true && t.staged) && (c.pulse 22 0 none 1).isOff t) = false := by
    rw [still.isOff (fun _ _ => rfl) rfl ht]
    rcases hoff with (hs | hs) | hs <;> simp [hs]
  simp only [Chip.judgeAccess, hreach, ht, hmgt, Chip.violates_of_still still, hviol, Chip.barred_of_still still, hbar, hpower, Chip.judged,
    Bool.not_true, Bool.false_and, Bool.and_false, Bool.false_eq_true, if_false]

theorem Chip.writeAccess_admitted {m : Master} {a : Nat} {t : Target} (e : Probe) (o : Otp) (v : Word) (k : Nat) (h : c.admits m true [a])
    (ht : target a = some t) : (c.writeAccess e o m a v k).1 = (c.judged m).writeTarget e o m t v k := by
  simp only [Chip.writeAccess, Chip.judgeAccess_admitted h ht]

/-! ## What a plain register takes -/

theorem getLsbD_mergeBits (old new : Word) (k : Nat) {i : Nat} (hi : i < 32) :
    (mergeBits old new k).getLsbD i = if k.testBit i = true then new.getLsbD i else old.getLsbD i := by
  rw [mergeBits, BitVec.getLsbD_or, BitVec.getLsbD_and, BitVec.getLsbD_not, BitVec.getLsbD_and, BitVec.getLsbD_ofNat]
  cases hk : k.testBit i <;> simp [hi]

/-- A merged word takes the bits written by each field's access code (R7, R350). -/
theorem RegRow.merged_took (r : RegRow) (old v : Word) (k : Nat) : tookWrite r old v k (r.merged old (v &&& BitVec.ofNat 32 k) k) := by
  intro i hi
  simp only [RegRow.merged, getLsbD_mergeBits _ _ _ hi, BitVec.getLsbD_and, BitVec.getLsbD_not, BitVec.getLsbD_ofNat, Nat.testBit_and, bitOf]
  by_cases hk : k.testBit i = true
  · by_cases hw : (r.mask fun x => x == .rw || x == .mw || x == .pw || x == .wo).testBit i = true
    · simp [hi, hk, hw]
    · by_cases hc : (r.mask fun x => x == .w1c).testBit i = true <;> simp [hi, hk, hw, hc]
  · simp [hi, hk]

/-- What `plainReg` says of an address: it starts no action, and its value follows nothing else. -/
theorem plainReg_iff {a : Nat} :
    plainReg a = true ↔ a ∉ actionRegs ∧ eqReg a = none ∧ cfgRing a = none ∧ standingReg a = false ∧ tallyPage a = false := by
  simp [plainReg, and_assoc]

theorem cfgRing_cipherQueue : ∀ q < 16, (cfgRing (CPH_Q_CFG q)).isSome = true := by decide +kernel

theorem fusedOff_of_cfgRing_none (o : Otp) {a : Nat} (w : Word) (h : cfgRing a = none) : fusedOff o a w = w := by
  have hq : ((List.range 16).any fun q => a == CPH_Q_CFG q) = false := by
    rw [List.any_eq_false]
    rintro q hq he
    have := cfgRing_cipherQueue q (List.mem_range.1 hq)
    rw [← beq_iff_eq.1 he, h] at this
    cases this
  simp [fusedOff, hq]

theorem Chip.afterClear_only (c : Chip) (r : RegRow) (a : Nat) : Chip.Within R C K ps c (c.afterClear r a) := by
  unfold Chip.afterClear
  split
  · split
    · exact Chip.blockMessage_only ..
    · exact .refl ..
  · exact .refl ..

/-- A plain register takes the word and starts nothing. -/
theorem Chip.writeReg_plain (c : Chip) (e : Probe) (o : Otp) (m : Master) (r : RegRow) {a : Nat} (v : Word) (k : Nat) (h : plainReg a = true) :
    c.writeReg e o m r a v k = ((c.setReg a (r.merged (c.reg a) (v &&& BitVec.ofNat 32 k) k)).afterClear r a, o) := by
  obtain ⟨hact, heq, hring, -, -⟩ := plainReg_iff.1 h
  simp only [actionRegs, List.mem_cons, List.not_mem_nil, or_false, not_or] at hact
  have hbusy : c.windowBusy a = false := by simp [Chip.windowBusy, List.range_succ, hact]
  have hmdio : c.mdioBusy a v = none := by simp [Chip.mdioBusy, List.range_succ, hact]
  have howns : ownsWrite a = false := by simp [ownsWrite, heq, hact]
  have hpd00 : ∀ (d : Chip) (w : Word), d.actPd00 e o m a w = (d, o) := fun d w => by simp [Chip.actPd00, hact]
  have hblock : ∀ (d : Chip) (old w : Word), d.actBlock o m a old w = d := fun d old w => by simp [Chip.actBlock, hact, heq, hring]
  simp [Chip.writeReg, hbusy, hmdio, howns, hpd00, hblock, fusedOff_of_cfgRing_none o _ hring]

/-- The register and what it leaves: the word as the fields take it, and nothing else but messages. -/
theorem Chip.writeReg_plain_took (c : Chip) (e : Probe) (o : Otp) (m : Master) (r : RegRow) {a : Nat} (v : Word) (k : Nat)
    (h : plainReg a = true) : tookWrite r (c.reg a) v k ((c.writeReg e o m r a v k).1.reg a) := by
  obtain ⟨-, -, -, hs, ht⟩ := plainReg_iff.1 h
  have cleared : ∀ d : Chip, Chip.Only [] [] [] [] d (d.afterClear r a) := fun d => Chip.afterClear_only ..
  rw [c.writeReg_plain e o m r v k h, (cleared _).reg a rfl hs ht, Chip.reg_setReg_same]
  exact r.merged_took _ v k

theorem Chip.writeReg_plain_only (c : Chip) (e : Probe) (o : Otp) (m : Master) (r : RegRow) {a : Nat} (v : Word) (k : Nat)
    (h : plainReg a = true) (hR : R a = true) : Chip.Within R C K ps c (c.writeReg e o m r a v k).1 := by
  rw [c.writeReg_plain e o m r v k h]
  exact (Chip.Within.setReg _ (.inl hR)).trans (Chip.afterClear_only ..)

/-- A command that makes one write, let through: what it does is what its target does. -/
theorem writeAccess_does {i : Instr} {m : Master} {a : Nat} {t : Target} {s : State} {v : Word} {k : Nat} {P : Chip → Prop}
    (hi : exec i s = runFuse s fun o c => (c.writeAccess {} o m a v k).1) (h : s.chip.admits m true [a]) (ht : target a = some t)
    (hw : (s.chip.judged m).writeTarget {} s.otp m t v k = (d, s.otp)) (hP : P (settle s.chip d)) : Does i s P :=
  does_of_runFuse hi (by rw [Chip.writeAccess_admitted _ _ v k h ht, hw]) hP

/-- A write of some bits of a plain register, let through. -/
theorem plainWrite_does {i : Instr} {m : Master} {a : Nat} {t : Target} {s : State} {v : Word} {k : Nat}
    (hi : exec i s = runFuse s fun o c => (c.writeAccess {} o m a v k).1) (h : s.chip.admits m true [a])
    (ht : target a = some t) (hst : t.staged = false) (hpair : t.row.pair = .none) (hwin : windowOf t.row t.reg = none)
    (hplain : plainReg t.reg = true) :
    Does i s fun c => tookWrite t.row (s.chip.reg t.reg) v k (c.reg t.reg) ∧ Chip.Only [t.reg, MGT_STATUS] [] [] [] s.chip c := by
  obtain ⟨hact, -, -, hs, hl⟩ := plainReg_iff.1 hplain
  have hne : t.reg ≠ MGT_STATUS := fun e => hact (by rw [e]; simp [actionRegs])
  have judged : Chip.Only [MGT_STATUS] [] [] [] s.chip (s.chip.judged m) := Chip.judged_only s.chip m (by simp)
  have hw : (s.chip.judged m).writeTarget {} s.otp m t v k = (((s.chip.judged m).writeReg {} s.otp m t.row t.reg v k).1, s.otp) := by
    simp [Chip.writeTarget, hst, hpair, hwin, Chip.writeReg_plain _ _ _ _ _ _ _ hplain]
  refine writeAccess_does hi h ht hw ⟨?_, ?_⟩
  · rw [reg_settle _ _ hs hl, ← judged.reg t.reg (by simp [hne]) hs hl]
    exact Chip.writeReg_plain_took _ _ _ _ _ v k hplain
  · exact within_settle ((Chip.judged_only s.chip m (by simp)).trans (Chip.writeReg_plain_only _ _ _ _ _ _ _ hplain (by simp)))

/-! ## Shadows (R333, R349) -/

/-- A shadow written: the bits that a write reaches (R333). -/
theorem Chip.shadow_writeShadow (c : Chip) (t : Target) (v : Word) (hf : t.fixedOn = false) {i : Nat} (hi : i < 32) :
    ((c.writeShadow t v allBits).shadow t.reg).getLsbD i =
      if bitOf (writable t.reg) i = true then v.getLsbD i else (c.shadow t.reg).getLsbD i := by
  have hall : allBits.testBit i = true := by
    simpa [allBits, hi] using Nat.testBit_two_pow_sub_one 32 i
  have hlock : ∀ d : Chip, (if t.reg = TOP_LOCK then { d with lockWritten := true } else d).shadow t.reg = d.shadow t.reg := fun d => by
    split <;> rfl
  have hstage : ∀ (d : Chip) (w : Word), (d.stageReg t.reg w).shadow t.reg = mergeBits (d.shadow t.reg) w (writable t.reg) := fun d w => by
    simp [Chip.shadow, Chip.stageReg]
  unfold Target.fixedOn at hf
  simp only [Chip.writeShadow, hf, Bool.false_eq_true, if_false, hstage, hlock, getLsbD_mergeBits _ _ _ hi, hall, if_true]
  rfl

theorem Chip.writeShadow_fixedOn (c : Chip) (t : Target) (v : Word) (k : Nat) (hf : t.fixedOn = true) : c.writeShadow t v k = c := by
  unfold Target.fixedOn at hf
  simp only [Chip.writeShadow, hf, if_true]

theorem Chip.writeShadow_only (c : Chip) (t : Target) (v : Word) (k : Nat) (hp : Piece.staged ∈ ps) :
    Chip.Within R C K ps c (c.writeShadow t v k) := by
  unfold Chip.writeShadow
  split
  · exact .refl ..
  · dsimp only
    split <;> exact .piece rfl rfl rfl (by simp [Chip.stageReg, Chip.body, keep, hp])

/-- A write to a class C register's shadow, let through. -/
theorem shadowWrite_does {m : Master} {a : Nat} {t : Target} {s : State} (v : Word) (h : s.chip.admits m true [a]) (ht : target a = some t)
    (hc : t.row.cls = .c) :
    Does (.shadowWrite m a v) s fun c =>
      (if t.fixedOn = true then c.shadow t.reg = s.chip.shadow t.reg
      else ∀ i < 32, (c.shadow t.reg).getLsbD i = if bitOf (writable t.reg) i = true then v.getLsbD i else (s.chip.shadow t.reg).getLsbD i) ∧
      Chip.Only [MGT_STATUS] [] [] [.staged] s.chip c := by
  have hst : t.staged = true := by simp [Target.staged, hc]
  have judged : Chip.Only [MGT_STATUS] [] [] [] s.chip (s.chip.judged m) := Chip.judged_only s.chip m (by simp)
  have hw : (s.chip.judged m).writeTarget {} s.otp m t v allBits = ((s.chip.judged m).writeShadow t v allBits, s.otp) := by
    simp [Chip.writeTarget, hst]
  have settled : Chip.Only [] [] [] [] ((s.chip.judged m).writeShadow t v allBits) (settle s.chip ((s.chip.judged m).writeShadow t v allBits)) := settle_only ..
  refine writeAccess_does rfl h ht hw ⟨?_, within_settle ((Chip.judged_only s.chip m (by simp)).trans (Chip.writeShadow_only _ t v _ (by simp)))⟩
  rw [settled.shadow (by simp) (by simp), ← judged.shadow (by simp) (by simp)]
  split
  · rename_i hf
    rw [Chip.writeShadow_fixedOn _ t v _ hf]
  · rename_i hf
    exact fun i hi => Chip.shadow_writeShadow _ t v (by simpa using hf) hi

/-! ## Slow windows (R352, R353) -/

theorem PostedWindow.drop_addr (w : PostedWindow) : w.drop.addr = w.busy.addr := by
  cases w <;> rfl

theorem PostedWindow.busy_bit (w : PostedWindow) : w.busy.lo = 0 ∧ w.busy.width = 1 := by
  cases w <;> exact ⟨rfl, rfl⟩

theorem PostedWindow.drop_bit (w : PostedWindow) : w.drop.lo = 1 ∧ w.drop.width = 1 := by
  cases w <;> exact ⟨rfl, rfl⟩

/-- The registers that follow other state lie on the pages below 13. -/
theorem page_of_standingReg {a : Nat} (h : standingReg a = true) : a / 65536 < 13 := by
  simp only [standingReg, Bool.or_eq_true, beq_iff_eq, List.any_eq_true, List.mem_range] at h
  rcases h with (((((rfl | rfl) | rfl) | rfl) | rfl) | rfl) | ⟨k, hk, rfl⟩
  case inr => simp only [TWE_SEL_STATUS]; omega
  all_goals decide

theorem follows_nothing_above {a : Nat} (h : 13 * 65536 ≤ a) : standingReg a = false ∧ tallyPage a = false := by
  refine ⟨Bool.eq_false_iff.2 fun hs => ?_, ?_⟩
  · have := page_of_standingReg hs
    omega
  · simp only [tallyPage, Bool.or_eq_false_iff, beq_eq_false_iff_ne]
    omega

/-- A window's status register follows no other state. -/
theorem PostedWindow.busy_follows_nothing (w : PostedWindow) : standingReg w.busy.addr = false ∧ tallyPage w.busy.addr = false := by
  cases w with
  | power => decide
  | wake => decide
  | nvm => decide
  | line x => cases x <;> decide
  | lane n => exact follows_nothing_above (by simp only [PostedWindow.busy, SDS_LANE_PW_STATUS_BUSY, SDS_LANE_PW_STATUS]; omega)
  | trib n => exact follows_nothing_above (by simp only [PostedWindow.busy, TDM_PW_STATUS_BUSY, TDM_PW_STATUS]; omega)

/-- No domain's state and no clock gate lies in a window's status register. -/
theorem PostedWindow.busy_ne_power (w : PostedWindow) : (∀ n < 50, PWR_STATE n ≠ w.busy.addr) ∧ CLK_GATE ≠ w.busy.addr := by
  cases w with
  | power => decide
  | wake => decide
  | nvm => decide
  | line x => cases x <;> decide
  | lane n =>
    simp only [PostedWindow.busy, SDS_LANE_PW_STATUS_BUSY, SDS_LANE_PW_STATUS, PWR_STATE, CLK_GATE]
    exact ⟨fun k hk => by omega, by omega⟩
  | trib n =>
    simp only [PostedWindow.busy, TDM_PW_STATUS_BUSY, TDM_PW_STATUS, PWR_STATE, CLK_GATE]
    exact ⟨fun k hk => by omega, by omega⟩

/-- No write goes through a window whose status register is MGT_STATUS. -/
theorem windowOf_busy_ne {r : RegRow} {a : Nat} {w : PostedWindow} (h : windowOf r a = some w) : w.busy.addr ≠ MGT_STATUS := by
  cases w with
  | power => decide
  | wake => decide
  | nvm => decide
  | line x => cases x <;> decide
  | lane n =>
    simp only [PostedWindow.busy, SDS_LANE_PW_STATUS_BUSY, SDS_LANE_PW_STATUS, MGT_STATUS]
    omega
  | trib n =>
    have hn : n = (a - TDM_CTRL 0) / (16 * (TDM_CTRL 1 - TDM_CTRL 0)) ∧ a / 65536 = 28 := by
      unfold windowOf at h
      simp only at h
      split at h <;> simp_all
    simp only [PostedWindow.busy, TDM_PW_STATUS_BUSY, TDM_PW_STATUS, MGT_STATUS, TDM_CTRL] at hn ⊢
    omega

/-! The bits of a window's status register read back as they are set. -/

theorem PostedWindow.flag_raise_drop (c : Chip) (w : PostedWindow) : (c.raise w.drop).flag w.drop = true := by
  obtain ⟨hl, hw⟩ := w.drop_bit
  exact c.flag_raise_same w.drop (by omega) (by omega)

theorem PostedWindow.flag_raise_busy (c : Chip) (w : PostedWindow) : (c.raise w.busy).flag w.busy = true := by
  obtain ⟨hl, hw⟩ := w.busy_bit
  exact c.flag_raise_same w.busy (by omega) (by omega)

theorem PostedWindow.flag_lower_busy (c : Chip) (w : PostedWindow) : (c.lower w.busy).flag w.busy = false := by
  obtain ⟨hl, hw⟩ := w.busy_bit
  exact c.flag_lower_same w.busy (by omega)

/-- A write to a busy window is dropped, and counted. -/
theorem Chip.postWrite_busy {w : PostedWindow} (m : Master) (a : Nat) (v : Word) (k : Nat) (h : c.flag w.busy = true) :
    c.postWrite w m a v k = (c.raise w.drop).pulse 22 4 none 1 := by
  simp only [Chip.postWrite, h, if_true]

/-- A write to a free window makes it busy and waits in transfer. -/
theorem Chip.postWrite_free {w : PostedWindow} (m : Master) (a : Nat) (v : Word) (k : Nat) (h : c.flag w.busy = false) :
    c.postWrite w m a v k = { c.raise w.busy with posted := c.posted ++ [{ window := w, master := m, addr := a, data := v, bits := k }] } := by
  simp only [Chip.postWrite, h, Bool.false_eq_true, if_false]

/-- What a window does with a write: it drops it while busy, and takes it into transfer else. -/
theorem Chip.postWrite_took (c : Chip) (w : PostedWindow) (m : Master) (a : Nat) (v : Word) (k : Nat) :
    if c.flag w.busy = true then (c.postWrite w m a v k).flag w.drop = true ∧ (c.postWrite w m a v k).posted = c.posted
    else (c.postWrite w m a v k).flag w.busy = true ∧ (c.postWrite w m a v k).posted = c.posted ++ [⟨w, m, a, v, k⟩] := by
  split
  · rename_i h
    obtain ⟨hs, ht⟩ := w.busy_follows_nothing
    have pulsed : Chip.Only [] [] [] [] (c.raise w.drop) ((c.raise w.drop).pulse 22 4 none 1) := Chip.pulse_only _ 4 none 1 none (by decide)
    rw [Chip.postWrite_busy m a v k h, pulsed.posted (by simp),
      pulsed.flag w.drop rfl (by rwa [w.drop_addr]) (by rwa [w.drop_addr])]
    exact ⟨w.flag_raise_drop c, rfl⟩
  · rename_i h
    rw [Chip.postWrite_free m a v k (by simpa using h)]
    exact ⟨w.flag_raise_busy c, rfl⟩

theorem Chip.postWrite_only (c : Chip) (w : PostedWindow) (m : Master) (a : Nat) (v : Word) (k : Nat) (hR : R w.busy.addr = true)
    (hp : Piece.access ∈ ps) : Chip.Within R C K ps c (c.postWrite w m a v k) := by
  unfold Chip.postWrite
  split
  · exact (Chip.Within.raise (.inl (by rwa [w.drop_addr]))).trans (Chip.pulse_only _ _ _ _ _ (by decide))
  · exact (Chip.Within.raise (.inl hR)).trans (.postedOnly _ _ hp)

/-- A write to a slow window, let through. -/
theorem postedWrite_does {m : Master} {a : Nat} {t : Target} {w : PostedWindow} {s : State} (v : Word) (h : s.chip.admits m true [a])
    (ht : target a = some t) (hst : t.staged = false) (hpair : t.row.pair = .none) (hwin : windowOf t.row t.reg = some w) :
    Does (.postedWrite m a v) s fun c =>
      (if s.chip.flag w.busy = true then c.flag w.drop = true ∧ c.posted = s.chip.posted
      else c.flag w.busy = true ∧ c.posted = s.chip.posted ++ [⟨w, m, t.reg, v, 0xFFFFFFFF⟩]) ∧
      Chip.Only [w.busy.addr, MGT_STATUS] [] [] [.access] s.chip c := by
  obtain ⟨hs, hl⟩ := w.busy_follows_nothing
  have judged : Chip.Only [MGT_STATUS] [] [] [] s.chip (s.chip.judged m) := Chip.judged_only s.chip m (by simp)
  have hw : (s.chip.judged m).writeTarget {} s.otp m t v allBits = ((s.chip.judged m).postWrite w m t.reg v allBits, s.otp) := by
    simp [Chip.writeTarget, hst, hpair, hwin]
  have settled : ∀ d, Chip.Only [] [] [] [] d (settle s.chip d) := fun d => settle_only ..
  have took := Chip.postWrite_took (s.chip.judged m) w m t.reg v allBits
  refine writeAccess_does rfl h ht hw ⟨?_, within_settle ((Chip.judged_only s.chip m (by simp)).trans
    (Chip.postWrite_only _ w m t.reg v _ (by simp) (by simp)))⟩
  rw [judged.flag w.busy (by simpa using windowOf_busy_ne hwin) hs hl, judged.posted (by simp)] at took
  rw [(settled _).flag w.drop rfl (by rwa [w.drop_addr]) (by rwa [w.drop_addr]), (settled _).flag w.busy rfl hs hl, (settled _).posted (by simp)]
  exact took

/-- The window freed and the write taken out of transfer, before it reaches its register. -/
def Chip.freeWindow (c : Chip) (w : PostedWindow) : Chip := { c.lower w.busy with posted := c.posted.filter fun q => q.window != w }

theorem Chip.freeWindow_only (c : Chip) (w : PostedWindow) (hR : R w.busy.addr = true) (hp : Piece.access ∈ ps) :
    Chip.Within R C K ps c (c.freeWindow w) := (Chip.Within.lower (.inl hR)).trans (.postedOnly _ _ hp)

theorem Chip.takePosted_some {w : PostedWindow} {p : Posted} {t : Target} (e : Probe) (o : Otp)
    (h : c.posted.find? (fun p => p.window == w) = some p) (ht : target p.addr = some t) :
    c.takePosted e o w = if (c.freeWindow w).isOff t = true then (c.freeWindow w, o)
      else (c.freeWindow w).writeReg e o p.master t.row p.addr p.data p.bits := by
  simp only [Chip.takePosted, h, ht]
  rfl

/-- The end of a write in transfer to a plain register: the window is free again, and the register takes the write while its block is
on (R353). -/
theorem Chip.takePosted_took {w : PostedWindow} {p : Posted} {t : Target} (e : Probe) (o : Otp)
    (hp : c.posted.find? (fun p => p.window == w) = some p) (ht : target p.addr = some t) (hplain : plainReg p.addr = true)
    (hne : p.addr ≠ w.busy.addr) :
    ∃ d, c.takePosted e o w = (d, o) ∧ d.flag w.busy = false ∧ d.posted = c.posted.filter (fun q => q.window != w) ∧
      (if c.isOff t = true then d.reg p.addr = c.reg p.addr else tookWrite t.row (c.reg p.addr) p.data p.bits (d.reg p.addr)) ∧
      Chip.Only [p.addr, w.busy.addr] [] [] [.access] c d := by
  obtain ⟨hs, hl⟩ := w.busy_follows_nothing
  obtain ⟨-, -, -, hps, hpl⟩ := plainReg_iff.1 hplain
  obtain ⟨hstate, hgate⟩ := w.busy_ne_power
  have freed : Chip.Only [w.busy.addr] [] [] [.access] c (c.freeWindow w) := Chip.freeWindow_only c w (by simp) (by simp)
  have hoff : (c.freeWindow w).isOff t = c.isOff t := freed.isOff (fun n hn => by simpa using hstate n hn) (by simpa using hgate) ht
  have hold : (c.freeWindow w).reg p.addr = c.reg p.addr := freed.reg p.addr (by simpa using hne) hps hpl
  have hbusy : (c.freeWindow w).flag w.busy = false := w.flag_lower_busy c
  rw [Chip.takePosted_some e o hp ht, hoff]
  by_cases off : c.isOff t = true
  · simp only [if_pos off]
    exact ⟨_, rfl, hbusy, rfl, hold, Chip.freeWindow_only _ w (by simp) (by simp)⟩
  · simp only [if_neg off]
    have written : Chip.Only [p.addr] [] [] [] (c.freeWindow w) ((c.freeWindow w).writeReg e o p.master t.row p.addr p.data p.bits).1 :=
      Chip.writeReg_plain_only _ e o _ _ _ _ hplain (by simp)
    refine ⟨((c.freeWindow w).writeReg e o p.master t.row p.addr p.data p.bits).1, ?_, ?_, ?_, ?_, ?_⟩
    · rw [Chip.writeReg_plain _ _ _ _ _ _ _ hplain]
    · rw [written.flag w.busy (by simpa using hne.symm) hs hl, hbusy]
    · exact written.posted (by simp)
    · rw [← hold]
      exact Chip.writeReg_plain_took _ e o p.master t.row p.data p.bits hplain
    · exact (Chip.freeWindow_only _ w (by simp) (by simp)).trans (Chip.writeReg_plain_only _ e o _ _ _ _ hplain (by simp))

/-- A slow window's domain takes the write in transfer. -/
theorem postedWriteTaken_does {w : PostedWindow} {p : Posted} {t : Target} {s : State}
    (hp : s.chip.posted.find? (fun p => p.window == w) = some p) (ht : target p.addr = some t) (hplain : plainReg p.addr = true)
    (hne : p.addr ≠ w.busy.addr) :
    Does (.postedWriteTaken w) s fun c =>
      c.flag w.busy = false ∧ c.posted = s.chip.posted.filter (fun q => q.window != w) ∧
      (if s.chip.isOff t = true then c.reg p.addr = s.chip.reg p.addr else tookWrite t.row (s.chip.reg p.addr) p.data p.bits (c.reg p.addr)) ∧
      Chip.Only [p.addr, w.busy.addr] [] [] [.access] s.chip c := by
  obtain ⟨hs, hl⟩ := w.busy_follows_nothing
  obtain ⟨-, -, -, hps, hpl⟩ := plainReg_iff.1 hplain
  obtain ⟨d, hd, hbusy, hposted, hreg, honly⟩ := Chip.takePosted_took {} s.otp hp ht hplain hne
  have settled : Chip.Only [] [] [] [] d (settle s.chip d) := settle_only ..
  refine does_of_runFuse (act := fun o c => c.takePosted {} o w) rfl hd ⟨?_, ?_, ?_, within_settle honly⟩
  · rw [settled.flag w.busy rfl hs hl, hbusy]
  · rw [settled.posted (by simp), hposted]
  · rw [settled.reg p.addr rfl hps hpl]
    exact hreg

end Sys2Proof.Machine
end

section
/-! PROOF. What a power-on reset leaves, in every register and beside them (R10). -/

namespace Sys2Proof.Machine
open Sys2Proof

/-- The default state lists no register, counter or timer, so each reads at its reset value. -/
theorem reg_default (a : Nat) : ({} : Chip).reg a = resetWord a := rfl
theorem ctr_default (a : Nat) : ({} : Chip).ctr a = 0 := rfl
theorem deadline_default (k : TimerKey) : ({} : Chip).deadline k = none := rfl

/-- Only PD00 is ON at reset (R370). -/
theorem reset_isOn : ∀ d < 50, State.reset.chip.isOn d = decide (d = 0) := by decide +kernel

/-- A line at reset: Dark, with no identity and no key (R90, R93). -/
theorem reset_line (x : Line) : State.reset.chip.actState x = stDark ∧ State.reset.chip.f (LPx_IDENT_TID x) = 0x3FF ∧
    State.reset.chip.f (LPx_IDENT_EQD x) = 0 ∧ State.reset.chip.flag (LPx_ACT_STATUS_KEYED x) = false := by
  cases x <;> decide +kernel

/-- The registers of TOP, ITM and CFG whose reset values the rules give (R2, R333, R388). -/
theorem reset_named_words : State.reset.chip.reg TOP_CHIP_ID = 0x09640B01 ∧ State.reset.chip.reg (ITM_REACT 0) = 0x957AAF44 ∧
    State.reset.chip.f CFG_BOOT_CFG_A = 0xFF ∧ State.reset.chip.flag CFG_BOOT_READY = false ∧ State.reset.chip.ntValid = false := by
  decide +kernel

/-- Settles O56, from the empty tables of the default state and the reset values of the register map. -/
theorem resetValues : Obligations.ResetValues := by
  obtain ⟨chipId, react, cfgA, ready, ntValid⟩ := reset_named_words
  refine ⟨reg_default, ctr_default, deadline_default, rfl, ?_, ?_, ready, rfl, rfl, reset_line, rfl, rfl, rfl, rfl, ntValid, chipId, react, cfgA⟩
  · exact reset_isOn 0 (by decide)
  · intro d hd h
    simpa [h] using reset_isOn d hd

end Sys2Proof.Machine
end

section
/-! PROOF. The loss of PCIE_REFCLK takes the link down, and with it the class D registers of the cipher service, on page 32, return to
their reset values as those of HST do (R296, R419). -/

namespace Sys2Proof.Machine
open Sys2Proof

/-- After start-up, with the PCIe link up and an alarm of the cipher service standing. -/
def cipherAlarmState : State :=
  { State.reset with
    chip := { ((({} : Chip).put (PWR_STATE_PRESENT 41) 2).raise HST_LINK_DL_UP).raise CPH_ALARM_Q_STOP with boot := { started := true } } }

theorem cipherAlarmState_linkUp : cipherAlarmState.chip.boot.ended = true ∧ cipherAlarmState.chip.pins.pcieRef = true ∧
    cipherAlarmState.chip.isOn 41 = true ∧ cipherAlarmState.chip.flag HST_LINK_DL_UP = true := by decide +kernel

theorem cipherAlarmState_alarm : cipherAlarmState.chip.reg CPH_ALARM = 2 := by decide +kernel

/-- The model evaluated on that state: the alarm is gone. -/
theorem pcieRefclkLoss_clears_cipherAlarm :
    (match exec (.clockInputChange .pcie false) cipherAlarmState with
      | .next t => decide (t.chip.reg CPH_ALARM = 0)
      | _ => false) = true := by decide +kernel

/-- Refutes O48: the clause about the loss of PCIE_REFCLK keeps every register off page 34, but the reset of the host interface also
clears CPH_ALARM, on page 32, where it stood set. -/
theorem not_resetsAndPins : ¬ Obligations.ResetsAndPins := by
  rintro ⟨-, -, -, -, -, -, hlost⟩
  obtain ⟨hended, href, hon, hup⟩ := cipherAlarmState_linkUp
  obtain ⟨t, hexec, -, -, -, -, -, -, -, -, hframe⟩ := hlost cipherAlarmState hended href hon hup
  have hkept : t.chip.reg CPH_ALARM = 2 := (hframe.reg CPH_ALARM (by decide) (by decide) (by decide)).trans cipherAlarmState_alarm
  have hcleared := pcieRefclkLoss_clears_cipherAlarm
  rw [hexec] at hcleared
  rw [of_decide_eq_true hcleared] at hkept
  exact absurd hkept (by decide)

end Sys2Proof.Machine
end

section
/-! PROOF. How NT advances, and what a write that is let through does. -/

namespace Sys2Proof.Machine
open Sys2Proof

/-- Settles O57: the arithmetic of `NetTime.add`, and the clock after `Chip.elapse`. -/
theorem netTimeAdvances : Obligations.NetTimeAdvances := by
  refine ⟨fun t hc hf => NetTime.add_one hc hf, fun t n hc hf => ⟨NetTime.add_zero hc hf, t.add_succ n⟩, fun c n hc hf => ?_,
    NetTime.before_iff, by decide⟩
  by_cases h : n = 0
  · rw [h, c.elapse_zero, NetTime.add_zero hc hf]
    exact ⟨rfl, rfl⟩
  · exact (c.elapse_clock h).symm

/-- Settles O28, a clause for each way that a write which is let through can go: the register, a shadow, or a slow window. -/
theorem registerWrites : Obligations.RegisterWrites :=
  ⟨fun _ _ _ _ _ h ht hst hpair hwin hplain => plainWrite_does rfl h ht hst hpair hwin hplain,
    fun _ _ _ _ _ h ht hst hpair hwin hplain => plainWrite_does rfl h ht hst hpair hwin hplain,
    fun _ _ _ _ _ _ h ht hst hpair hwin hplain => plainWrite_does rfl h ht hst hpair hwin hplain,
    fun _ _ v _ _ h ht hc => shadowWrite_does v h ht hc,
    fun _ _ v _ _ _ h ht hst hpair hwin => postedWrite_does v h ht hst hpair hwin,
    fun _ _ _ _ hp ht hplain hne => postedWriteTaken_does hp ht hplain hne⟩

end Sys2Proof.Machine
end

section
/-! SUPPORT. What an apply records, and the parts of the terminal that the effects of a commit in the blocks reach (R335): neither the
clock, the flash, the balls and the configuration engine, nor the configuration store. -/

namespace Sys2Proof.Machine
open Sys2Proof

variable {R C : Nat → Bool} {K : TimerKey → Bool} {ps : List Piece} {c d : Chip}

/-- A condition with a frame on either side. -/
theorem Chip.Within.ite {p : Prop} [Decidable p] {a b : Chip} (ha : Chip.Within R C K ps c a) (hb : Chip.Within R C K ps c b) :
    Chip.Within R C K ps c (if p then a else b) := by
  split
  · exact ha
  · exact hb

/-! ## Single pieces -/

theorem Chip.Within.tableStore (h : Chip.Within R C K ps c d) (hp : Piece.config ∉ ps) : d.tableStore = c.tableStore := by
  simpa [Chip.body, keep, hp] using congrArg Chip.tableStore h.body

theorem Chip.Within.everCommitted (h : Chip.Within R C K ps c d) (hp : Piece.config ∉ ps) : d.everCommitted = c.everCommitted := by
  simpa [Chip.body, keep, hp] using congrArg Chip.everCommitted h.body

theorem Chip.Within.flash (h : Chip.Within R C K ps c d) (hp : Piece.flash ∉ ps) : d.flash = c.flash := by
  simpa [Chip.body, keep, hp] using congrArg Chip.flash h.body

theorem Chip.Within.pins (h : Chip.Within R C K ps c d) (hp : Piece.pins ∉ ps) : d.pins = c.pins := by
  simpa [Chip.body, keep, hp] using congrArg Chip.pins h.body

theorem Chip.Within.cfg (h : Chip.Within R C K ps c d) (hp : Piece.cfg ∉ ps) : d.cfg = c.cfg := by
  simpa [Chip.body, keep, hp] using congrArg Chip.cfg h.body

/-! ## The effects of a commit -/

/-- The pieces that the effects of a commit reach. -/
def effectPieces : List Piece :=
  [.line .a, .line .b, .twoEnded, .cooper, .meters, .drover, .conts, .time, .ports, .keys, .sent]

theorem line_mem_effectPieces (x : Line) : Piece.line x ∈ effectPieces := by cases x <;> simp [effectPieces]

/-- `d` differs from `c` in registers, timers, counters other than CFG_APPLIED, and the pieces that a commit's effects reach. -/
abbrev Chip.Affects : Chip → Chip → Prop :=
  Chip.Within (fun _ => true) (fun a => a != N_CFG_APPLIED) (fun _ => true) effectPieces

/-! ## Shared operations -/

theorem Chip.modCooper_affects (c : Chip) (g : Cooper → Cooper) : c.Affects (c.modCooper g) := .piece rfl rfl rfl rfl
theorem Chip.modDrover_affects (c : Chip) (g : Drover → Drover) : c.Affects (c.modDrover g) := .piece rfl rfl rfl rfl
theorem Chip.modMerge_affects (c : Chip) (g : TwoEnded → TwoEnded) : c.Affects (c.modMerge g) := .piece rfl rfl rfl rfl
theorem Chip.modTime_affects (c : Chip) (g : Horologer → Horologer) : c.Affects (c.modTime g) := .piece rfl rfl rfl rfl
theorem Chip.modKeys_affects (c : Chip) (g : KeyStore → KeyStore) : c.Affects (c.modKeys g) := .piece rfl rfl rfl rfl
theorem Chip.modPort_affects (c : Chip) (n : Nat) (g : EthPort → EthPort) : c.Affects (c.modPort n g) := .piece rfl rfl rfl rfl
theorem Chip.setSlot_affects (c : Chip) (s : Nat) (r : SlotRx) : c.Affects (c.setSlot s r) := .piece rfl rfl rfl rfl
theorem Chip.modLine_affects (c : Chip) (x : Line) (g : LineState → LineState) : c.Affects (c.modLine x g) :=
  .modLine _ (line_mem_effectPieces x)
theorem Chip.put_affects (c : Chip) (x : Fld) (v : Nat) : c.Affects (c.put x v) := .put _ (.inl rfl)
theorem Chip.start_affects (c : Chip) (k : TimerKey) (n : Nat) : c.Affects (c.start k n) := .start _ (.inl rfl)
theorem Chip.stop_affects (c : Chip) (k : TimerKey) : c.Affects (c.stop k) := .stop (.inl rfl)

/-- A counter that is not CFG_APPLIED counts. -/
theorem Chip.count_affects (c : Chip) {a : Nat} (n : Nat) (h : a ≠ N_CFG_APPLIED) : c.Affects (c.count a n) :=
  Chip.count_only c n none (by simpa using h)

/-! ## Cells, references and grants -/

theorem Chip.giveCells_affects (c : Chip) (banks : List Nat) : c.Affects (c.giveCells banks) :=
  .foldl _ _ (fun d _ _ => d.modCooper_affects _) c

theorem Chip.giveTransit_affects (c : Chip) (banks : List Nat) : c.Affects (c.giveTransit banks) :=
  (c.giveCells_affects banks).trans (Chip.modCooper_affects _ _)

theorem Chip.freeFrame_affects (c : Chip) (id : Nat) : c.Affects (c.freeFrame id) := by
  unfold Chip.freeFrame
  split
  · exact .refl ..
  · exact .ite (.refl ..) (((c.giveCells_affects _).trans (Chip.modCooper_affects _ _)).trans (Chip.count_affects _ _ (by decide)))

theorem Chip.release_affects (c : Chip) (q id : Nat) : c.Affects (c.release q id) :=
  (Chip.modCooper_affects c _).trans (Chip.freeFrame_affects _ id)

theorem Chip.releaseRefs_affects (c : Chip) (x : Line) : c.Affects (c.releaseRefs x) :=
  .foldl _ _ (fun _ q _ => .ite
    (.foldl _ _ (fun d r _ => (d.release_affects q r.frame).trans (Chip.count_affects _ _ (by cases x <;> decide))) _) (.refl ..)) c

theorem Chip.dropContexts_affects (c : Chip) (x : Line) : c.Affects (c.dropContexts x) :=
  .foldl _ _ (fun d _ _ => (d.modLine_affects x _).trans (Chip.giveTransit_affects _ _)) c

theorem Chip.forgive_affects (c : Chip) (q cost : Nat) : c.Affects (c.forgive q cost) :=
  .foldl _ _ (fun d _ _ => d.modDrover_affects _) c

theorem Chip.modRef_affects (c : Chip) (q id : Nat) (f : QRef → QRef) : c.Affects (c.modRef q id f) := .piece rfl rfl rfl rfl

theorem Chip.unplace_affects (c : Chip) (x : Line) (p : PlacedFrame) : c.Affects (c.unplace x p) := by
  unfold Chip.unplace
  refine .ite (.refl ..) ?_
  split
  · extract_lets charged
    have hcharged : c.Affects charged := .ite (.refl ..) (c.forgive_affects _ _)
    exact hcharged.trans (charged.modRef_affects _ _ _)
  · exact c.modLine_affects x _

theorem Chip.dropGrants_affects (c : Chip) (x : Line) : c.Affects (c.dropGrants x) := by
  have unplaced : c.Affects (c.unplaceGrants x (c.line x).grants) :=
    .foldl _ _ (fun _ g _ => .foldl _ _ (fun e p _ => e.unplace_affects x p) _) c
  have cleared : ∀ d : Chip, d.Affects (d.setGrants x []) := fun d => (d.modLine_affects x _).trans (Chip.put_affects _ _ _)
  exact (unplaced.trans (cleared _)).trans ((Chip.modLine_affects _ x _).trans (Chip.count_affects _ _ (by cases x <;> decide)))

/-! ## Lines -/

theorem Chip.cutBurst_affects (c : Chip) (x : Line) : c.Affects (c.cutBurst x) :=
  ((c.put_affects _ _).trans (Chip.put_affects _ _ _)).trans (Chip.modLine_affects _ x _)

theorem Chip.stopStateTimers_affects (c : Chip) (x : Line) : c.Affects (c.stopStateTimers x) :=
  (((c.stop_affects _).trans (Chip.stop_affects _ _)).trans (Chip.stop_affects _ _)).trans (Chip.stop_affects _ _)

theorem Chip.setState_affects (c : Chip) (x : Line) (st : Nat) : c.Affects (c.setState x st) := by
  have left : c.Affects (if c.actState x = stWorking then c.modLine x fun l => { l with regQueue := [] } else c) :=
    .ite (c.modLine_affects x _) (.refl ..)
  exact .ite (.refl ..) (((left.trans (Chip.stopStateTimers_affects _ x)).trans (Chip.put_affects _ _ _)).trans (Chip.put_affects _ _ _))

theorem Chip.clearBindings_affects (c : Chip) (x : Line) : c.Affects (c.clearBindings x) where
  reg _ h := nomatch h
  ctr _ _ _ := rfl
  timer _ _ _ := rfl
  body := rfl

theorem Chip.clearIdentity_affects (c : Chip) (x : Line) : c.Affects (c.clearIdentity x) := by
  have anonymous : c.Affects (((c.dropGrants x).clearBindings x).setReg (LPx_IDENT x) 0xFFC00000) :=
    ((c.dropGrants_affects x).trans (Chip.clearBindings_affects _ x)).trans (.setReg _ (.inl rfl))
  have awake : ∀ d : Chip, d.Affects ((d.lower (LPx_ACT_STATUS_KEYED x)).put (LPx_ACT_STATUS_SLEEP x) 0) :=
    fun d => (d.put_affects _ _).trans (Chip.put_affects _ _ _)
  have untimed : ∀ d : Chip, d.Affects ((d.stop (.line x .lom)).stop (.line x .roll)) :=
    fun d => (d.stop_affects _).trans (Chip.stop_affects _ _)
  have emptied : ∀ d : Chip, d.Affects ((d.releaseRefs x).dropContexts x) :=
    fun d => (d.releaseRefs_affects x).trans (Chip.dropContexts_affects _ x)
  exact (((anonymous.trans (awake _)).trans (untimed _)).trans ((Chip.modLine_affects _ x _).trans (Chip.put_affects _ _ _))).trans (emptied _)

theorem Chip.toListening_affects (c : Chip) (x : Line) : c.Affects (c.toListening x) :=
  (c.modLine_affects x _).trans (Chip.setState_affects _ x _)

theorem Chip.lossOfLine_affects (c : Chip) (x : Line) : c.Affects (c.lossOfLine x) := by
  unfold Chip.lossOfLine
  extract_lets d st
  refine (c.dropGrants_affects x).trans (.ite (.ite (.refl ..) ?_) (.ite (d.setState_affects x _) (.ite ?_ (.refl ..))))
  · have counted : d.Affects ((d.setState x stHolding).count (N_LPx_HOLD_ENTRY x)) :=
      (d.setState_affects x _).trans (Chip.count_affects _ _ (by cases x <;> decide))
    exact (counted.trans ((Chip.modLine_affects _ x _).trans (Chip.put_affects _ _ _))).trans (Chip.start_affects _ _ _)
  · exact (d.clearIdentity_affects x).trans (Chip.setState_affects _ x _)

theorem Chip.lofRise_affects (c : Chip) (x : Line) : c.Affects (c.lofRise x) := by
  have risen : c.Affects (if bitOf (c.f (LNx_ALARM_STATE_LEVEL x)) 1 then c else
      (c.raise (LNx_ALARM_LOF x)).raiseBit (LNx_ALARM_STATE_LEVEL x) 1) :=
    .ite (.refl ..) ((c.put_affects _ _).trans (Chip.put_affects _ _ _))
  have counted : ∀ d : Chip, d.Affects (if c.f (LNx_RX_STATUS_FRAME_STATE x) = 2 then d.count (N_LNx_LOF_EVT x) else d) :=
    fun d => .ite (d.count_affects _ (by cases x <;> decide)) (.refl ..)
  have hunting : ∀ d : Chip, d.Affects (((d.put (LNx_RX_STATUS_FRAME_STATE x) 0).lower (LNx_RX_STATUS_FN_VALID x)).setReg (LNx_HUNT_STATUS x) 0) :=
    fun d => ((d.put_affects _ _).trans (Chip.put_affects _ _ _)).trans (.setReg _ (.inl rfl))
  exact ((risen.trans (counted _)).trans (hunting _)).trans ((Chip.modLine_affects _ x _).trans (Chip.lossOfLine_affects _ x))

theorem Chip.losRise_affects (c : Chip) (x : Line) : c.Affects (c.losRise x) := by
  have risen : c.Affects (((c.raise (LNx_ALARM_LOS x)).raiseBit (LNx_ALARM_STATE_LEVEL x) 0).raise (LNx_RX_STATUS_LOS x)) :=
    ((c.put_affects _ _).trans (Chip.put_affects _ _ _)).trans (Chip.put_affects _ _ _)
  have dark : ∀ d : Chip, d.Affects (((d.lower (LNx_RX_STATUS_RX_READY x)).lower (LNx_RX_STATUS_CDR_LOCK x)).put (LNx_FOM_FOM x) 0) :=
    fun d => ((d.put_affects _ _).trans (Chip.put_affects _ _ _)).trans (Chip.put_affects _ _ _)
  have untimed : ∀ d : Chip, d.Affects (((d.put (LNx_FOM_FOM_Q x) 0).stop (.line x .lofAcq)).stop (.line x .acquire)) :=
    fun d => ((d.put_affects _ _).trans (Chip.stop_affects _ _)).trans (Chip.stop_affects _ _)
  exact ((risen.trans (dark _)).trans (untimed _)).trans (Chip.lofRise_affects _ x)

theorem Chip.tryAnnounce_affects (c : Chip) (x : Line) : c.Affects (c.tryAnnounce x) :=
  .ite (((c.setState_affects x _).trans (Chip.put_affects _ _ _)).trans (Chip.modLine_affects _ x _)) (.refl ..)

theorem Chip.enableLine_affects (c : Chip) (x : Line) (on : Bool) : c.Affects (c.enableLine x on) :=
  .ite (.refl ..) (.ite
    ((c.put_affects _ _).trans (.ite (Chip.toListening_affects _ x) (.refl ..)))
    ((c.put_affects _ _).trans (.ite (.refl ..) ((Chip.clearIdentity_affects _ x).trans (Chip.setState_affects _ x _)))))

theorem Chip.commitLine_affects (c : Chip) (old new : Proposal) (x : Line) : c.Affects (c.commitLine old new x) :=
  (((c.enableLine_affects x _).trans (.ite (Chip.losRise_affects _ x) (.refl ..))).trans
    (.ite (Chip.cutBurst_affects _ x) (.refl ..))).trans (Chip.tryAnnounce_affects _ x)

/-! ## Shapers, meters, the merge and the tributaries -/

theorem Chip.fillShaper_affects (c : Chip) (t i : Nat) : c.Affects (c.fillShaper t i) := .piece rfl rfl rfl rfl
theorem Chip.fillMeter_affects (c : Chip) (i : Nat) : c.Affects (c.fillMeter i) := .piece rfl rfl rfl rfl

theorem Chip.rateReset_affects (c : Chip) (old new : Proposal) : c.Affects (c.rateReset old new) := by
  have shaped : ∀ (d : Chip) (l : List (Nat × Nat)), d.Affects (l.foldl (fun c e => c.fillShaper e.1 e.2) d) :=
    fun d l => .foldl _ _ (fun e x _ => e.fillShaper_affects x.1 x.2) d
  have metered : ∀ (d : Chip) (l : List Nat), d.Affects (l.foldl Chip.fillMeter d) :=
    fun d l => .foldl _ _ (fun e i _ => e.fillMeter_affects i) d
  exact .trans (.ite ((shaped c _).trans (Chip.put_affects _ _ _)) (.refl ..)) (.ite ((metered _ _).trans (Chip.put_affects _ _ _)) (.refl ..))

theorem Chip.switchMaster_affects (c : Chip) (x : Line) : c.Affects (c.switchMaster x) := by
  have taken : c.Affects (c.takeMaster x) := ((c.put_affects _ _).trans (Chip.put_affects _ _ _)).trans (Chip.put_affects _ _ _)
  exact ((taken.trans (.setReg _ (.inl rfl))).trans (Chip.count_affects _ _ (by decide))).trans (Chip.put_affects _ _ _)

theorem Chip.enterHoldover_affects (c : Chip) : c.Affects c.enterHoldover := by
  have counted : c.Affects ((c.put NTU_STATUS_STATE 3).count N_NTU_HO_ENTRY) := (c.put_affects _ _).trans (Chip.count_affects _ _ (by decide))
  have alarmed : ∀ d : Chip, d.Affects (((d.raise NTU_ALARM_HOLDOVER).raise TWE_STATUS_NO_MASTER).raise TWE_ALARM_STATE_NO_MASTER) :=
    fun d => ((d.put_affects _ _).trans (Chip.put_affects _ _ _)).trans (Chip.put_affects _ _ _)
  have lost : ∀ d : Chip, d.Affects ((d.raise TWE_ALARM_NO_MASTER).modTime fun t => { t with locked := 0 }) :=
    fun d => (d.put_affects _ _).trans (Chip.modTime_affects _ _)
  exact (((counted.trans (alarmed _)).trans (lost _)).trans (.ite (.refl ..) (Chip.put_affects _ _ _))).trans (Chip.start_affects _ _ _)

theorem Chip.commitMerge_affects (c : Chip) (old new : Proposal) (wrote : Nat → Bool) : c.Affects (c.commitMerge old new wrote) := by
  have paired : ∀ (d : Chip) (l : List Nat), d.Affects (if d.isOn 7 then l.foldl Chip.resetPair d else d) :=
    fun d l => .ite (.foldl _ _ (fun e _ _ => e.put_affects _ _) d) (.refl ..)
  refine ((c.modMerge_affects _).trans (paired _ _)).trans (.ite (.refl ..) (.ite (.ite (.refl ..) (.ite ?_ ?_)) (.ite ?_ (.refl ..))))
  · exact Chip.switchMaster_affects _ _
  · exact Chip.enterHoldover_affects _
  · exact Chip.switchMaster_affects _ _

theorem Chip.setSlotState_affects (c : Chip) (s st : Nat) : c.Affects (c.setSlotState s st) := by
  unfold Chip.setSlotState
  extract_lets d valid e
  have hd : c.Affects d := c.put_affects _ _
  have he : d.Affects e := .ite (d.put_affects _ _) (d.put_affects _ _)
  exact (hd.trans he).trans (.ite (e.put_affects _ _) (e.put_affects _ _))

theorem Chip.restartSlot_affects (c : Chip) (s : Nat) : c.Affects (c.restartSlot s) :=
  (c.setSlot_affects s _).trans (Chip.setSlotState_affects _ s 1)

theorem Chip.commitTdm_affects (c : Chip) (old new : Proposal) (wrote : Nat → Bool) : c.Affects (c.commitTdm old new wrote) := by
  have slots : c.Affects (if c.isOn 44 then ((List.range 64).filter fun s => wrote (TCM_DS_SLOT s)).foldl Chip.restartSlot c else c) :=
    .ite (.foldl _ _ (fun e s _ => e.restartSlot_affects s) c) (.refl ..)
  have intwk : ∀ (d : Chip) (l : List Nat), d.Affects (l.foldl (fun c n => c.lower (TDM_STATUS_INTWK n)) d) :=
    fun d l => .foldl _ _ (fun e _ _ => e.put_affects _ _) d
  exact (slots.trans (intwk _ _)).trans (.ite (.tal _ _) (.refl ..))

/-! ## Ethernet ports -/

theorem portCtrs_ne (n : Nat) : N_ETHP_TX_LINKDOWN_DROP n ≠ N_CFG_APPLIED ∧ N_ETHP_TX_BAD_FCS n ≠ N_CFG_APPLIED ∧
    N_ETHP_TX_FRAMES n ≠ N_CFG_APPLIED ∧ N_ETHP_TX_BYTES n ≠ N_CFG_APPLIED := by
  simp only [N_ETHP_TX_LINKDOWN_DROP, N_ETHP_TX_BAD_FCS, N_ETHP_TX_FRAMES, N_ETHP_TX_BYTES, N_CFG_APPLIED]
  omega

theorem Chip.finishFrame_affects (c : Chip) (n : Nat) (e : EthPort) : c.Affects (c.finishFrame n e) := by
  obtain ⟨-, hbad, hframes, hbytes⟩ := portCtrs_ne n
  exact Chip.finishFrame_only c n e (by simp [effectPieces]) (by simpa using hbad) (by simpa using hframes) (by simpa using hbytes)

theorem Chip.judgeBound_affects (c : Chip) (n : Nat) : c.Affects (c.judgeBound n) :=
  .ite (.refl ..) (.ite (.ite (.refl ..) ((c.put_affects _ _).trans (Chip.put_affects _ _ _))) (c.put_affects _ _))

theorem Chip.mmActive_affects (c : Chip) (n : Nat) (b : Bool) : c.Affects (c.mmActive n b) :=
  (c.put_affects _ _).trans (Chip.judgeBound_affects _ n)

theorem Chip.sendVerify_affects (c : Chip) (n : Nat) : c.Affects (c.sendVerify n) :=
  (((c.modPort_affects n _).trans (Chip.put_affects _ _ _)).trans (.emit _ (by simp [effectPieces]))).trans (Chip.start_affects _ _ _)

theorem Chip.mmRestart_affects (c : Chip) (n : Nat) : c.Affects (c.mmRestart n) := by
  unfold Chip.mmRestart
  extract_lets d
  have hd : c.Affects d := (c.stop_affects _).trans (Chip.modPort_affects _ n _)
  refine .ite (.refl ..) (hd.trans (.ite ?_ (.ite ?_ ?_)))
  · exact (d.put_affects _ _).trans (Chip.mmActive_affects _ n _)
  · exact (d.put_affects _ _).trans (Chip.mmActive_affects _ n _)
  · exact (d.mmActive_affects n _).trans (.ite (Chip.sendVerify_affects _ n) (Chip.put_affects _ _ _))

theorem Chip.mmDown_affects (c : Chip) (n : Nat) : c.Affects (c.mmDown n) :=
  .ite (.refl ..) ((((c.stop_affects _).trans (Chip.modPort_affects _ n _)).trans (Chip.put_affects _ _ _)).trans
    ((Chip.put_affects _ _ _).trans (Chip.put_affects _ _ _)))

theorem Chip.ptpStop_affects (c : Chip) (n : Nat) : c.Affects (c.ptpStop n) :=
  .ite ((c.put_affects _ _).trans (.ite (Chip.put_affects _ _ _) (.refl ..))) (.refl ..)

theorem Chip.linkFalls_affects (c : Chip) (n : Nat) : c.Affects (c.linkFalls n) := by
  have counted : c.Affects (((c.lower (ETH_STATUS_LINK n)).raise (ETH_ALARM_LINK_DOWN n)).count (N_ETHP_TX_LINKDOWN_DROP n)
      (b2n (c.port n).tx.isSome + b2n (c.port n).parked.isSome)) :=
    ((c.put_affects _ _).trans (Chip.put_affects _ _ _)).trans (Chip.count_affects _ _ (portCtrs_ne n).1)
  exact .ite (.refl ..) (((counted.trans (Chip.modPort_affects _ n _)).trans (Chip.mmDown_affects _ n)).trans (Chip.ptpStop_affects _ n))

theorem Chip.setLink_affects (c : Chip) (n : Nat) (up : Bool) : c.Affects (c.setLink n up) :=
  .ite (.refl ..) (.ite
    ((((c.put_affects _ _).trans (Chip.put_affects _ _ _)).trans (Chip.mmRestart_affects _ n)).trans (Chip.judgeBound_affects _ n))
    (c.linkFalls_affects n))

theorem Chip.portRestart_affects (c : Chip) (n : Nat) : c.Affects (c.portRestart n) := by
  unfold Chip.portRestart
  extract_lets _ finished down aligned
  have hfinished : c.Affects finished := by
    unfold finished
    split
    · exact c.finishFrame_affects n _
    · exact .refl ..
  have hdown : finished.Affects down :=
    (((finished.put_affects _ _).trans (Chip.put_affects _ _ _)).trans (Chip.put_affects _ _ _)).trans (Chip.setLink_affects _ n false)
  exact ((hfinished.trans hdown).trans (.ite (Chip.put_affects _ _ _) (.refl ..))).trans (.ite (Chip.put_affects _ _ _) (.refl ..))

theorem Chip.fixPolarity_affects (c : Chip) (l : Nat) : c.Affects (c.fixPolarity l) := by
  unfold Chip.fixPolarity
  split
  · exact (c.put_affects _ _).trans (Chip.stop_affects _ _)
  · exact (c.put_affects _ _).trans (Chip.stop_affects _ _)
  · exact .refl ..

theorem Chip.commitPort_affects (c : Chip) (old new : Proposal) (n : Nat) : c.Affects (c.commitPort old new n) := by
  have polar : ∀ (p : Prop) [Decidable p], c.Affects (if p then c.fixPolarity n else c) := fun _ _ => .ite (c.fixPolarity_affects n) (.refl ..)
  have order : ∀ (d : Chip) (p : Prop) [Decidable p], d.Affects (if p then d.fixTxOrder else d) :=
    fun d _ _ => .ite (.ite (.refl ..) (d.put_affects _ _)) (.refl ..)
  exact (polar _).trans (.ite (.refl ..) (((order _ _).trans (.ite (Chip.portRestart_affects _ n) (.refl ..))).trans
    (.ite (Chip.mmRestart_affects _ n) (.refl ..))))

/-! ## Event slots -/

theorem Chip.setEvSlot_affects (c : Chip) (k : Nat) (e : EvSlot) : c.Affects (c.setEvSlot k e) := c.modTime_affects _

theorem Chip.armSchedule_affects (c : Chip) (e : EvSlot) : c.Affects (c.armSchedule e) := by
  unfold Chip.armSchedule
  split
  · unfold Chip.armSlot
    dsimp only
    split
    · exact c.setEvSlot_affects _ _
    · exact .refl ..
  · exact .refl ..

end Sys2Proof.Machine
end

section
/-! SUPPORT. A power request (R374 to R380) changes registers from the power sequencer's page on, and the sequencer's own state: it
reaches no register of the configuration engine, whose page lies below. -/

namespace Sys2Proof.Machine
open Sys2Proof

/-- `d` differs from `c` in registers from page 2 on, timers, counters other than CFG_APPLIED, and the power sequencer. -/
abbrev Chip.Powers : Chip → Chip → Prop :=
  Chip.Within (fun a => decide (0x20000 ≤ a)) (fun a => a != N_CFG_APPLIED) (fun _ => true) [.power]

theorem Chip.put_powers (c : Chip) (x : Fld) (v : Nat) (h : 0x20000 ≤ x.addr) : c.Powers (c.put x v) := .put _ (.inl (decide_eq_true h))
theorem Chip.power_powers (c : Chip) (p : PowerState) : c.Powers { c with power := p } := .piece rfl rfl rfl rfl
theorem Chip.start_powers (c : Chip) (k : TimerKey) (n : Nat) : c.Powers (c.start k n) := .start _ (.inl rfl)
theorem Chip.stop_powers (c : Chip) (k : TimerKey) : c.Powers (c.stop k) := .stop (.inl rfl)

/-- A counter that is not CFG_APPLIED counts. -/
theorem Chip.count_powers (c : Chip) {a : Nat} (h : a ≠ N_CFG_APPLIED) : c.Powers (c.count a) := Chip.count_only c 1 none (by simpa using h)

theorem powerState_page (d : Nat) : 0x20000 ≤ PWR_STATE d := by simp only [PWR_STATE]; omega

/-- A field of PWR_STATEn, of whatever number. -/
theorem Chip.putState_powers (c : Chip) (d lo n v : Nat) : c.Powers (c.put ⟨PWR_STATE d, lo, n⟩ v) := c.put_powers _ v (powerState_page d)

theorem Chip.refreshClocks_powers (c : Chip) : c.Powers c.refreshClocks := .setReg _ (.inl (by decide))

theorem Chip.setPresent_powers (c : Chip) (d st : Nat) : c.Powers (c.setPresent d st) :=
  ((c.putState_powers d _ _ _).trans (Chip.putState_powers _ d _ _ _)).trans (Chip.refreshClocks_powers _)

/-! ## Results -/

theorem Chip.powerResult_powers (c : Chip) (src : ReqSource) (id : Nat) (doms : List Nat) (first res : Nat) :
    c.Powers (c.powerResult src id doms first res) := by
  unfold Chip.powerResult
  extract_lets shown told counted
  have hshown : c.Powers shown := .foldl _ _ (fun d n _ => .ite (d.putState_powers n _ _ _) (.refl ..)) c
  have htold : shown.Powers told := .ite (((shown.put_powers _ _ (by decide)).trans (Chip.put_powers _ _ _ (by decide))).trans
    (Chip.put_powers _ _ _ (by decide))) (.refl ..)
  have hcounted : told.Powers counted := .ite (told.count_powers (by decide)) (.refl ..)
  refine ((hshown.trans htold).trans hcounted).trans (.ite ?_ (.ite ?_ (.ite ?_ (.refl ..))))
  · exact counted.put_powers _ _ (by decide)
  · exact counted.put_powers _ _ (by decide)
  · exact counted.put_powers _ _ (by decide)

theorem Chip.failResult_powers (c : Chip) (j : PowerJob) (d res : Nat) : c.Powers (c.failResult j d res) :=
  .ite (.refl ..) (c.powerResult_powers _ _ _ _ _)

theorem listenRegs_page (n : Nat) : 0x20000 ≤ ETH_WAKE_STATUS n ∧ 0x20000 ≤ ETH_STATUS n := by
  simp only [ETH_WAKE_STATUS, ETH_STATUS]
  omega

theorem Chip.listenState_powers (c : Chip) (g : Nat) (b : Bool) : c.Powers (c.listenState g b) := by
  have cleared : ∀ (d : Chip) (n : Nat), d.Powers (if b then d.setReg (ETH_WAKE_STATUS n) 0 else d) :=
    fun d n => .ite (.setReg _ (.inl (decide_eq_true (listenRegs_page n).1))) (.refl ..)
  exact .trans (.ite (c.put_powers _ _ (by decide)) (c.put_powers _ _ (by decide)))
    (.foldl _ _ (fun d n _ => (cleared d n).trans (Chip.put_powers _ _ _ (listenRegs_page n).2)) _)

theorem Chip.jobDone_powers (c : Chip) (j : PowerJob) : c.Powers (c.jobDone j) := by
  unfold Chip.jobDone
  refine .ite (.refl ..) ((c.powerResult_powers j.src j.id [] j.dom 0).trans ?_)
  dsimp only
  split
  · exact Chip.listenState_powers _ _ _
  · exact .refl ..

/-! ## Moves and requests -/

theorem Chip.nextStep_powers (c : Chip) (d : Nat) : c.Powers (c.nextStep d) := by
  have stepped : ∀ e : Chip, e.Powers (e.put (PWR_STATE_PHASE d) (nextPhase d (c.f (PWR_STATE_PHASE d)))) := fun e => e.putState_powers d _ _ _
  exact .ite ((c.stop_powers _).trans (Chip.power_powers _ _))
    (((c.power_powers _).trans (stepped _)).trans (.ite (Chip.stop_powers _ _) (Chip.start_powers _ _ _)))

theorem Chip.beginMove_powers (c : Chip) (m : PowerMove) : c.Powers (c.beginMove m) := by
  refine .ite (.refl ..) (.ite (c.nextStep_powers _) (.ite ?_ ?_))
  · exact (c.putState_powers _ _ _ _).trans (.ite (.refl ..) (Chip.start_powers _ _ _))
  · exact ((c.setPresent_powers _ _).trans (Chip.count_powers _ (by decide))).trans (Chip.power_powers _ _)

theorem Chip.runMove_powers (c : Chip) (j : PowerJob) (m : PowerMove) : c.Powers (c.runMove j m).1 := by
  unfold Chip.runMove
  dsimp only
  split
  · exact .refl ..
  · split
    · exact .refl ..
    · split
      · exact c.failResult_powers j _ _
      · split
        · exact (c.beginMove_powers m).trans (Chip.putState_powers _ _ _ _ _)
        · exact c.beginMove_powers m

/-- One pass over the moves of a request. -/
theorem Chip.runMoves_powers (ms : List PowerMove) (r : Chip × PowerJob) :
    r.1.Powers (ms.foldl (fun r m => if r.2.todo.contains m then r.1.runMove r.2 m else r) r).1 := by
  induction ms generalizing r with
  | nil => exact .refl ..
  | cons m ms ih =>
    rw [List.foldl_cons]
    refine .trans ?_ (ih _)
    split
    · exact r.1.runMove_powers r.2 m
    · exact .refl ..

theorem Chip.runJob_powers (n : Nat) (c : Chip) (j : PowerJob) : c.Powers (Chip.runJob n c j).1 := by
  induction n generalizing c j with
  | zero => exact .refl ..
  | succ n ih =>
    have pass := Chip.runMoves_powers j.todo (c, j)
    unfold Chip.runJob
    dsimp only
    split
    · exact pass.trans (ih _ _)
    · exact pass

theorem Chip.runJobs_powers (c : Chip) : c.Powers c.runJobs :=
  (c.power_powers _).trans (.foldl _ _ (fun d j _ => (Chip.runJob_powers _ d j).trans (.ite (Chip.jobDone_powers _ _) (Chip.power_powers _ _))) _)

theorem Chip.cancelQuiesce_powers (c : Chip) (d : Nat) : c.Powers (c.cancelQuiesce d) :=
  .ite (.trans (((c.putState_powers d _ _ _).trans (Chip.stop_powers _ _)).trans (Chip.power_powers _ _))
    (.foldl _ _ (fun e j _ => e.failResult_powers j d 6) _)) (.refl ..)

theorem Chip.queueRequest_powers (c : Chip) (r : PowerReq) : c.Powers (c.queueRequest r) := by
  have superseded : ∀ l : List PowerReq, c.Powers (l.foldl (fun c q => c.powerResult q.src q.id (q.moves.map (·.dom)) r.dom 6) c) :=
    fun l => .foldl _ _ (fun d q _ => d.powerResult_powers _ _ _ _ _) c
  exact ((superseded _).trans (Chip.power_powers _ _)).trans (Chip.putState_powers _ _ _ _ _)

theorem Chip.submit_powers (c : Chip) (r : PowerReq) : c.Powers (c.submit r) := by
  have raised : c.Powers ((c.raised r.moves).foldl Chip.cancelQuiesce c) := .foldl _ _ (fun d n _ => d.cancelQuiesce_powers n) c
  unfold Chip.submit
  refine raised.trans ?_
  dsimp only
  split
  · exact Chip.queueRequest_powers _ _
  · exact .ite (Chip.powerResult_powers _ _ _ _ _ _) ((Chip.power_powers _ _).trans (Chip.runJobs_powers _))

theorem Chip.settleQueue_powers (n : Nat) (c : Chip) : c.Powers (Chip.settleQueue n c) := by
  induction n generalizing c with
  | zero => exact .refl ..
  | succ n ih =>
    unfold Chip.settleQueue
    split
    · exact .refl ..
    · exact (((c.putState_powers _ _ _ _).trans (Chip.power_powers _ _)).trans (Chip.submit_powers _ _)).trans (ih _)

theorem Chip.powerRequest_powers (c : Chip) (src : ReqSource) (ms : List PowerMove) (exempt : Bool) : c.Powers (c.powerRequest src ms exempt) :=
  .ite (.refl ..) ((c.submit_powers _).trans (Chip.settleQueue_powers 64 _))

theorem Chip.standingChange_powers (c : Chip) (changed : List Nat) : c.Powers (c.standingChange changed) := by
  have held : ∀ l : List Nat, c.Powers (l.foldl Chip.refreshHeld c) := fun l => .foldl _ _ (fun d n _ => d.putState_powers n _ _ _) c
  exact (held _).trans (Chip.powerRequest_powers _ _ _ _)

theorem Chip.commitPower_powers (c : Chip) (old new : Proposal) : c.Powers (c.commitPower old new) :=
  .ite (.refl ..) ((c.power_powers _).trans (Chip.standingChange_powers _ _))

end Sys2Proof.Machine
end

section
/-! SUPPORT. An apply taken apart (R335): what it records of the commit beside the registers, and what it shows in the registers of the
configuration engine. -/

namespace Sys2Proof.Machine
open Sys2Proof

variable {R C : Nat → Bool} {K : TimerKey → Bool} {ps : List Piece} {c d : Chip}

/-! ## The mark of a commit -/

/-- What an apply sets, or leaves as it was, beside registers: the time, the flash and the balls, the configuration store, the pending
commits, the instant of the last apply, the region that the configuration came from, and the count of applies. -/
structure CommitMark where
  now : Nat
  nt : NetTime
  flash : Map Byte
  pins : PinState
  store : Map Word
  tableStore : Map Nat
  everCommitted : Bool
  pending : List Commit
  applied : Option Nat
  region : Option Nat
  applies : DWord

def Chip.commitMark (c : Chip) : CommitMark :=
  { now := c.now, nt := c.nt, flash := c.flash, pins := c.pins, store := c.store, tableStore := c.tableStore, everCommitted := c.everCommitted
    pending := c.cfg.pending, applied := c.cfg.applied, region := c.boot.cfgRegion, applies := c.ctr N_CFG_APPLIED }

/-- The pieces that the mark is read from. -/
def markPieces : List Piece := [.clock, .config, .flash, .pins, .boot, .cfg]

/-- A frame that names none of those pieces keeps the mark but for the count of applies. -/
theorem Chip.Within.commitMark_but_applies (h : Chip.Within R C K ps c d) (hp : ∀ p ∈ markPieces, p ∉ ps) :
    d.commitMark = { c.commitMark with applies := d.ctr N_CFG_APPLIED } := by
  simp only [markPieces, List.forall_mem_cons, List.not_mem_nil, false_implies, implies_true, and_true] at hp
  obtain ⟨hclock, hconfig, hflash, hpins, hboot, hcfg⟩ := hp
  simp only [Chip.commitMark, h.now hclock, h.nt hclock, h.flash hflash, h.pins hpins, h.store hconfig, h.tableStore hconfig, h.everCommitted hconfig,
    h.cfg hcfg, h.boot hboot]

/-- A frame that does not name that count either keeps the mark. -/
theorem Chip.Within.commitMark (h : Chip.Within R C K ps c d) (hC : C N_CFG_APPLIED = false) (hp : ∀ p ∈ markPieces, p ∉ ps) :
    d.commitMark = c.commitMark := by
  rw [h.commitMark_but_applies hp, h.ctr N_CFG_APPLIED hC (by decide)]
  rfl

theorem Chip.commitMark_of_affects (h : c.Affects d) : d.commitMark = c.commitMark := h.commitMark (by simp) (by decide)

theorem Chip.commitMark_of_powers (h : c.Powers d) : d.commitMark = c.commitMark := h.commitMark (by simp) (by decide)

@[simp] theorem Chip.commitMark_setReg (c : Chip) (a : Nat) (w : Word) : (c.setReg a w).commitMark = c.commitMark := rfl
@[simp] theorem Chip.commitMark_put (c : Chip) (x : Fld) (v : Nat) : (c.put x v).commitMark = c.commitMark := rfl
@[simp] theorem Chip.commitMark_setPair (c : Chip) (a v : Nat) : (c.setPair a v).commitMark = c.commitMark := rfl

/-! ## Values, effects and extras -/

/-- The values reach the configuration store, and of the blocks registers and tables alone. -/
theorem Chip.applyValues_mark (c : Chip) (old new : Proposal) :
    (c.applyValues old new).commitMark = { c.commitMark with store := new.regs, tableStore := new.tabs } := by
  have blocks : ∀ (l : List Nat) (d : Chip),
      (l.foldl (fun c a => if c.isOn (addrDom a) then c.setReg a (new.reg a) else c) d).commitMark = d.commitMark :=
    fun l d => Chip.commitMark_of_affects (.foldl _ _ (fun _ _ _ => .ite (.setReg _ (.inl rfl)) (.refl ..)) d)
  exact blocks (new.regKeys old) { c with store := new.regs, tableStore := new.tabs }

/-- The flag of the first commit changes alike on both sides of a frame. -/
theorem Chip.Within.setEverCommitted (h : Chip.Within R C K ps c d) (b : Bool) :
    Chip.Within R C K ps { c with everCommitted := b } { d with everCommitted := b } where
  reg := h.reg
  ctr := h.ctr
  timer := h.timer
  body := congrArg (fun e : Chip => { e with everCommitted := keep ps .config false b }) h.body

theorem Chip.refreshClocks_affects (c : Chip) : c.Affects c.refreshClocks := .setReg _ (.inl rfl)

/-- The effects in the blocks, beside the mark that a configuration has been committed. -/
theorem Chip.commitEffects_affects (c : Chip) (old new : Proposal) (wrote : Nat → Bool) :
    Chip.Affects { c with everCommitted := true } (c.commitEffects old new wrote) := by
  unfold Chip.commitEffects
  extract_lets lines blocks ports quiet stopped bounded
  have hlines : c.Affects lines :=
    ((c.rateReset_affects old new).trans (Chip.commitLine_affects _ old new .a)).trans (Chip.commitLine_affects _ old new .b)
  have hblocks : lines.Affects blocks := (lines.commitMerge_affects old new wrote).trans (Chip.commitTdm_affects _ old new wrote)
  have hports : blocks.Affects ports := .foldl _ _ (fun d n _ => d.commitPort_affects old new n) blocks
  have hstopped : ports.Affects stopped := .trans (.foldl _ _ (fun d n _ => d.ptpStop_affects n) ports) (Chip.refreshClocks_affects _)
  have hbounded : c.Affects bounded := (((hlines.trans hblocks).trans hports).trans hstopped).trans (stopped.modTime_affects _)
  exact (hbounded.setEverCommitted true).trans (.foldl _ _ (fun d n _ => d.judgeBound_affects n) _)

theorem Chip.commitEffects_mark (c : Chip) (old new : Proposal) (wrote : Nat → Bool) :
    (c.commitEffects old new wrote).commitMark = { c.commitMark with everCommitted := true } :=
  Chip.commitMark_of_affects (c.commitEffects_affects old new wrote)

theorem Chip.imageExtras_mark (c : Chip) (k : Commit) : (c.imageExtras k).commitMark = c.commitMark := by
  unfold Chip.imageExtras
  extract_lets good counted kept timed
  have hcounted : counted.commitMark = c.commitMark := Chip.commitMark_of_affects (c.count_affects _ (by decide))
  have hkept : ∀ d : Chip, (d.modCfg fun e => { e with keys := k.keys.filter good, delegate := k.cert }).commitMark = d.commitMark := fun _ => rfl
  have htimed : timed.commitMark = c.commitMark :=
    (Chip.commitMark_of_affects (kept.modTime_affects _)).trans ((hkept counted).trans hcounted)
  split
  · rfl
  · split
    · exact htimed
    · refine (Chip.commitMark_of_affects (.foldl _ _ (fun d e _ => ?_) timed)).trans htimed
      split
      · exact d.modKeys_affects _
      · exact .refl ..

/-- The commit taken up by the terminal, before the configuration engine shows it: its values, effects, extras and events. -/
def Chip.takeCommit (c : Chip) (k : Commit) : Chip :=
  let old := c.committed
  let new := k.over old
  let wrote := fun a => k.full || k.regs.any fun e => e.1 == a
  let c' := c.modCfg fun e => { e with pending := e.pending.erase k, applied := some c.now }
  (k.slots c.nt.fn).foldl Chip.armSchedule ((((c'.applyValues old new).unstage k).commitEffects old new wrote).imageExtras k)

theorem Chip.takeCommit_mark (c : Chip) (k : Commit) :
    (c.takeCommit k).commitMark =
      { c.commitMark with
        store := (k.over c.committed).regs, tableStore := (k.over c.committed).tabs, everCommitted := true
        pending := c.cfg.pending.erase k, applied := some c.now } := by
  unfold Chip.takeCommit
  extract_lets old new wrote engine
  have armed : ∀ (l : List EvSlot) (d : Chip), (l.foldl Chip.armSchedule d).commitMark = d.commitMark :=
    fun l d => Chip.commitMark_of_affects (.foldl _ _ (fun e v _ => e.armSchedule_affects v) d)
  have unstaged : ∀ d : Chip, (d.unstage k).commitMark = d.commitMark := fun _ => rfl
  rw [armed, Chip.imageExtras_mark, Chip.commitEffects_mark, unstaged, Chip.applyValues_mark]
  rfl

/-! ## What the configuration engine shows -/

/-- LAST, REASON, RECORD and CFG_LAST_FN of an apply. -/
def Chip.showStatus (c : Chip) (fn : Nat) : Chip :=
  (((c.put CFG_STATUS_LAST 1).put CFG_STATUS_REASON 0).put CFG_STATUS_RECORD 0xFFFF).setPair CFG_LAST_FN_LO fn

/-- The version of an image, and its region as the one that the configuration came from. -/
def Chip.showVersion (c : Chip) (k : Commit) : Chip :=
  match k.version with
  | some v => c.setReg CFG_IMG_VER (BitVec.ofNat 32 v)
  | none => c
def Chip.takeRegion (c : Chip) (k : Commit) : Chip :=
  match k.region with
  | some r => { c with boot := { c.boot with cfgRegion := some r } }
  | none => c

/-- The count of applies, and the pulse of a commit. -/
def Chip.countApply (c : Chip) : Chip := (c.count N_CFG_APPLIED).pulse 23 2 none 1

/-- A save that was being prepared is void. -/
def Chip.voidSave (c : Chip) : Chip :=
  if c.f CFG_SAVE_STATE = 1 || c.f CFG_SAVE_STATE = 2 then (c.put CFG_SAVE_STATE 4).stop .savePrep else c

/-- An apply: the commit is taken up, shown and counted, and the power state changes last (R17). -/
theorem Chip.applyCommit_eq (c : Chip) (k : Commit) :
    c.applyCommit k =
      (((((c.takeCommit k).showVersion k).takeRegion k).showStatus c.nt.fn).countApply.voidSave.showPending).commitPower c.committed
        (k.over c.committed) := rfl

end Sys2Proof.Machine
end

section
/-! PROOF. What an apply writes into the configuration store, and what it shows (R19, R335). -/

namespace Sys2Proof.Machine
open Sys2Proof

variable {C : Nat → Bool} {K : TimerKey → Bool} {ps : List Piece}

/-! ## What the registers show of an apply -/

/-- The registers of the configuration engine that show an apply. -/
def applyRegs : List Nat := [CFG_STATUS, CFG_LAST_FN_LO, CFG_LAST_FN_LO + 4, CFG_IMG_VER]

theorem applyRegs_follow_nothing : ∀ a ∈ applyRegs, standingReg a = false ∧ tallyPage a = false := by decide

/-- LAST, REASON, RECORD, CFG_LAST_FN and the image's version as an apply at FN `fn` shows them. -/
structure Chip.ShowsApply (k : Commit) (fn : Nat) (c : Chip) : Prop where
  last : c.f CFG_STATUS_LAST = 1
  reason : c.f CFG_STATUS_REASON = 0
  record : c.f CFG_STATUS_RECORD = 0xFFFF
  lastFn : c.pair CFG_LAST_FN_LO = fn % 2 ^ 64
  version : ∀ v ∈ k.version, c.reg CFG_IMG_VER = BitVec.ofNat 32 v

/-- What keeps those fields and registers keeps what they show. -/
theorem Chip.ShowsApply.congr {k : Commit} {fn : Nat} {c d : Chip} (h : c.ShowsApply k fn)
    (hf : ∀ x ∈ [CFG_STATUS_LAST, CFG_STATUS_REASON, CFG_STATUS_RECORD], d.f x = c.f x)
    (hr : ∀ a ∈ [CFG_LAST_FN_LO, CFG_LAST_FN_LO + 4, CFG_IMG_VER], d.reg a = c.reg a) : d.ShowsApply k fn := by
  simp only [List.forall_mem_cons, List.not_mem_nil, false_implies, implies_true, and_true] at hf hr
  obtain ⟨hlast, hreason, hrecord⟩ := hf
  obtain ⟨hlo, hhi, hver⟩ := hr
  exact ⟨hlast.trans h.last, hreason.trans h.reason, hrecord.trans h.record, by rw [← h.lastFn, Chip.pair, Chip.pair, hlo, hhi],
    fun v hv => hver.trans (h.version v hv)⟩

/-- A frame that names none of those registers keeps what they show. -/
theorem Chip.ShowsApply.within {k : Commit} {fn : Nat} {c d : Chip} {R : Nat → Bool} (h : c.ShowsApply k fn)
    (hw : Chip.Within R C K ps c d) (hR : ∀ a ∈ applyRegs, R a = false) : d.ShowsApply k fn := by
  have hreg : ∀ a ∈ applyRegs, d.reg a = c.reg a := fun a ha => by
    obtain ⟨hs, ht⟩ := applyRegs_follow_nothing a ha
    exact hw.reg a (hR a ha) hs ht
  have hstatus : ∀ x : Fld, x.addr = CFG_STATUS → d.f x = c.f x := fun x hx => by
    simp only [Chip.f, hx, hreg CFG_STATUS (by simp [applyRegs])]
  refine h.congr (fun x hx => hstatus x ?_) (fun a ha => hreg a (List.mem_cons_of_mem _ ha))
  simp only [List.mem_cons, List.not_mem_nil, or_false] at hx
  rcases hx with rfl | rfl | rfl <;> rfl

/-- A pair written reads as the value, cut to its 64 bits. -/
theorem Chip.pair_setPair (c : Chip) (a v : Nat) : (c.setPair a v).pair a = v % 2 ^ 64 := by
  rw [Chip.pair, Chip.setPair, Chip.reg_setReg_same, Chip.reg_setReg_other _ _ (by omega), Chip.reg_setReg_same, BitVec.toNat_ofNat,
    BitVec.toNat_ofNat]
  omega

theorem Chip.reg_setPair_other (c : Chip) {a i : Nat} (v : Nat) (h : i ≠ a ∧ i ≠ a + 4) : (c.setPair a v).reg i = c.reg i := by
  rw [Chip.setPair, Chip.reg_setReg_other _ _ h.2, Chip.reg_setReg_other _ _ h.1]

theorem Chip.f_setPair_other (c : Chip) (x : Fld) {a : Nat} (v : Nat) (h : x.addr ≠ a ∧ x.addr ≠ a + 4) : (c.setPair a v).f x = c.f x := by
  rw [Chip.f, Chip.f, Chip.reg_setPair_other _ _ h]

theorem Chip.showVersion_reg (c : Chip) (k : Commit) : ∀ v ∈ k.version, (c.showVersion k).reg CFG_IMG_VER = BitVec.ofNat 32 v := by
  intro v hv
  simp only [Chip.showVersion, Option.mem_def.1 hv, Chip.reg_setReg_same]

theorem Chip.takeRegion_regs (c : Chip) (k : Commit) : (c.takeRegion k).regs = c.regs := by
  unfold Chip.takeRegion
  cases k.region <;> rfl

theorem Chip.showStatus_shows {k : Commit} {c : Chip} (fn : Nat) (h : ∀ v ∈ k.version, c.reg CFG_IMG_VER = BitVec.ofNat 32 v) :
    (c.showStatus fn).ShowsApply k fn := by
  refine ⟨?last, ?reason, ?record, Chip.pair_setPair _ _ _, fun v hv => ?version⟩
  case last =>
    rw [Chip.showStatus, Chip.f_setPair_other _ _ _ (by decide), Chip.f_put_apart _ CFG_STATUS_RECORD CFG_STATUS_LAST _ (by decide) rfl (by decide),
      Chip.f_put_apart _ CFG_STATUS_REASON CFG_STATUS_LAST _ (by decide) rfl (by decide), Chip.f_put_same _ _ _ (by decide)]
    rfl
  case reason =>
    rw [Chip.showStatus, Chip.f_setPair_other _ _ _ (by decide), Chip.f_put_apart _ CFG_STATUS_RECORD CFG_STATUS_REASON _ (by decide) rfl (by decide),
      Chip.f_put_same _ _ _ (by decide)]
    rfl
  case record =>
    rw [Chip.showStatus, Chip.f_setPair_other _ _ _ (by decide), Chip.f_put_same _ _ _ (by decide)]
    rfl
  case version =>
    rw [Chip.showStatus, Chip.reg_setPair_other _ _ (by decide), Chip.reg_put_other _ _ _ (by decide), Chip.reg_put_other _ _ _ (by decide),
      Chip.reg_put_other _ _ _ (by decide)]
    exact h v hv

/-- The fields of the pending commits lie in other registers, and CSTATE beside LAST, REASON and RECORD. -/
theorem Chip.showPending_only (c : Chip) :
    ∃ d n, c.showPending = d.put CFG_STATUS_CSTATE n ∧
      Chip.Only [CFG_PEND_LO 0, CFG_PEND_LO 0 + 4, CFG_PEND_LO 1, CFG_PEND_LO 1 + 4] [] [] [] c d := by
  have pair : ∀ (d : Chip) (n v : Nat), n < 2 →
      Chip.Only [CFG_PEND_LO 0, CFG_PEND_LO 0 + 4, CFG_PEND_LO 1, CFG_PEND_LO 1 + 4] [] [] [] d (d.setPair (CFG_PEND_LO n) v) := by
    intro d n v hn
    obtain rfl | rfl : n = 0 ∨ n = 1 := by omega
    · exact (Chip.Within.setReg _ (.inl (by decide))).trans (.setReg _ (.inl (by decide)))
    · exact (Chip.Within.setReg _ (.inl (by decide))).trans (.setReg _ (.inl (by decide)))
  unfold Chip.showPending
  extract_lets show_ shown
  have hshow : ∀ (d : Chip) (n : Nat), n < 2 →
      Chip.Only [CFG_PEND_LO 0, CFG_PEND_LO 0 + 4, CFG_PEND_LO 1, CFG_PEND_LO 1 + 4] [] [] [] d (show_ d n) := by
    intro d n hn
    unfold show_
    split
    · exact pair d n _ hn
    · exact pair d n 0 hn
  exact ⟨shown, _, rfl, (hshow c 0 (by decide)).trans (hshow _ 1 (by decide))⟩

theorem Chip.ShowsApply.showPending {k : Commit} {fn : Nat} {c : Chip} (h : c.ShowsApply k fn) : c.showPending.ShowsApply k fn := by
  obtain ⟨d, n, hd, honly⟩ := c.showPending_only
  rw [hd]
  refine (h.within honly (by decide)).congr ?_ ?_
  · simp only [List.forall_mem_cons, List.not_mem_nil, false_implies, implies_true, and_true]
    exact ⟨d.f_put_apart _ _ n (by decide) rfl (by decide), d.f_put_apart _ _ n (by decide) rfl (by decide),
      d.f_put_apart _ _ n (by decide) rfl (by decide)⟩
  · simp only [List.forall_mem_cons, List.not_mem_nil, false_implies, implies_true, and_true]
    exact ⟨d.reg_put_other _ n (by decide), d.reg_put_other _ n (by decide), d.reg_put_other _ n (by decide)⟩

theorem Chip.voidSave_only (c : Chip) : Chip.Only [CFG_SAVE] [] [.savePrep] [] c c.voidSave :=
  .ite ((Chip.Within.put _ (.inl (by decide))).trans (.stop (.inl (by decide)))) (.refl ..)

theorem Chip.countApply_only (c : Chip) : Chip.Only [] [N_CFG_APPLIED] [] [] c c.countApply :=
  (Chip.count_only c 1 none (by decide)).trans (Chip.pulse_only _ 2 none 1 none (by decide))

/-- What the registers show once a commit has applied. -/
theorem Chip.applyCommit_shows (c : Chip) (k : Commit) : (c.applyCommit k).ShowsApply k c.nt.fn := by
  have version : ∀ v ∈ k.version, (((c.takeCommit k).showVersion k).takeRegion k).reg CFG_IMG_VER = BitVec.ofNat 32 v := fun v hv =>
    (Chip.reg_congr (Chip.takeRegion_regs _ k) _).trans (Chip.showVersion_reg _ k v hv)
  have shown := ((Chip.showStatus_shows c.nt.fn version).within (Chip.countApply_only _) (by decide)).within (Chip.voidSave_only _) (by decide)
  rw [Chip.applyCommit_eq]
  exact shown.showPending.within (Chip.commitPower_powers _ _ _) (by decide)

/-! ## What an apply sets beside the registers -/

theorem Chip.showVersion_mark (c : Chip) (k : Commit) : (c.showVersion k).commitMark = c.commitMark := by
  unfold Chip.showVersion
  split
  · exact c.commitMark_setReg _ _
  · rfl

theorem Chip.takeRegion_mark (c : Chip) (k : Commit) :
    (c.takeRegion k).commitMark = { c.commitMark with region := k.region.or c.commitMark.region } := by
  unfold Chip.takeRegion
  cases k.region <;> rfl

theorem Chip.showStatus_mark (c : Chip) (fn : Nat) : (c.showStatus fn).commitMark = c.commitMark := by
  rw [Chip.showStatus, Chip.commitMark_setPair, Chip.commitMark_put, Chip.commitMark_put, Chip.commitMark_put]

theorem Chip.countApply_mark (c : Chip) : c.countApply.commitMark = { c.commitMark with applies := c.commitMark.applies + 1 } := by
  have pulsed : Chip.Only [] [] [] [] (c.count N_CFG_APPLIED) c.countApply := Chip.pulse_only _ 2 none 1 none (by decide)
  rw [c.countApply_only.commitMark_but_applies (by simp), pulsed.ctr N_CFG_APPLIED rfl (by decide), Chip.ctr_count _ _ _ (by decide)]
  rfl

theorem Chip.showPending_mark (c : Chip) : c.showPending.commitMark = c.commitMark := by
  obtain ⟨d, n, hd, honly⟩ := c.showPending_only
  rw [hd, Chip.commitMark_put]
  exact honly.commitMark (by decide) (by simp)

/-- What a commit that applies leaves beside the registers: its values in the configuration store, and itself no longer pending. -/
theorem Chip.applyCommit_mark (c : Chip) (k : Commit) :
    (c.applyCommit k).commitMark =
      { c.commitMark with
        store := (k.over c.committed).regs, tableStore := (k.over c.committed).tabs, everCommitted := true
        pending := c.cfg.pending.erase k, applied := some c.now, region := k.region.or c.boot.cfgRegion
        applies := c.ctr N_CFG_APPLIED + 1 } := by
  rw [Chip.applyCommit_eq, Chip.commitMark_of_powers (Chip.commitPower_powers _ _ _), Chip.showPending_mark,
    (Chip.voidSave_only _).commitMark (by decide) (by simp), Chip.countApply_mark, Chip.showStatus_mark, Chip.takeRegion_mark,
    Chip.showVersion_mark, Chip.takeCommit_mark]
  rfl

/-! ## The command -/

theorem Chip.elapse_only (c : Chip) (n : Nat) :
    Chip.Within (fun _ => true) (fun _ => true) (fun _ => false) [.clock, .line .a, .line .b, .ports] c (c.elapse n) := by
  by_cases h : n = 0
  · rw [h, Chip.elapse_zero]
    exact .refl ..
  · have moved : Chip.Within (fun _ => true) (fun _ => true) (fun _ => false) [.clock, .line .a, .line .b, .ports] c (c.moveClock n) :=
      (c.talElapse_only n).trans (.piece rfl rfl rfl rfl)
    rw [c.elapse_pos h]
    exact moved.trans (Chip.afterClock_only _ _ (fun _ => rfl) rfl rfl (fun _ => ⟨rfl, rfl, rfl⟩) (by rintro ⟨⟩ <;> simp) (by simp))

/-- The terminal at the instant at which a commit applies: CIF 0 of its FN or of the next frame late enough, or the next ccy while NT is
not valid (R335). -/
def Chip.atApply (c : Chip) (k : Commit) : Chip :=
  if c.ntValid = false then c.elapse 1 else c.toInstant { fn := if k.next = true then max k.fn c.nextApply else k.fn, cif := 0 }

theorem Chip.atApply_only (c : Chip) (k : Commit) :
    Chip.Within (fun _ => true) (fun _ => true) (fun _ => false) [.clock, .line .a, .line .b, .ports] c (c.atApply k) :=
  .ite (c.elapse_only _) (c.elapse_only _)

/-- The time up to the apply changes nothing of the configuration, the flash and the balls. -/
theorem Chip.atApply_keeps (c : Chip) (k : Commit) :
    (c.atApply k).cfg = c.cfg ∧ (c.atApply k).committed = c.committed ∧ (c.atApply k).flash = c.flash ∧ (c.atApply k).pins = c.pins := by
  have still := c.atApply_only k
  have committed : (c.atApply k).committed = c.committed := by
    rw [Chip.committed, Chip.committed, still.store (by simp), still.tableStore (by simp)]
  exact ⟨still.cfg (by simp), committed, still.flash (by simp), still.pins (by simp)⟩

theorem exec_commitApply {k : Commit} {r : List Commit} {s : State} (h : s.chip.cfg.pending = k :: r) :
    exec .commitApply s = run s fun c => (c.atApply k).applyCommit k := by
  show execCommitApply s = _
  simp only [execCommitApply, run, h, Chip.atApply, Bool.not_eq_true']

/-- What the command leaves: the commit's mark on the terminal at the instant of the apply, and the registers that show it. -/
theorem commitApply_leaves {k : Commit} {r : List Commit} {s : State} (h : s.chip.cfg.pending = k :: r) :
    Does .commitApply s fun c => c.commitMark = ((s.chip.atApply k).applyCommit k).commitMark ∧ c.ShowsApply k (s.chip.atApply k).nt.fn := by
  have settled : Chip.Only [] [] [] [] ((s.chip.atApply k).applyCommit k) (settle s.chip ((s.chip.atApply k).applyCommit k)) := settle_only ..
  exact ⟨_, exec_commitApply h, rfl, rfl, settled.commitMark rfl (by simp), (Chip.applyCommit_shows _ k).within settled (by simp)⟩

/-- Settles O39, from the mark of the commit and the registers that show it. -/
theorem commitApplies : Obligations.CommitApplies := by
  intro k r s hk
  obtain ⟨t, hexec, hqueue, hotp, hmark, hshows⟩ := commitApply_leaves hk
  obtain ⟨hcfg, hcommitted, hflash, hpins⟩ := s.chip.atApply_keeps k
  rw [Chip.applyCommit_mark, hcommitted, hcfg, hk, List.erase_cons_head] at hmark
  simp only [Chip.commitMark, CommitMark.mk.injEq] at hmark
  obtain ⟨now, nt, flash, pins, store, tableStore, committed, pending, applied, region, applies⟩ := hmark
  refine ⟨t, hexec, hqueue, hotp, fun a => ?_, tableStore, committed, pending, applied, now, nt, hshows.last, hshows.reason, hshows.record,
    hshows.lastFn, applies, hshows.version, fun q hq => ?_, flash.trans hflash, pins.trans hpins⟩
  · rw [Chip.stored, store]
    rfl
  · rw [region, Option.mem_def.1 hq, Option.some_or]

end Sys2Proof.Machine
end
